-- ==== Sys2Proof/Word.lean ====
section
/-!
DEFINITION. The words the manual treats as bits: bytes, register words, the 48-bit device address, and
the element formats of the numeric chain. Every multi-byte value in device memory is little-endian
(R5); the byte-order helpers stand in Machine/Bits.lean.
-/

namespace Sys2Proof

/-- One byte of any device memory. -/
abbrev Byte := BitVec 8

/-- A 16-bit register half or BF16 pattern. -/
abbrev W16 := BitVec 16

/-- The width of A and increment registers, and of core-local addresses (R187, R26). -/
abbrev W24 := BitVec 24

/-- A 32-bit register (R7), a counter or scalar register (R187), or an FP32 pattern (R58). -/
abbrev W32 := BitVec 32

/-- A 64-bit register (R7) or one 64-bit slot of a bundle (R236). -/
abbrev W64 := BitVec 64

/-- A byte string in memory order. -/
abbrev Bytes := List Byte

end Sys2Proof
end

