-- ==== Sys2Proof/Syntax.lean ====
section
/-!
DEFINITION. The commands of the block: one constructor of `Instr` for each row of
spec/opcode_table.json. A row is an operation the outside or firmware asks for, or an event the block
meets. Operands name the numbered part the row is about (R6) and what the surroundings decide: the
outcome of an error check, how long a wait lasted, the fields of a received packet, the bytes a remote
memory returned. Everything the block itself holds (programs, queues, registers, descriptors) is state.
-/

namespace Sys2Proof

/-- What the error check of a command's HBM or flash accesses found (R353, R373): nothing; rows with a corrected
error; or a first row with an uncorrectable one, beside rows with a corrected one. Rows are numbered over all the
command's accesses. -/
inductive Ecc where
  | clean
  | corrected (rows : List Nat)
  | uncorrectable (row : Nat) (corrected : List Nat)
deriving DecidableEq, Repr

/-- Scratchpad bits that have changed wrongly in a core since its last command (R163), by row (32 times the page, plus
the bank) and bit (0 to 1,023 the data, 1,024 to 1,071 the check bits). A bit named twice has changed back. -/
abbrev Flips := List (Nat × Nat)

/-- A core, and the cycles for which it has waited. -/
structure WaitedCore where
  core : Nat
  cycles : Nat
deriving DecidableEq, Repr

/-- How a register access reaches the register space (R25, R459, R460, R510, R581). -/
inductive RegPath where
  | firmware
  | pf0
  | pf1
  | window
  | direct
deriving DecidableEq, Repr

/-- A Spexa Stream Protocol packet as the stream engine sees it (R425): the port it arrived on, its
source, the header fields, and its payload. `udpBytes` is the UDP length; `occ` is the occupancy of the port's buffer
for its priority `prio` once it has arrived (R419). -/
structure SspPacket where
  port : Nat
  prio : Nat
  occ : Nat
  srcAddr : Nat
  srcPort : Nat
  srcMac : Nat
  vlan : Nat
  udpPort : Nat
  udpBytes : Nat
  version : Nat
  ptype : Nat
  last : Bool
  reservedBits : Bool
  stream : Nat
  seq : W32
  timestamp : W64
  format : W16
  frag : Nat
  creditRequest : Nat
  payloadBytes : Nat
  frameBytes : Nat
  payload : Bytes
  arrival : W64
deriving DecidableEq, Repr

/-- The kinds of RoCEv2 packet the RDMA engine tells apart (R422, R472, R473); a NAK is fatal unless it reports a
sequence error. -/
inductive RoceKind where
  | write (imm : Option W32)
  | read
  | send
  | ack
  | rnrNak
  | nak (fatal : Bool)
  | readResponse
deriving DecidableEq, Repr

/-- A received RoCEv2 packet (R422): its queue pair, kind, PSN and what it carries. -/
structure RocePacket where
  port : Nat
  prio : Nat
  occ : Nat
  qp : Nat
  kind : RoceKind
  psn : Nat
  icrcOk : Bool
  ce : Bool
  rkey : W32
  addr : Nat
  len : Nat
  payload : Bytes
deriving DecidableEq, Repr

/-- Kinds of received Ethernet frame that are neither Spexa Stream Protocol nor RoCEv2 (R415, R417,
R420). -/
inductive FrameKind where
  | arpNdIcmp
  | ptpEvent
  | ipOptions
  | ipFragment
  | badFcs
deriving DecidableEq, Repr

/-- What the sources of a weight set do (R313, R373): all answer, the server of a tensor does not, or word `word` of a tensor's
flash source is uncorrectable. -/
inductive SourceResult where
  | ok
  | unreachable (tensor : Nat)
  | badWord (tensor word : Nat)
deriving DecidableEq, Repr

/-- What a pseudo-channel front end is asked for (R342, R348). -/
structure HbmReq where
  write : Bool
  realtime : Bool
  addr : Nat
  len : Nat
  data : Bytes
  requester : Nat
  tag : Nat
deriving DecidableEq, Repr

/-- The commands of the block, in the order of spec/opcode_table.json. `k` is a core (R6). -/
inductive Instr where
  /-- NOP (R239): core `k` processes a NOP bundle. -/
  | nop (k : Nat)
  /-- SETA (R239). -/
  | seta (k : Nat)
  /-- SETI (R239). -/
  | seti (k : Nat)
  /-- SETC (R239). -/
  | setc (k : Nat)
  /-- SETS (R239). -/
  | sets (k : Nat)
  /-- ADDA (R239). -/
  | adda (k : Nat)
  /-- STEPA (R239). -/
  | stepa (k : Nat)
  /-- ALU (R239). -/
  | alu (k : Nat)
  /-- MOVX (R239). -/
  | movx (k : Nat)
  /-- LOOP (R240). -/
  | loop (k : Nat)
  /-- BREAK (R239). -/
  | brk (k : Nat)
  /-- CMP (R188). -/
  | cmp (k : Nat)
  /-- FLAG_OP (R239): the control operation FLAG. -/
  | flagOp (k : Nat)
  /-- SYNC (R208). -/
  | sync (k : Nat)
  /-- SYNC_RELEASE (R209): released `waited` cycles after the nominal cycle, of which `held` more were
  held cycles of the core. -/
  | syncRelease (k waited : Nat)
  /-- MACRO (R267). -/
  | seqMacro (k : Nat)
  /-- MACRO_START (R277): the first word issues `waited` cycles after the bundle's issue cycle. -/
  | seqStart (k waited : Nat)
  /-- MACRO_COMPLETE (R278): completed `ran` cycles after its first word. -/
  | seqComplete (k ran : Nat)
  /-- END (R241). -/
  | endOp (k : Nat)
  /-- LANE_END (R242): so many cycles after the first in which its engines had nothing left (transfers may end later). -/
  | laneEnd (w : WaitedCore)
  /-- LATE_WORD_HOLD_END (R199): after `held` held cycles. -/
  | lateWordHoldEnd (k held : Nat)
  /-- LOAD (R74). Here and below `flips` are the scratchpad bits that have changed wrongly since the core's last
  command (R163). -/
  | load (k : Nat) (flips : Flips)
  /-- TILE_LOAD_COMPLETE (R75). -/
  | tileLoadComplete (k : Nat) (flips : Flips)
  /-- RUN (R81). -/
  | run (k : Nat)
  /-- PASS_OPEN (R81). -/
  | passOpen (k : Nat) (flips : Flips)
  /-- ROW_ISSUE (R83). -/
  | rowIssue (k : Nat) (flips : Flips)
  /-- ROW_COMMIT (R97). -/
  | rowCommit (k : Nat)
  /-- FMA (R115): the next vector of running word `j`, or of the queue's head when `j` words run. -/
  | fma (k j : Nat) (flips : Flips)
  /-- FUNC (R116). -/
  | func (k j : Nat) (flips : Flips)
  /-- REDUCE (R117). -/
  | reduce (k j : Nat) (flips : Flips)
  /-- TFILL (R121). -/
  | tfill (k j : Nat) (flips : Flips)
  /-- TREAD (R121). -/
  | tread (k j : Nat)
  /-- PLOAD (R123). -/
  | pload (k : Nat) (flips : Flips)
  /-- DRAIN (R124). -/
  | drain (k : Nat) (flips : Flips)
  /-- BIND (R249). -/
  | bind (k : Nat)
  /-- VECTOR_RESULT (R115). -/
  | vectorResult (k : Nat) (flips : Flips)
  /-- DRAIN_ENTRY_OUTPUT (R125). -/
  | drainEntryOutput (k : Nat) (flips : Flips)
  /-- VX_STAT_CTRL_CLOSE (R136). -/
  | vxStatClose (k : Nat)
  /-- DMA (R251). -/
  | dma (k : Nat)
  /-- SEND (R253). -/
  | send (k : Nat)
  /-- TAG (R252). -/
  | tag (k : Nat)
  /-- FLAG_WORD (R252). -/
  | flagWord (k : Nat)
  /-- FLAG_DELIVERY (R189): the `i`-th flag write waiting in core `k`'s move engine. -/
  | flagDelivery (k i : Nat)
  /-- TOKEN_DELIVERY (R206): a token arrives at token end `tk` of core `k`. -/
  | tokenDelivery (k tk : Nat)
  /-- TOKEN_WAIT_END (R207): after `held` held cycles. -/
  | tokenWaitEnd (k held : Nat)
  /-- TRANSFER_COMPLETE (R206): the `i`-th transfer of core `k`'s move engine. -/
  | transferComplete (k i : Nat)
  /-- TRANSFER_FAIL (R593): the `i`-th transfer of core `k`'s move engine. -/
  | transferFail (k i : Nat)
  /-- UNSCHEDULED_ACCESS (R148): bank `b` of core `k` serves a ready request; `b` 32 serves a tag
  operation, which uses no bank (R159). -/
  | unscheduledAccess (k b : Nat) (flips : Flips)
  /-- MESH_INBOUND_ACCESS (R160): the `i`-th access on its way to core `k` arrives. -/
  | meshInboundAccess (k i : Nat)
  /-- TAG_WAIT_END (R155): after `held` held cycles. -/
  | tagWaitEnd (k held : Nat) (flips : Flips)
  /-- ECC_HOLD_END (R165). -/
  | eccHoldEnd (k : Nat)
  /-- CORRECTION_WRITE_BACK (R165): the oldest corrected row of bank `b`. -/
  | correctionWriteBack (k b : Nat)
  /-- STARVATION_BREAKER (R149). -/
  | starvationBreaker (k : Nat)
  /-- SCRUB_STEP (R169): the access of bank `b` in the scrubber's present step. -/
  | scrubStep (k b : Nat) (flips : Flips)
  /-- PAGE_ZERO (R173). -/
  | pageZero (k page : Nat)
  /-- SP_TAG_DATA_WRITE (R181). -/
  | spTagDataWrite (k : Nat) (path : RegPath) (v : W32)
  /-- SP_TAG_DATA_READ (R180). -/
  | spTagDataRead (k : Nat)
  /-- HOLD_TIMEOUT (R204). -/
  | holdTimeout (k : Nat)
  /-- BATCH_START (R223). -/
  | batchStart (k : Nat)
  /-- LANE_START (R254). -/
  | laneStart (k : Nat)
  /-- LANE_FETCH (R255): the next four bundles arrive; `ok` false is an error response. -/
  | laneFetch (k : Nat) (ok : Bool)
  /-- BATCH_FAIL (R594): the batch of context `c`. -/
  | batchFail (c : Nat)
  /-- BATCH_COMPLETE (R242): the batch of context `c`. -/
  | batchComplete (c : Nat)
  /-- CORE_HALT (R297): `waited` cycles after the first in which it could (transfers may end later than the pipelines). -/
  | coreHalt (k waited : Nat)
  /-- DBG_END (R299): HI_DBG_CTRL written with end 1. -/
  | dbgEnd (v : W32)
  /-- DBG_SEL (R304). -/
  | dbgSel (v : W32)
  /-- DBG_FETCH_DONE (R305). -/
  | dbgFetchDone
  /-- HI_DBG_OPEN_OPEN (R586). -/
  | dbgOpenOpen
  /-- HI_DBG_OPEN_CLOSE (R586). -/
  | dbgOpenClose
  /-- SQ_DOORBELL (R465). -/
  | sqDoorbell (q : Nat) (v : W32)
  /-- CQ_HEAD_WRITE (R467). -/
  | cqHeadWrite (q : Nat) (v : W32)
  /-- ENTRY_BEGIN (R465). -/
  | entryBegin (q : Nat)
  /-- COMPLETION_WRITE (R467). -/
  | completionWrite (q : Nat)
  /-- MSIX_SIGNAL (R469). -/
  | msixSignal (q : Nat)
  /-- COALESCE_EXPIRE (R469). -/
  | coalesceExpire (q : Nat)
  /-- NOP_ENTRY (R469). -/
  | nopEntry (q : Nat)
  /-- LOAD_PROGRAM (R284): what HBM's error check finds in the units of the image that are read, and the items left
unproven that the report of a rejected image gives. -/
  | loadProgram (q : Nat) (ecc : Ecc) (unproven : Nat)
  /-- PROGRAM_INSTALL (R284). -/
  | programInstall (c : Nat)
  /-- LOAD_WEIGHTS (R312). -/
  | loadWeights (q : Nat)
  /-- WEIGHT_LOAD_COMPLETE (R312): `src` is what the outside sources answered, `rdma` their bytes. -/
  | weightLoadComplete (c slot : Nat) (src : SourceResult) (rdma : List Bytes)
  /-- SWITCH_WEIGHTS (R322). -/
  | switchWeights (q : Nat)
  /-- EVICT (R328). -/
  | evict (q : Nat)
  /-- MAKE_RESIDENT (R323). -/
  | makeResident (c : Nat)
  /-- SLOT_RETIRE (R324). -/
  | slotRetire (c slot : Nat)
  /-- USE_WINDOW_END (R326). -/
  | useWindowEnd (c : Nat)
  /-- REFETCH (R329). -/
  | refetch (c slot : Nat) (src : SourceResult) (rdma : List Bytes)
  /-- PINNED_RELOAD (R330): of context `c` on core `k`. -/
  | pinnedReload (c k : Nat)
  /-- RELAY_MESSAGE (R333). -/
  | relayMessage (c slot : Nat) (setId : W32) (tensor offset : Nat) (payload : Bytes)
  /-- RELAY_TIMEOUT (R333). -/
  | relayTimeout (c slot : Nat)
  /-- BIND_STREAM (R483). -/
  | bindStream (q : Nat)
  /-- SET_FLAG (R475). -/
  | setFlag (q : Nat)
  /-- WAIT_FLAG (R476). -/
  | waitFlag (q : Nat)
  /-- WAIT_FLAG_SATISFIED (R476). -/
  | waitFlagSatisfied (q : Nat)
  /-- WAIT_CYCLE_SCAN (R477). -/
  | waitCycleScan
  /-- WAIT_TIMEOUT (R478). -/
  | waitTimeout (q : Nat)
  /-- RUN_BATCH (R471). -/
  | runBatch (q : Nat)
  /-- HOST_BATCH_START (R482): firmware places the context on `cores` when it is not placed yet. -/
  | hostBatchStart (c : Nat) (cores : List Nat)
  /-- CONFIG_CONTEXT (R480). -/
  | configContext (q : Nat)
  /-- UNLOAD_CONTEXT (R480). -/
  | unloadContext (q : Nat)
  /-- CONFIG_QP (R472). -/
  | configQp (q : Nat)
  /-- CONFIG_LINK (R473). -/
  | configLink (q : Nat)
  /-- Q_ENABLE (R463): HI_Q_CTRL written with enable 1. -/
  | qEnable (q : Nat) (v : W32)
  /-- RESUME (R479). -/
  | resume (q : Nat)
  /-- REATTACH (R485). -/
  | reattach (q : Nat)
  /-- RING_RESET (R479). -/
  | ringReset (q : Nat)
  /-- ATTACH (R484): HI_DRIVER_CFG written with attach 1. -/
  | attach (v : W32)
  /-- HEARTBEAT (R496). -/
  | heartbeat (v : W32)
  /-- DRIVER_LOST (R484). -/
  | driverLost
  /-- BUS_MASTER_DISABLE (R484). -/
  | busMasterDisable
  /-- FLR_PF0 (R486). -/
  | flrPf0
  /-- FLR_DRAIN_END (R486). -/
  | flrDrainEnd
  /-- FLR_PF1 (R487). -/
  | flrPf1
  /-- BAR2_ACCESS (R461). -/
  | bar2Access (write : Bool) (off len : Nat) (data : Bytes)
  /-- GET_INFO (R488). -/
  | getInfo
  /-- READ_TELEMETRY (R488). -/
  | readTelemetry
  /-- READ_LOG (R488). -/
  | readLog
  /-- SVC_FLASH_READ (R488). -/
  | svcFlashRead
  /-- SVC_FLASH_PROGRAM (R488). -/
  | svcFlashProgram
  /-- SVC_FLASH_ERASE (R488). -/
  | svcFlashErase
  /-- SVC_FLASH_UNLOCK (R488). -/
  | svcFlashUnlock
  /-- UPDATE_BEGIN (R488). -/
  | updateBegin
  /-- UPDATE_WRITE (R488). -/
  | updateWrite
  /-- UPDATE_VERIFY (R570). -/
  | updateVerify
  /-- UPDATE_ACTIVATE (R489). -/
  | updateActivate
  /-- HANDOVER (R489): `accept` says whether the new image knows the format number (R491). -/
  | handover (accept : Bool)
  /-- UPDATE_COMMIT (R492). -/
  | updateCommit
  /-- TRIAL_END (R492). -/
  | trialEnd
  /-- SVC_ATTEST (R573). -/
  | svcAttest
  /-- POWER_REQUEST (R544). -/
  | powerRequest
  /-- HBM_REQUEST (R346): a request reaches a front end. -/
  | hbmRequest (r : HbmReq)
  /-- HBM_READ_COMPLETE (R354): the `i`-th read of pseudo-channel `pc`'s read queue returns. -/
  | hbmReadComplete (pc i : Nat) (ecc : Ecc)
  /-- REFRESH (R351): the interval of bank `b` of pseudo-channel `pc` expires. -/
  | refresh (pc b : Nat)
  /-- SELF_REFRESH_ENTRY (R352). -/
  | selfRefreshEntry (stack : Nat)
  /-- SELF_REFRESH_EXIT (R352). -/
  | selfRefreshExit (stack : Nat)
  /-- CA_PARITY_ALERT (R355): the last `writes` writes and the oldest `reads` reads of pseudo-channel `pc` are inside
  their alert windows. -/
  | caParityAlert (pc writes reads : Nat)
  /-- HBM_TRAINING (R358): the widest passing window of each byte lane, in 1/64 UI steps. -/
  | hbmTraining (known : Bool) (windows : List Nat)
  /-- FLASH_READ (R373): one 32-byte word at flash offset `off`. -/
  | flashRead (off : Nat) (ecc : Ecc)
  /-- PROGRAM_PAGE (R385): opcode 0x01 written to FL_CMD_n. -/
  | programPage (n : Nat)
  /-- ERASE_SECTOR (R386). -/
  | eraseSector (n : Nat)
  /-- READ_INFO (R382). -/
  | readInfo (n : Nat)
  /-- UNLOCK (R393). -/
  | unlock (n : Nat)
  /-- LOCK (R393). -/
  | lock (n : Nat)
  /-- SET_PASSWORD (R391). -/
  | setPassword (n : Nat)
  /-- SET_REGION (R392). -/
  | setRegion (n region : Nat) (enable : Bool)
  /-- FLASH_ABORT (R388). -/
  | flashAbort (n : Nat)
  /-- FLASH_STEP_END (R383): `verify` is what the step's verify found. -/
  | flashStepEnd (verify : Bool)
  /-- FLASH_SCAN (R397). -/
  | flashScan
  /-- SUPPLY_MODE_CHANGE (R379). -/
  | supplyModeChange
  /-- FL_EI_DATA_READ (R404). -/
  | flEiDataRead
  /-- STREAM_PACKET (R428). -/
  | streamPacket (p : SspPacket)
  /-- CREDIT_PROBE (R427). -/
  | creditProbe (p : SspPacket)
  /-- RESET_SEQUENCE (R427). -/
  | resetSequence (p : SspPacket)
  /-- REASSEMBLY_TIMEOUT (R429): the frame of stream `sid` with sequence `seq`. -/
  | reassemblyTimeout (sid : Nat) (seq : W32)
  /-- BATCH_DEADLINE (R435). -/
  | batchDeadline (c : Nat)
  /-- STREAM_BATCH_START (R437): firmware places the context on `cores` when it is not placed yet. -/
  | streamBatchStart (c : Nat) (cores : List Nat)
  /-- PFC_FRAME (R418): quanta for each priority the frame names. -/
  | pfcFrame (port : Nat) (quanta : List (Nat × Nat))
  /-- PFC_PAUSE_END (R418). -/
  | pfcPauseEnd (port prio : Nat)
  /-- XOFF_REFRESH (R419): the occupancy is `occ` by then. -/
  | xoffRefresh (port prio occ : Nat)
  /-- ROCE_PACKET (R422). -/
  | rocePacket (p : RocePacket)
  /-- CNP_RECEIVE (R423). -/
  | cnpReceive (qp : Nat)
  /-- RATE_INCREASE (R423). -/
  | rateIncrease (qp : Nat)
  /-- ACK_TIMEOUT (R422). -/
  | ackTimeout (qp : Nat)
  /-- LINK_PAGE_SEND (R335). -/
  | linkPageSend (link : Nat)
  /-- LINK_WRITE_ACK (R335). -/
  | linkWriteAck (link : Nat)
  /-- LINK_CREDIT_RETURN (R335): page index within the range. -/
  | linkCreditReturn (link idx : Nat)
  /-- WAKE_FRAME (R440): a frame received in Felt. -/
  | wakeFrame (port dstMac : Nat) (frame : Bytes)
  /-- MODULE_INSERT (R443). -/
  | moduleInsert (cage : Nat)
  /-- MODULE_READY_TIMEOUT (R443). -/
  | moduleReadyTimeout (cage : Nat)
  /-- MODULE_REMOVE (R443). -/
  | moduleRemove (cage : Nat)
  /-- TX_BIAS_SAMPLE (R444). -/
  | txBiasSample (cage : Nat) (bias : List Nat)
  /-- LIFE_RECORD_WRITE (R444). -/
  | lifeRecordWrite (cage : Nat)
  /-- PORT_RESET (R446): NW_PORT_MODE written with this `reset` field. -/
  | portReset (reset : Byte)
  /-- LINK_UP (R446). -/
  | linkUp (port : Nat)
  /-- MG_FLASH_READ (R514). -/
  | mgFlashRead
  /-- MG_FLASH_PROGRAM (R514). -/
  | mgFlashProgram
  /-- MG_FLASH_ERASE (R514). -/
  | mgFlashErase
  /-- MG_FLASH_READ_INFO (R514). -/
  | mgFlashReadInfo
  /-- MG_FLASH_UNLOCK (R514). -/
  | mgFlashUnlock
  /-- MG_FLASH_LOCK (R514). -/
  | mgFlashLock
  /-- LOG_READ (R513). -/
  | logRead
  /-- LOG_DUMP (R517). -/
  | logDump
  /-- CONTINUE (R517). -/
  | mgContinue
  /-- MG_ABORT (R516). -/
  | mgAbort
  /-- FW_INFO (R513). -/
  | fwInfo
  /-- CALICO_WRITE_CONFIG (R525). -/
  | calicoWriteConfig
  /-- CALICO_WRITE_ENTRY (R526). -/
  | calicoWriteEntry
  /-- CALICO_RESTART (R527). -/
  | calicoRestart
  /-- CALICO_STOP (R531). -/
  | calicoStop
  /-- MG_ATTEST (R573). -/
  | mgAttest
  /-- MAILBOX_TIMEOUT (R518). -/
  | mailboxTimeout
  /-- MG_SOFT_RESET (R519). -/
  | mgSoftReset
  /-- MG_BUF_DATA_ACCESS (R510). -/
  | mgBufDataAccess (write : Bool) (v : Byte)
  /-- MULTIBYTE_LATCH_READ (R508): a read of direct-map offset `off`. -/
  | multibyteLatchRead (off : Nat)
  /-- MG_PWR_REQ (R522). -/
  | mgPwrReq (v : Byte)
  /-- WINDOW_READ (R520). -/
  | windowRead
  /-- WINDOW_WRITE (R520). -/
  | windowWrite
  /-- ENTDAA (R506). -/
  | entdaa (addr : Nat)
  /-- SETDASA (R506). -/
  | setdasa (statAddr addr : Nat)
  /-- SETNEWDA (R506). -/
  | setnewda (addr : Nat)
  /-- RSTDAA (R506). -/
  | rstdaa
  /-- ENEC (R509): `ev` is the event byte. -/
  | enec (ev : Byte)
  /-- DISEC (R506). -/
  | disec (ev : Byte)
  /-- GETPID (R506). -/
  | getpid
  /-- GETBCR (R506). -/
  | getbcr
  /-- GETDCR (R506). -/
  | getdcr
  /-- GETSTATUS (R506). -/
  | getstatus
  /-- GETMWL (R506). -/
  | getmwl
  /-- GETMRL (R506). -/
  | getmrl
  /-- MG_ADDRESS_MATCH (R524): the comparator sees bus address `addr`. -/
  | mgAddressMatch (addr : Nat)
  /-- TELEMETRY_SAMPLE (R511). -/
  | telemetrySample (temps : List Byte) (total core hbm : W16)
  /-- CALICO_START (R527). -/
  | calicoStart
  /-- UNBOUND_REPORT (R529). -/
  | unboundReport (p : SspPacket)
  /-- CALICO_IDLE_UNBIND (R530). -/
  | calicoIdleUnbind (sid : Nat)
  /-- PW_DVFS_WRITE (R534). -/
  | pwDvfsWrite (v : W32)
  /-- RAIL_SETTLED (R535). -/
  | railSettled
  /-- POWER_SAMPLE (R536). -/
  | powerSample
  /-- THERMAL_STEP (R537). -/
  | thermalStep
  /-- THERMAL_ALARM (R537). -/
  | thermalAlarm (sensor : Nat)
  /-- THERMAL_TRIP (R537). -/
  | thermalTrip
  /-- COLD_RESET (R538): MADDR's strap level is sampled (R506, R610). -/
  | coldReset (maddr : Nat)
  /-- WARM_RESET (R539): started by a pin (`pin`) or by PW_CTRL. -/
  | warmReset (pin : Bool)
  /-- PLL_LOCK (R539). -/
  | pllLock
  /-- BOOT (R569). -/
  | boot
  /-- FW_READY (R539). -/
  | fwReady
  /-- CORE_RESET (R541). -/
  | coreReset (k : Nat)
  /-- VOILE_ENTRY (R547): step 1 ends, reaching AP_1. -/
  | voileEntry
  /-- FELT_ENTRY (R547): step 1 ends, reaching AP_1. -/
  | feltEntry
  /-- AP_2_CORES_QUIESCED (R547). -/
  | ap2CoresQuiesced
  /-- AP_3_STATE_SAVED (R547). -/
  | ap3StateSaved
  /-- AP_5_GATES_COMMANDED (R547). -/
  | ap5GatesCommanded
  /-- WAKE (R550): the sources active in the cycle, as PW_WAKE_SRC bits 6 to 0, and the frame's port. -/
  | wake (sources : BitVec 7) (port : Nat)
  /-- VOILE_EXIT (R552). -/
  | voileExit
  /-- FELT_EXIT (R553). -/
  | feltExit
  /-- WAKE_TIMER (R559). -/
  | wakeTimer
  /-- FW_WATCHDOG_KICK (R564). -/
  | fwWatchdogKick
  /-- FW_WATCHDOG_EXPIRE (R589). -/
  | fwWatchdogExpire
  /-- RAIL_FAULT (R615). -/
  | railFault
  /-- DECOMMISSION (R575). -/
  | decommission (v : W32)
  /-- DECOMMISSION_CANCEL (R575). -/
  | decommissionCancel
  /-- EXTEST (R578). -/
  | extest
  /-- SAMPLE_PRELOAD (R578). -/
  | samplePreload
  /-- IDCODE (R578). -/
  | idcode
  /-- CLAMP (R578). -/
  | clamp
  /-- HIGHZ (R578). -/
  | highz
  /-- DBG_STATUS (R578). -/
  | dbgStatus
  /-- DBG_CHALLENGE (R579): the level shifted in and the 32 random bytes. -/
  | dbgChallenge (level : BitVec 2) (random : Bytes)
  /-- DBG_RESPONSE (R579): key, signature, and whether it came within 60 s of the challenge. -/
  | dbgResponse (key sig : Bytes) (inTime : Bool)
  /-- DBG_CLOSE (R578). -/
  | dbgClose
  /-- FW_ACCESS (R578): `halt` asks the port to hold the scheduler processors halted. -/
  | fwAccess (halt : Bool)
  /-- SCAN (R578). -/
  | scan
  /-- BYPASS (R578). -/
  | bypass
  /-- CORE_OUT_OF_SERVICE (R598). -/
  | coreOutOfService (k : Nat)
  /-- CORE_CHECK (R599): `pass` is what the built-in check program found. -/
  | coreCheck (k : Nat) (pass : Bool)
  /-- REGISTER_WRITE (R9). -/
  | registerWrite (path : RegPath) (addr : Nat) (v : W64)
  /-- AP_4_HBM_IN_SELF_REFRESH (R547). -/
  | ap4HbmInSelfRefresh
  /-- MODULE_READY (R443): what the module reports; `failStep` is 0 when every step passes. -/
  | moduleReady (cage : Nat) (serial vendor part : Bytes) (threshold : Nat) (rateOk : Bool)
      (failStep : Nat) (bias : List Nat)
  /-- LINK_DOWN (R450). -/
  | linkDown (port : Nat)
  /-- RECEIVED_FRAME (R415): `occ` as in `SspPacket`. -/
  | receivedFrame (port prio occ : Nat) (kind : FrameKind)
  /-- UNLOCK_COMPLETION (R382). -/
  | unlockCompletion (n : Nat)
  /-- SELF_REFRESH_EXIT_COMPLETE (R352). -/
  | selfRefreshExitComplete (stack : Nat)
  /-- HBM_WRITE_DRAIN (R347): the `i`-th write unit of pseudo-channel `pc`'s write queue. -/
  | hbmWriteDrain (pc i : Nat) (ecc : Ecc)
  /-- RNR_TIMER_EXPIRY (R422). -/
  | rnrTimerExpiry (qp : Nat)
  /-- TAP_RESET (R577). -/
  | tapReset
deriving DecidableEq, Repr

end Sys2Proof
end

