-- ==== Sys2Proof/Decode.lean ====
section
/-!
DEFINITION. The commands that table words spell. No row of spec/opcode_table.json gives bits (R6, R9 and the
chapters name registers, ring entries and events instead), so no word spells a command.
-/

namespace Sys2Proof

/-- The command a word of the table spells: none, since no row gives bits. -/
def decodeTableWord (_nbits _w : Nat) : Option Instr := none

end Sys2Proof
end

