-- ==== Sys2Proof/Config.lean ====
section
/-!
DEFINITION. The free values: what the manual leaves open (R2, R120) or lets each part hold. None has a
body, so no proof can see a value. Values drawn afresh take an epoch, a number of the state's counter
`freeCtr` (assumption 2).
-/

namespace Sys2Proof.Config

/-- UNVERIFIED. Byte `addr` of a memory whose contents the manual calls undefined since epoch `epoch`
(R2, R172, R385). Safe: nothing constrains it. -/
opaque freeByte : Nat → Nat → Byte

/-- Byte `i` of a vector or activation row whose start is not on a row boundary, which R111 forbids and no
unit checks; from its address and cycle. -/
opaque unaligned : Nat → Nat → Nat → Byte

/-- A byte of host memory at a bus address that the device has not written: the host's own data. -/
opaque hostByte : Nat → Byte

/-- What byte `addr` of a flash word beyond correction reads as to the boot ROM, which meets an error response there (R373,
R569). -/
opaque badWordByte : Nat → Byte

/-- The outcome of the error check of a row with more wrong bits in a word than its code detects, or with check bits of
the other class's code (R163, R164); from the row and its wrong bits. -/
opaque eccBeyond : Nat → List Nat → W32

/-- Byte `i` of the data such a check of a row delivers when it does not report an uncorrectable error. -/
opaque eccByte : Nat → Nat → Byte

/-- How long a waiting cause had held a core when a stop cut the hold short: time the model does not carry; from the
counter, the bundle and the cycles already counted. -/
opaque cutHold : Nat → Nat → Nat → Nat

/-- Word `i` of undefined register contents since an epoch (R2, R223). -/
opaque freeWord : Nat → Nat → W32

/-- Lane `i` of accumulator entry `a` after a core reset (R541, R55), since an epoch. -/
opaque freeLane : Nat → Nat → Nat → BitVec 48

/-- The sign and payload of a NaN an operation makes from the operands given: R58 says only that NaNs
propagate as IEEE 754 specifies. -/
opaque nanBits : List W32 → W32

/-- The function unit on operands outside the table of special cases (R120): one result for each input, which
Machine/Function.lean holds within its bound. -/
opaque exp2 : W32 → W32
/-- See `exp2`. -/
opaque log2 : W32 → W32
/-- See `exp2`. -/
opaque recip : W32 → W32
/-- See `exp2`. -/
opaque rsqrt : W32 → W32
/-- See `exp2`. -/
opaque sigmoid : W32 → W32
/-- See `exp2`. -/
opaque tanh : W32 → W32
/-- The activation stage's own evaluators of sigmoid and tanh (R126): see `exp2`. -/
opaque actSigmoid : W32 → W32
/-- See `actSigmoid`. -/
opaque actTanh : W32 → W32

/-- SHA-512 of a byte string (R566, R569, R573); the manual names the function and gives no values. -/
opaque sha512 : Bytes → Bytes

/-- Whether an Ed25519 signature of a message under a key verifies (R569, R579). -/
opaque ed25519Verify : Bytes → Bytes → Bytes → Bool

/-- The SHA-512 digest fused in key slot `k` (R566). -/
opaque keyDigest : Nat → Bytes

/-- The SHA-512 digest of the boot ROM (R572). -/
opaque romMeasurement : Bytes

/-- The DeviceID public key, derived from the unique device secret (R572). -/
opaque deviceIdKey : Bytes

/-- The DeviceID key's signature of a message (R573). -/
opaque deviceIdSign : Bytes → Bytes

/-- The alias public key of a compound device identifier, from the four items it is made of (R572). -/
opaque aliasKey : Bytes → Bytes

/-- The alias key's signature of a message, for the items of its identifier (R573). -/
opaque aliasSign : Bytes → Bytes → Bytes

/-- Abfer's 11-bit JEDEC manufacturer code (R578). -/
opaque jedec : BitVec 11

/-- Whether the part is an ABF-PX32-X (true) or an ABF-PX32-C (R1, R510, R562). -/
opaque gradeX : Bool

/-- The fused base MAC address of the part (R525). -/
opaque baseMac : Nat

/-- Byte `i` of the answer to MIPI I3C common command code `c` (R506), whose value the manual does not give. -/
opaque cccByte : Nat → Nat → Byte

/-- The 48-bit provisioned identifier MIPI I3C's GETPID returns (R506). -/
opaque pid : Bytes

/-- A byte of the reply of a command whose contents the manual does not fix (R488): firmware's version and
telemetry text. -/
opaque infoByte : Nat → Nat → Byte

end Sys2Proof.Config
end

