-- ==== Sys2Proof/Machine/Bits.lean ====
section
/-!
DEFINITION. Bit fields (R4), byte order (R5), sign extension, checksums and list positions: the plain
helpers every other file uses.
-/

namespace Sys2Proof.Machine

/-- Field [hi:lo] of a word (R4). -/
def fld (w : W64) (hi lo : Nat) : Nat := (w.toNat >>> lo) % 2 ^ (hi + 1 - lo)

/-- Bit `i` of a word. -/
def bit (w : W64) (i : Nat) : Bool := fld w i i == 1

/-- Field [hi:lo] of a natural number. -/
def nfld (w : Nat) (hi lo : Nat) : Nat := (w >>> lo) % 2 ^ (hi + 1 - lo)

/-- `w` with field [hi:lo] replaced by `v`. -/
def setFld (w : Nat) (hi lo v : Nat) : Nat :=
  w - (nfld w hi lo <<< lo) + ((v % 2 ^ (hi + 1 - lo)) <<< lo)

/-- The value of little-endian bytes (R5). -/
def leNat (bs : Bytes) : Nat := bs.foldr (fun b n => b.toNat + 256 * n) 0

/-- The `n` little-endian bytes of a value (R5). -/
def toLe (n v : Nat) : Bytes := (List.range n).map fun i => BitVec.ofNat 8 (v >>> (8 * i))

/-- The value of bytes in network byte order (R5). -/
def beNat (bs : Bytes) : Nat := bs.foldl (fun n b => 256 * n + b.toNat) 0

/-- The `n` bytes of a value in network byte order (R5). -/
def toBe (n v : Nat) : Bytes := (toLe n v).reverse

/-- `len` bytes from offset `off`. -/
def slice {α : Type} (bs : List α) (off len : Nat) : List α := (bs.drop off).take len

/-- The little-endian field of `len` bytes at offset `off`. -/
def rdLe (bs : Bytes) (off len : Nat) : Nat := leNat (slice bs off len)

/-- The network-order field of `len` bytes at offset `off`. -/
def rdBe (bs : Bytes) (off len : Nat) : Nat := beNat (slice bs off len)

/-- `bs` with the bytes from `off` replaced by `v`. -/
def splice {α : Type} (bs : List α) (off : Nat) (v : List α) : List α :=
  bs.take off ++ v ++ bs.drop (off + v.length)

/-- The signed value of an `n`-bit two's-complement number. -/
def sgn (n v : Nat) : Int := if v % 2 ^ n < 2 ^ (n - 1) then (v % 2 ^ n : Nat) else (v % 2 ^ n : Nat) - (2 ^ n : Nat)

/-- The `n`-bit two's-complement code of an integer. -/
def code (n : Nat) (v : Int) : Nat := (v % (2 ^ n : Nat)).toNat

/-- A byte as a signed integer. -/
def sByte (b : Byte) : Int := b.toInt

/-- The element at a position, or the given value past the end. -/
def at' {α : Type} (l : List α) (i : Nat) (d : α) : α := l.getD i d

/-- The list with the element at a position replaced by its image. -/
def modAt {α : Type} (l : List α) (i : Nat) (f : α → α) : List α :=
  match l[i]? with
  | some x => l.set i (f x)
  | none => l

/-- The value an association list gives a key, or a default. -/
def look {β : Type} (l : List (Nat × β)) (k : Nat) (d : β) : β :=
  match l.find? (fun p => p.1 == k) with
  | some p => p.2
  | none => d

/-- The association list in which a key has a value. -/
def put {β : Type} (l : List (Nat × β)) (k : Nat) (v : β) : List (Nat × β) :=
  l.filter (fun p => p.1 != k) ++ [(k, v)]

/-- The list of (key, bits) pairs without a key. -/
def del {β : Type} (l : List (Nat × β)) (k : Nat) : List (Nat × β) := l.filter fun p => p.1 != k

/-- `n` divided by `d`, rounded up. -/
def ceilDiv (n d : Nat) : Nat := (n + d - 1) / d

/-- A count that stops at its all-ones value of `n` bits. -/
def satAdd (n v k : Nat) : Nat := min (v + k) (2 ^ n - 1)

/-- One bit of CRC-32 with the IEEE 802.3 polynomial, reflected. -/
def crcBit (c : Nat) : Nat := if c % 2 = 1 then (c / 2) ^^^ 0xEDB88320 else c / 2

/-- One byte of CRC-32. -/
def crcByte (c : Nat) (b : Byte) : Nat :=
  crcBit (crcBit (crcBit (crcBit (crcBit (crcBit (crcBit (crcBit (c ^^^ b.toNat))))))))

/-- CRC-32 with the IEEE 802.3 polynomial (R224, R311, R396). -/
def crc32 (bs : Bytes) : Nat := bs.foldl crcByte 0xFFFFFFFF ^^^ 0xFFFFFFFF

end Sys2Proof.Machine
end

