-- ==== Sys2Proof/Machine/Float.lean ====
section
/-!
DEFINITION. FP32 and BF16 arithmetic of the vector engine (R58, R114): IEEE 754 binary32, round to nearest
with ties to even, subnormal inputs taken as zero and subnormal results flushed to zero of the same sign
after rounding. A finite non-zero pattern is (−1)^sign × significand × 2^exponent.
-/

namespace Sys2Proof.Machine

/-- The exponent field of an FP32 pattern. -/
def fpExp (x : W32) : Nat := nfld x.toNat 30 23

/-- The fraction field of an FP32 pattern. -/
def fpFrac (x : W32) : Nat := nfld x.toNat 22 0

/-- The sign bit of an FP32 pattern. -/
def fpSign (x : W32) : Bool := x.msb

def fpIsNan (x : W32) : Bool := fpExp x == 255 && fpFrac x != 0

def fpIsInf (x : W32) : Bool := fpExp x == 255 && fpFrac x == 0

/-- Zero, or a subnormal taken as zero (R58). -/
def fpIsZero (x : W32) : Bool := fpExp x == 0

/-- The significand of a finite non-zero pattern. -/
def fpSig (x : W32) : Nat := 2 ^ 23 + fpFrac x

/-- The exponent of its significand's last place. -/
def fpLsb (x : W32) : Int := (fpExp x : Int) - 150

/-- A signed zero. -/
def fpZero (s : Bool) : W32 := if s then 0x80000000 else 0

/-- A signed infinity. -/
def fpInf (s : Bool) : W32 := if s then 0xFF800000 else 0x7F800000

/-- A quiet NaN whose sign and payload are free (R58, R114). -/
def fpNan (ops : List W32) : W32 := 0x7FC00000 ||| (Config.nanBits ops &&& 0x803FFFFF)

/-- The input as an operation takes it: a subnormal is zero of its sign (R58). -/
def fpIn (x : W32) : W32 := if fpIsZero x then fpZero (fpSign x) else x

/-- `m` divided by 2^s, to nearest with ties to even. -/
def rneShift (m s : Nat) : Nat :=
  let q := m >>> s
  let r := m % 2 ^ s
  let h := 2 ^ s / 2
  if s = 0 then m else if r > h ∨ (r = h ∧ q % 2 = 1) then q + 1 else q

/-- The quotient of two natural numbers, to nearest with ties to even. -/
def rneDiv (n d : Nat) : Nat :=
  let q := n / d
  let r := n % d
  if 2 * r > d ∨ (2 * r = d ∧ q % 2 = 1) then q + 1 else q

/-- An integer divided by 2^s, to nearest with ties to even (R49). -/
def rneShiftInt (p : Int) (s : Nat) : Int :=
  if p < 0 then -(rneShift p.natAbs s : Int) else (rneShift p.natAbs s : Int)

/-- The FP32 pattern nearest (−1)^s × m × 2^e (R58). -/
def fpRound (s : Bool) (m : Nat) (e : Int) : W32 :=
  if m = 0 then fpZero s else
  let q : Int := max ((Nat.log2 m : Int) + e - 23) (-149)
  let r := if q ≤ e then m <<< (e - q).toNat else rneShift m (q - e).toNat
  let packed := ((q + 149).toNat) * 2 ^ 23 + r
  if packed ≥ 0x7F800000 then fpInf s
  else if packed < 2 ^ 23 then fpZero s
  else BitVec.ofNat 32 (packed + if s then 2 ^ 31 else 0)

/-- The FP32 pattern nearest an integer (R57, R111). -/
def fpOfInt (v : Int) : W32 := fpRound (decide (v < 0)) v.natAbs 0

/-- The exact value of a finite pattern as an integer at exponent `e`, which lies at or below its own. -/
def fpAtExp (x : W32) (e : Int) : Int :=
  if fpIsZero x then 0
  else
    let v : Int := (fpSig x <<< (fpLsb x - e).toNat : Nat)
    if fpSign x then -v else v

/-- The sum of finite numbers given as integers at one exponent, with the sign an exact zero takes. -/
def fpRoundInt (v : Int) (e : Int) (zeroNeg : Bool) : W32 :=
  if v = 0 then fpZero zeroNeg else fpRound (decide (v < 0)) v.natAbs e

/-- Addition, one rounding (R114). -/
def fpAdd (x y : W32) : W32 :=
  if fpIsNan x || fpIsNan y then fpNan [x, y]
  else if fpIsInf x then (if fpIsInf y && fpSign x != fpSign y then fpNan [x, y] else fpInf (fpSign x))
  else if fpIsInf y then fpInf (fpSign y)
  else
    let ex := if fpIsZero x then 0 else fpLsb x
    let ey := if fpIsZero y then 0 else fpLsb y
    let e := min ex ey
    fpRoundInt (fpAtExp x e + fpAtExp y e) e (fpSign x && fpSign y)

/-- Negation: the sign is changed. -/
def fpNeg (x : W32) : W32 := fpIn x ^^^ 0x80000000

/-- The absolute value: the sign is cleared. -/
def fpAbs (x : W32) : W32 := fpIn x &&& 0x7FFFFFFF

/-- Subtraction, one rounding. -/
def fpSub (x y : W32) : W32 := fpAdd x (if fpIsNan y then y else fpNeg y)

/-- Multiplication, one rounding. -/
def fpMul (x y : W32) : W32 :=
  let s := fpSign x != fpSign y
  if fpIsNan x || fpIsNan y then fpNan [x, y]
  else if fpIsInf x || fpIsInf y then (if fpIsZero x || fpIsZero y then fpNan [x, y] else fpInf s)
  else if fpIsZero x || fpIsZero y then fpZero s
  else fpRound s (fpSig x * fpSig y) (fpLsb x + fpLsb y)

/-- a × b + c with one rounding (R115). -/
def fpFma (a b c : W32) : W32 :=
  let s := fpSign a != fpSign b
  if fpIsNan a || fpIsNan b || fpIsNan c then fpNan [a, b, c]
  else if fpIsInf a || fpIsInf b then
    (if fpIsZero a || fpIsZero b || (fpIsInf c && fpSign c != s) then fpNan [a, b, c] else fpInf s)
  else if fpIsInf c then fpInf (fpSign c)
  else
    let pz := fpIsZero a || fpIsZero b
    let ep := if pz then 0 else fpLsb a + fpLsb b
    let ec := if fpIsZero c then 0 else fpLsb c
    let e := min ep ec
    let p : Int := if pz then 0 else (fpSig a * fpSig b) <<< (ep - e).toNat
    fpRoundInt ((if s then -p else p) + fpAtExp c e) e (s && fpSign c)

/-- A number of the same order as a pattern that is not a NaN, −0 just below +0 (R114). -/
def fpKey (x : W32) : Int :=
  let y := fpIn x
  if fpSign y then -((y &&& 0x7FFFFFFF).toNat : Int) - 1 else (y.toNat : Int)

/-- The IEEE 754-2019 maximum (R114). -/
def fpMax (x y : W32) : W32 :=
  if fpIsNan x || fpIsNan y then fpNan [x, y] else if fpKey x < fpKey y then fpIn y else fpIn x

/-- The IEEE 754-2019 minimum (R114). -/
def fpMin (x y : W32) : W32 :=
  if fpIsNan x || fpIsNan y then fpNan [x, y] else if fpKey y < fpKey x then fpIn y else fpIn x

/-- Quiet equality, −0 equal to +0 (R114). -/
def fpEq (x y : W32) : Bool :=
  !(fpIsNan x || fpIsNan y) && ((fpIsZero x && fpIsZero y) || x == y)

/-- Quiet less-than (R114). -/
def fpLt (x y : W32) : Bool :=
  !(fpIsNan x || fpIsNan y) && !(fpIsZero x && fpIsZero y) && decide (fpKey x < fpKey y)

/-- 1.0 or 0.0 (R115). -/
def fpBool (b : Bool) : W32 := if b then 0x3F800000 else 0

/-- 2^k as an FP32 pattern, for −126 ≤ k ≤ 127. -/
def fpPow2 (k : Int) : W32 := BitVec.ofNat 32 ((k + 127).toNat * 2 ^ 23)

/-- The integer nearest a finite pattern, ties to even. -/
def fpRne (x : W32) : Int :=
  if fpIsZero x then 0
  else
    let m : Nat := if 0 ≤ fpLsb x then fpSig x <<< (fpLsb x).toNat else rneShift (fpSig x) (-(fpLsb x)).toNat
    if fpSign x then -(m : Int) else m

/-- An integer held between two limits. -/
def clampInt (lo hi v : Int) : Int := max lo (min hi v)

/-- The write conversion to an integer type: RNE, saturate, NaN → 0 (R111). -/
def fpToInt (lo hi : Int) (x : W32) : Int :=
  if fpIsNan x then 0
  else if fpIsInf x then (if fpSign x then lo else hi)
  else clampInt lo hi (fpRne x)

/-- BF16 widened to FP32 (R111). -/
def bfWiden (h : W16) : W32 := BitVec.ofNat 32 (h.toNat * 2 ^ 16)

/-- FP32 rounded to BF16; a NaN gives 0x7FC0 (R60, R111). -/
def bfRound (x : W32) : W16 :=
  if fpIsNan x then 0x7FC0
  else
    let y := fpIn x
    let r := rneShift (y &&& 0x7FFFFFFF).toNat 16
    let r := if r < 0x80 then 0 else r
    BitVec.ofNat 16 (r + if fpSign y then 2 ^ 15 else 0)

/-- The integer nearest the exact quotient y / scale before the clamp, or which infinity it is, or none for
a NaN (R59, R61). `scale` positive and finite is the ordinary case. DESIGN CHOICE (assumption 51): an infinite y with a
negative scale takes the sign of the quotient, and with an infinite scale is a NaN, as R58 divides. -/
def fpQuot (y scale : W32) : Option (Int ⊕ Bool) :=
  let s := fpSign y != fpSign scale
  if fpIsNan y || fpIsNan scale then none
  else if fpIsInf y then (if fpIsInf scale then none else some (.inr s))
  else if fpIsInf scale then some (.inl 0)
  else if fpIsZero scale then (if fpIsZero y then none else some (.inr s))
  else if fpIsZero y then some (.inl 0)
  else
    let d := fpLsb y - fpLsb scale
    let n := if 0 ≤ d then rneDiv (fpSig y <<< d.toNat) (fpSig scale)
      else rneDiv (fpSig y) (fpSig scale <<< (-d).toNat)
    some (.inl (if s then -(n : Int) else n))

end Sys2Proof.Machine
end

