-- ==== Sys2Proof/Machine/Function.lean ====
section
/-!
DEFINITION. The functions of the function unit and of the drain's activation stage (R120, R126). The manual bounds each
result and gives its special cases; a result is a free value held within its bound. The exact function is enclosed by
integers at a scale of 2^-160, so that what lies within the bound of some value of the enclosure is allowed.
-/

namespace Sys2Proof.Machine

/-- The scale of the enclosures. -/
def encBits : Nat := 160

/-- The exact value of a finite pattern at the enclosures' scale, rounded down. -/
def fixedOf (x : W32) : Int :=
  if fpIsZero x then 0
  else
    let m : Nat := fpSig x <<< (fpLsb x + 160).toNat
    let v : Int := if 0 ≤ fpLsb x + 160 then m else (fpSig x >>> (-(fpLsb x + 160)).toNat : Nat)
    if fpSign x then -v else v

/-- A finite pattern lies between two integers at exponent `e`. -/
def fpBetween (r : W32) (lo hi e : Int) : Bool :=
  let m := min e (if fpIsZero r then 0 else fpLsb r)
  !fpIsNan r && !fpIsInf r && decide (lo * 2 ^ (e - m).toNat ≤ fpAtExp r m) && decide (fpAtExp r m ≤ hi * 2 ^ (e - m).toNat)

/-- A free value held within `tol` of an exact result that lies from `lo` to `hi`, all at exponent `e`: a value outside
stands for the pattern nearest `lo` (R120). -/
def heldWithin (free : W32) (lo hi e : Int) (tol : Nat) : W32 :=
  if fpBetween (fpIn free) (lo - tol) (hi + tol) e then fpIn free else fpRoundInt lo e false

/-- Two units in the last place of a result from `lo` to `hi` at some exponent, in that exponent's units. -/
def twoUlp (lo hi : Int) : Nat := 2 ^ (Nat.log2 (max lo.natAbs hi.natAbs) - 22)

/-- Terms of a series added up: each is the one before it times `z`, and counts divided by `w` of its number. -/
def seriesSum (z : Nat) (w : Nat → Nat) : Nat → Nat → Nat → Nat
  | 0, _, _ => 0
  | n + 1, k, p => p / w k + seriesSum z w n (k + 1) (p * z / 2 ^ encBits)

/-- ln 2, rounded down; it lies less than 512 units above. -/
def lnTwo : Nat := seriesSum (2 ^ (encBits - 1)) id 170 1 (2 ^ (encBits - 1))

/-- The terms of the exponential series of `t`. -/
def expTerms (t : Nat) : Nat → Nat → Nat → Nat
  | 0, _, _ => 0
  | n + 1, k, p => p + expTerms t n (k + 1) (p * t / ((k + 1) * 2 ^ encBits))

/-- e^t for t from 0 to 1, rounded down; it lies less than 4,096 units above, for a `t` known to 1,024 units. -/
def expFix (t : Nat) : Nat := expTerms t 45 0 (2 ^ encBits)

/-- An enclosure squared six times: the power of 64. -/
def powSixtyFour (lo hi : Nat) : Nat × Nat :=
  (List.range 6).foldl (fun p _ => (p.1 * p.1 / 2 ^ encBits, p.2 * p.2 / 2 ^ encBits + 1)) (lo, hi)

/-- e^a for `a` of 64 × `t`. -/
def expSixtyFour (t : Nat) : Nat × Nat := powSixtyFour (expFix t) (expFix t + 4096)

/-- The square root of a number, rounded down. -/
def rootOf (n : Nat) : Nat := (List.range 200).reverse.foldl (fun r b => if (r + 2 ^ b) * (r + 2 ^ b) ≤ n then r + 2 ^ b else r) 0

/-- A signed enclosure. -/
def signedPair (s : Bool) (lo hi : Int) : Int × Int := if s then (-hi, -lo) else (lo, hi)

/-- exp2 (R120): 2 ulp. -/
def fuExp2 (x : W32) : W32 :=
  if fpIsNan x then fpNan [x]
  else if !fpSign x && decide (fpKey 0x43000000 ≤ fpKey x) then fpInf false
  else if fpSign x && decide (fpKey x < fpKey 0xC2FC0000) then 0
  else
    let v := fixedOf (fpIn x)
    let m := expFix ((v % 2 ^ encBits).toNat * lnTwo / 2 ^ encBits)
    heldWithin (Config.exp2 (fpIn x)) m (m + 4096) (v / 2 ^ encBits - encBits) (2 ^ (encBits - 22))

/-- log2 (R120): an absolute 2^-22 from 0.5 to 2, 2 ulp elsewhere. -/
def fuLog2 (x : W32) : W32 :=
  if fpIsNan x then fpNan [x]
  else if fpIsZero x then fpInf true
  else if fpSign x then fpNan [x]
  else if fpIsInf x then fpInf false
  else
    let f := fpSig x - 2 ^ 23
    let z := f <<< encBits / (fpSig x + 2 ^ 23)
    let ln := 2 * seriesSum (z * z / 2 ^ encBits) (fun k => 2 * k + 1) 60 0 z
    let e : Int := (fpExp x : Int) - 127
    let lo := e * 2 ^ encBits + (ln <<< encBits / (lnTwo + 512) : Nat)
    let hi := e * 2 ^ encBits + ((ln + if f = 0 then 0 else 512) <<< encBits / lnTwo : Nat)
    heldWithin (Config.log2 x) lo hi (-encBits) (if e = 0 ∨ e = -1 then 2 ^ (encBits - 22) else twoUlp lo hi)

/-- reciprocal (R120): 2 ulp; |x| above 2^126 gives a zero of x's sign. -/
def fuRecip (x : W32) : W32 :=
  if fpIsNan x then fpNan [x]
  else if fpIsZero x then fpInf (fpSign x)
  else if decide (0x7E800000 < (fpAbs x).toNat) then fpZero (fpSign x)
  else
    let m := 2 ^ encBits / fpSig x
    let p := signedPair (fpSign x) m (m + 1)
    heldWithin (Config.recip x) p.1 p.2 (-fpLsb x - encBits) (twoUlp p.1 p.2)

/-- rsqrt (R120): 2 ulp; a negative subnormal is −0 and gives −∞. -/
def fuRsqrt (x : W32) : W32 :=
  if fpIsNan x then fpNan [x]
  else if fpIsZero x then fpInf (fpSign x)
  else if fpSign x then fpNan [x]
  else if fpIsInf x then 0
  else
    let odd := fpLsb x % 2
    let m := rootOf (2 ^ (2 * encBits) / (fpSig x * 2 ^ odd.toNat))
    heldWithin (Config.rsqrt x) m (m + 1) (-((fpLsb x - odd) / 2) - encBits) (twoUlp m (m + 1))

/-- A free value held within the bound of sigmoid (R120): an absolute 2^-23. -/
def sigmoidWithin (free x : W32) : W32 :=
  if fpIsNan x then fpNan [x]
  else if fpIsInf x then (if fpSign x then 0 else 0x3F800000)
  else
    let one : Int := 2 ^ encBits
    let g := expSixtyFour ((fixedOf (fpAbs x)).toNat / 64)
    let far := decide (64 * 2 ^ encBits < (fixedOf (fpAbs x)).toNat)
    let lo : Int := if far then one - 2 ^ (encBits - 90) else (g.1 <<< encBits / (2 ^ encBits + g.1) : Nat)
    let hi : Int := if far then one else (g.2 <<< encBits / (2 ^ encBits + g.2) + 1 : Nat)
    heldWithin free (if fpSign x then one - hi else lo) (if fpSign x then one - lo else hi) (-encBits) (2 ^ (encBits - 23))

/-- A free value held within the bound of tanh (R120): an absolute 2^-22. -/
def tanhWithin (free x : W32) : W32 :=
  if fpIsNan x then fpNan [x]
  else if fpIsInf x then (if fpSign x then 0xBF800000 else 0x3F800000)
  else
    let one : Int := 2 ^ encBits
    let g := expSixtyFour ((fixedOf (fpAbs x)).toNat / 32)
    let far := decide (32 * 2 ^ encBits < (fixedOf (fpAbs x)).toNat)
    let lo : Int := if far then one - 2 ^ (encBits - 90) else ((g.1 - 2 ^ encBits) <<< encBits / (2 ^ encBits + g.1) : Nat)
    let hi : Int := if far then one else ((g.2 - 2 ^ encBits) <<< encBits / (2 ^ encBits + g.2) + 1 : Nat)
    let p := signedPair (fpSign x) lo hi
    heldWithin free p.1 p.2 (-encBits) (2 ^ (encBits - 22))

/-- sigmoid of the function unit (R120). -/
def fuSigmoid (x : W32) : W32 := sigmoidWithin (Config.sigmoid (fpIn x)) x

/-- tanh of the function unit (R120). -/
def fuTanh (x : W32) : W32 := tanhWithin (Config.tanh (fpIn x)) x

/-- sigmoid of the activation stage's own evaluator (R126). -/
def actSigmoid (x : W32) : W32 := sigmoidWithin (Config.actSigmoid (fpIn x)) x

/-- tanh of the activation stage's own evaluator (R126). -/
def actTanh (x : W32) : W32 := tanhWithin (Config.actTanh (fpIn x)) x

/-- The FUNC operations in encoding order (R246). -/
def fuOp (op : Nat) (x : W32) : W32 :=
  match op with
  | 0 => fuExp2 x
  | 1 => fuLog2 x
  | 2 => fuRecip x
  | 3 => fuRsqrt x
  | 4 => fuSigmoid x
  | _ => fuTanh x

end Sys2Proof.Machine
end

