-- ==== Sys2Proof/Machine/CoreState.lean ====
section
/-!
DEFINITION. The state of one core (R187, R73, R111, R140) as plain data: control core, matrix engine,
vector engine, scratchpad, move engine. Cycle numbers are values of the core's cycle counter (R193).
-/

namespace Sys2Proof.Machine

/-- A sparse memory: the bytes that differ from what an unlisted address reads as, addresses strictly
rising. -/
abbrev Mem := List (Nat × Byte)

/-- An armed comparator (R188, R239). Files: 0 A, 1 C, 2 S, 3 increment. -/
structure CmpArm where
  cond : Nat
  fileA : Nat
  regA : Nat
  immSel : Bool
  fileB : Nat
  regB : Nat
  flag : Nat
  imm : W16
deriving DecidableEq, Repr

/-- One entered loop (R190, R240): first and last bundle of the body, and the iterations left after the
one running. -/
structure LoopFrame where
  first : Nat
  last : Nat
  left : Nat
deriving DecidableEq, Repr

/-- An engine word in a queue: the slot, its issue cycle (R195), its bundle, and the register values
copied when it was pushed (R192). -/
structure QWord where
  word : W64
  cycle : Nat
  bundle : Nat
  a : List W24
  c : List W32
  s : List W32
deriving DecidableEq, Repr

/-- The hold causes of a core now (R202, R203). A tag wait names its pages, each with whether the access waits to
write it, and a token wait its token ends. `eccLeft` is the fixed cycles still to run; `watch` and `syncWatch` are
the watchdog's two counts (R204), `cycle` the counter value of the last held cycles, and `bundle` the bundle whose
word or processing the counter is held at (R217). -/
structure HoldState where
  pages : List (Nat × Bool)
  tokens : List Nat
  late : Bool
  eccLeft : Nat
  watch : Nat
  syncWatch : Nat
  cycle : Nat
  bundle : Nat
deriving DecidableEq, Repr

/-- The control core (R187) and its CC_ registers (R215 to R222, R282, R283, R302, R303). `pushed` is how far the
bundle at `pc` has come (R238): 0 not begun, else one more than the slots already pushed, and `nextPc` then the
bundle that follows it. `syncExact` is set while a SYNC whose condition held when it was reached waits for its
nominal cycle (R208); `cleared` is one more than the last cycle whose scheduled accesses were all permitted (R200). -/
structure Ctl where
  a : List W24
  inc : List W24
  c : List W32
  s : List W32
  cmps : List (Option CmpArm)
  loops : List LoopFrame
  flags : W64
  ibuf : List (Nat × BitVec 256)
  fetched : Nat
  high : Nat
  fetchFail : List Nat
  pc : Nat
  offset : Nat
  pushed : Nat
  nextPc : Nat
  syncWait : Bool
  syncExact : Bool
  ended : Bool
  cycle : Nat
  cleared : Nat
  sectionBase : Nat
  tokens : List Nat
  stopAt : W64
  stopSeen : Nat
deriving DecidableEq, Repr

/-- The CC_ counters and status that outlast a batch (R215 to R222, R282, R283, R303). -/
structure CtlRegs where
  fault : Bool
  stopped : Bool
  ccFault : W32
  ccFaultBundle : W32
  holdWdt : BitVec 5
  holdTag : W32
  holdToken : W32
  holdLate : W32
  holdEcc : W32
  syncWaitCycles : W32
  halted : Bool
  halting : Bool
  seqActive : Bool
  seqOp : BitVec 2
  seqSplits : W16
  seqTiles : W32
deriving DecidableEq, Repr

/-- A weight tile in a weight-tile register (R73): the bytes of its codes (one plane of a byte-mode
tile), the scaled levels of its groups, and what it keeps with them. -/
structure Tile where
  codes : Bytes
  levels : List (List Int)
  emax : Nat
  width : Nat
  zeroScales : Bool
  addr : Nat
  record : Bytes
  hiPlane : Bool
  loCounted : Bool
deriving DecidableEq, Repr

/-- A tile load or plane reload on the weight-load port (R74, R84): `got` of its `rows` have been read, with the
bytes `codes`. -/
structure TileLoad where
  start : Nat
  rows : Nat
  got : Nat
  codes : Bytes
  addr : Nat
  tileAddr : Nat
  record : Bytes
  reload : Bool
  hiPlane : Bool
  loCounted : Bool
  release : Nat
  wcycle : Nat
  bundle : Nat
deriving DecidableEq, Repr

/-- A run word in progress (R80 to R85). `opens` is the cycle that opens pass `pass`; `opened` whether
it has opened. -/
structure RunState where
  word : QWord
  m : Nat
  pass : Nat
  npass : Nat
  opens : Nat
  opened : Bool
  row : Nat
  acc : Nat
  clear : Bool
  split : Bool
  desc : Bytes
  base : W24
  idx : List Nat
  mLimit : Nat
  kFirst : Nat
  kCount : Nat
  nFirst : Nat
  nCount : Nat
  release : Nat
deriving DecidableEq, Repr

/-- A row in the matrix pipeline (R97): committed at the end of cycle `commit`. -/
structure FlightRow where
  commit : Nat
  entry : Nat
  sums : List Int
  writes : Bool
  mBit : Bool
  nFirst : Nat
  nCount : Nat
deriving DecidableEq, Repr

/-- Who makes a scheduled access: its port code (R144), its word's issue cycle and bundle, and for the matrix engine
the pass and entry base of the running word (R105). -/
structure SpUser where
  code : Nat
  wcycle : Nat
  bundle : Nat
  pass : Nat
  acc : Nat
deriving DecidableEq, Repr

/-- A scheduled bank access of the present cycle (R145). -/
structure SchedAcc where
  bank : Nat
  port : SpUser
deriving DecidableEq, Repr

/-- The matrix engine and MX_ registers (R73, R89, R104 to R109). Entries not in `acc` are 0, or free
values when `accFree` holds an epoch (R541, R279), and so with tags and `tagFree`. `ahead` is the number of rows that the
tile sequencer has issued in cycles the counter has still to come to. -/
structure Mx where
  active : Option Tile
  shadow : Option Tile
  loading : Option TileLoad
  run : Option RunState
  flight : List FlightRow
  nextRun : Nat
  swapped : Bool
  turn : List (Nat × Nat)
  acc : List (Nat × List Int)
  accTags : List (Nat × Nat)
  accFree : Option Nat
  tagFree : Option Nat
  fault : Bool
  ovf : BitVec 4
  mxFault : W32
  mxFaultBundle : W32
  rowCount : W64
  idleCount : W64
  idleMark : Nat
  ahead : Nat
  loadCount : W32
deriving DecidableEq, Repr

/-- A vector in FP32: 128 elements, or 256 in BF16 pair form (R113). -/
abbrev Vec := List W32

/-- A binding of a read or write end (R249): its number, end (0 to 3 RE, 4 and 5 WE), descriptor, base,
walk and marker mode. -/
structure EndBind where
  id : Nat
  port : Nat
  desc : Bytes
  base : W24
  idx : List Nat
  marker : Nat
deriving DecidableEq, Repr

/-- A running vector word: `i` of its `n` vectors have issued; `t` is the issue cycle (R115, R116), `bind0`
and `bind1` the write-end bindings in effect then (R249). -/
structure VRun where
  word : QWord
  t : Nat
  n : Nat
  i : Nat
  bind0 : Nat
  bind1 : Nat
deriving DecidableEq, Repr

/-- A result in flight: of a vector issued at cycle `iss` (R115), or of a drain entry counted (R125, `drain` set).
`value` is what a loop-back queue is pushed, `bytes` what a write end writes in `rows` rows: all of them, or with
`mask` (first, count, bytes) the lanes of an N mask, each of so many bytes (R128); `live` clear is an entry whose M
bit is clear, which writes nothing. `due` is the cycle of the write; `bind0` and `bind1` number the write-end
bindings in effect at issue (R249). -/
structure VRes where
  iss : Nat
  due : Nat
  dst0 : Nat
  dst1 : Nat
  bind0 : Nat
  bind1 : Nat
  rows : Nat
  value : Vec
  bytes : Bytes
  mask : Option (Nat × Nat × Nat)
  live : Bool
  drain : Bool
  bundle : Nat
  wcycle : Nat
deriving DecidableEq, Repr

/-- A drain word in progress (R124, R125): the entries, tags and per-entry scales read so far, the scale accesses
still to come (address and the pages their marker applies to), and the next entry to count. -/
structure DrainState where
  word : QWord
  t : Nat
  m : Nat
  i : Nat
  bank : Nat
  base : Nat
  entries : List (List Int)
  tags : List Nat
  perEntry : Bool
  inScale : W32
  inScales : List W32
  scales : List (Nat × List Nat)
  dst : Nat
  out : Nat
  act : Nat
  pbank : Nat
  nFirst : Nat
  nCount : Nat
  mBits : List Bool
  bind : Nat
deriving DecidableEq, Repr

/-- A drain parameter bank (R123). -/
structure ParamBank where
  ready : Bool
  readyAt : Nat
  chan : List W16
  bias : List W32
  outScale : W32
  inScale : W32
  alpha : W32
  lo : W32
  hi : W32
deriving DecidableEq, Repr

/-- A parameter load whose bias values are still to be read, in cycle `t` (R123): the bank's other contents, the
address of the bias values, the pages their marker applies to and the port. -/
structure BiasRead where
  t : Nat
  bank : Nat
  addr : Nat
  mark : List Nat
  port : Nat
  fill : ParamBank
  bundle : Nat
deriving DecidableEq, Repr

/-- A transpose buffer (R121). `fillEnd` is the cycle of its last row. -/
structure Transpose where
  rows : List Vec
  full : Bool
  filling : Bool
  fillEnd : Nat
  readIdx : Nat
  etype : Nat
deriving DecidableEq, Repr

/-- The four counts of R62. -/
structure Stats where
  produced : W32
  clipHigh : W32
  clipLow : W32
  underflow : W32
deriving DecidableEq, Repr

/-- The vector engine and VX_ registers (R111 to R138). `closing` is set from a word that closes the window
to the end of that cycle (R132). -/
structure Vx where
  lb : List (List Vec)
  t0 : Transpose
  t1 : Transpose
  p0 : ParamBank
  p1 : ParamBank
  bias : Option BiasRead
  ends : List (Option Nat)
  binds : List EndBind
  nextBind : Nat
  runs : List VRun
  results : List VRes
  drains : List DrainState
  funcFree : Nat
  live : Stats
  snap : Stats
  closing : Bool
  seq : W32
  fault : Bool
  vxFault : W32
deriving DecidableEq, Repr

/-- An unscheduled request of transfer `id` of core `core` (R144, R147, R148). `source` 0 is the move engine,
1 the mesh inbound; `ctx` the context it acts for. It reads or writes `len` bytes from core-local address
`addr`, which lie in one row; `tagOp` marks a data-less commit or release, which uses no bank (R159). `mark`
says whether a marker is placed on the page; `since` is the core's counter when it arrived, and `ready` its value
when the page was first found to permit the access (R148, R149). -/
structure Req where
  source : Nat
  ctx : Nat
  addr : Nat
  len : Nat
  write : Bool
  data : Bytes
  mark : Bool
  tagOp : Bool
  since : Nat
  ready : Option Nat
  core : Nat
  id : Nat
deriving DecidableEq, Repr

/-- A packet on the mesh (R14, R15): its source, its target core, and the access it carries. -/
structure MeshPkt where
  src : Nat
  dst : Nat
  req : Req
deriving DecidableEq, Repr

/-- A page the maintenance source has to zero (R173): the banks whose row it has written already, and the core's
counter when it was given the page (R149). -/
structure ZeroJob where
  page : Nat
  banks : List Nat
  since : Nat
deriving DecidableEq, Repr

/-- A corrected row to be written back (R165), and the core's counter when it was queued. -/
structure WriteBack where
  page : Nat
  bank : Nat
  since : Nat
deriving DecidableEq, Repr

/-- The scratchpad and SP_ registers (R140, R150, R177 to R186). An unlisted byte of a page in `undef`
is a free value of the epoch given there (R172), of any other page 0 (R171). `flips` are the bits that are wrong now,
by row (32 times the page, plus the bank) and bit (the 1,024 data bits, then the 48 check bits), and `coded` the rows
whose check bits were written under the class W code (R163, R164). `written` lists the pages written
since they were last zeroed (R172, R173), `errPages` those an uncorrectable error made POISON (R595). `marks` are the
markers that take effect at the end of the present cycle, with whether each commits (R152); `busy` the scheduled and
`used` the unscheduled accesses of the present cycle (R142), `used` by bank with their number; `turns` the source
each bank served last (R148), `waits` the counter when the breaker last served it (R149). `scrubDone` are the banks that the
scrubber has read in its present step (R169). -/
structure Sp where
  cells : Mem
  undef : List (Nat × Nat)
  flips : List (Nat × Nat)
  coded : List Nat
  written : List Nat
  errPages : List Nat
  tags : List (Nat × Byte)
  marks : List (Nat × Bool)
  reqs : List Req
  waits : List (Nat × Nat)
  turns : List (Nat × Nat)
  corr : List WriteBack
  busy : List SchedAcc
  used : List (Nat × Nat)
  zeroing : List ZeroJob
  fault : Bool
  spFault : W32
  spFaultBundle : W32
  tagIndex : BitVec 12
  eccCorrected : W64
  eccUncorrected : W32
  eccLast : W32
  scrubOn : Bool
  scrubPasses : BitVec 12
  scrubRow : BitVec 12
  scrubDone : List Nat
  breakerCount : W32
deriving DecidableEq, Repr

/-- What a move word started (R197): a DMA, a SEND, or a TAG operation. -/
inductive XferKind where
  | dma
  | send
  | tagOp (release : Bool)
deriving DecidableEq, Repr

/-- A transfer started and not finished (R206, R235, R251 to R253). `desc` is its transfer descriptor, or for a
SEND a descriptor of the same shape; a TAG operation has its first page in `dstBase` and its target lane in
`srcBase`. `rep` of `reps` repeats are done; in the current one `rd` bytes have been read and `wr` written, and
`buf` holds the bytes read, or transformed when `staged`, and not written. `busy` is set while a scratchpad
access of it is under way; `failed` holds the code and detail of the error response that stopped it. -/
structure Xfer where
  id : Nat
  kind : XferKind
  ctx : Nat
  lane : Nat
  bundle : Nat
  desc : Bytes
  srcBase : Nat
  dstBase : Nat
  reps : Nat
  rep : Nat
  rd : Nat
  wr : Nat
  buf : Bytes
  staged : Bool
  busy : Bool
  token : Option (Nat × Nat)
  failed : Option (Nat × Nat)
deriving DecidableEq, Repr

/-- A remote flag write waiting in the move engine (R189): its context, target lane and flag, and the transfers it
waits for. -/
structure FlagWrite where
  ctx : Nat
  lane : Nat
  bundle : Nat
  flag : Nat
  behind : List Nat
deriving DecidableEq, Repr

/-- The move engine (R197). `lastAt` is one more than the core's `workEnd` when a transfer of it last
completed, or the lane's END was processed with nothing in flight; 0 for neither. -/
structure Mv where
  xfers : List Xfer
  flagWrites : List FlagWrite
  nextId : Nat
  lastAt : Nat
deriving DecidableEq, Repr

/-- A per-context program bank (R257): the context, descriptor store, transfer table, codebook store
0 to 60 and manifest table. -/
structure ProgBank where
  ctx : Nat
  loops : List Bytes
  xfers : List Bytes
  books : List Bytes
  manifest : List (Nat × Nat × Nat)
deriving DecidableEq, Repr

/-- A macro taken from the lane (R267): its operands, the registers copied when it started (R269), its bundle's issue
cycle and, once begun, that of its first word and of the next step of its work. `unit` is the (group, N block) at work;
in it `kt` is the next K tile, `loaded` with its row blocks run up to `half`, `tiles` the tiles summed since the entries
were last cleared, `passes` the passes made over the split buffer, and `rows` the output rows computed, of which `row`
are written. `width` is the code width of tile (0, 0), `epoch` that of its free values, `runAt` the cycle of the latest run
and `least` the earliest cycle of completion. For a COMBINE, `remaining` are the partials still to be added (R276). -/
structure MacroState where
  word : W64
  cycle : Nat
  bundle : Nat
  a : List W24
  c : List W32
  epoch : Nat
  started : Bool
  done : Bool
  idle : Bool
  start : Nat
  next : Nat
  unit : Nat
  kt : Nat
  loaded : Bool
  half : Nat
  tiles : Nat
  passes : Nat
  width : Nat
  runAt : Nat
  least : Nat
  row : Nat
  rows : List (List W32)
  remaining : List Nat
deriving DecidableEq, Repr

/-- An error a unit of the core found, waiting to enter the error log in the same command: its class,
unit, code, instance, bundle, address and detail (R591). -/
structure Report where
  cls : Nat
  unit : Nat
  code : Nat
  inst : Nat
  bundle : Nat
  address : Nat
  detail : Nat
deriving DecidableEq, Repr

/-- One core. `ctx` is the context whose batch runs on it, `lane` the lane it runs, `pagesLow` and `pagesHigh` the lane's
ranges (R617). `workEnd` is one more than the cycle of the engines' latest event. `mLast`, `vLast` and `mvLast` are one more
than the cycle of the last word each queue issued, 0 before the first (R196), `mLastOps` the matrix opcodes issued in that
cycle. `tokensWaiting` are the tokens on their way, as (token end, sending core). -/
structure Core where
  ctx : Option Nat
  lane : Nat
  started : Bool
  pagesLow : Nat
  pagesHigh : Nat
  ctl : Ctl
  regs : CtlRegs
  hold : HoldState
  mq : List QWord
  vq : List QWord
  movq : List QWord
  mLast : Nat
  mLastOps : List Nat
  vLast : Nat
  mvLast : Nat
  workEnd : Nat
  mx : Mx
  vx : Vx
  sp : Sp
  mv : Mv
  banks : List ProgBank
  seq : Option MacroState
  tokensWaiting : List (Nat × Nat)
  reports : List Report
deriving DecidableEq, Repr

end Sys2Proof.Machine
end

