-- ==== Sys2Proof/Machine/DevState.lean ====
section
/-!
DEFINITION. The state outside the cores as plain data: HBM controller, flash, network and streams, host
interface and firmware, management port, power, security and the error log.
-/

namespace Sys2Proof.Machine

/-- One error-log entry (R591). -/
structure LogEntry where
  seq : Nat
  cls : Nat
  unit : Nat
  code : Nat
  timeUs : Nat
  plane : Nat
  ctx : Nat
  core : Nat
  inst : Nat
  bundle : Nat
  address : Nat
  detail : Nat
  ring : Nat
  tag : Nat
  count : Nat
deriving DecidableEq, Repr

/-- The error log (R590) and EL_ registers (R604 to R607). `entries` are the slots written, newest
first, at most 256. -/
structure ErrLog where
  entries : List LogEntry
  nextSeq : W32
  folded : W32
  fatal : Bool
  coreService : W32
  coreFailed : W32
deriving DecidableEq, Repr

/-- A read unit in a pseudo-channel's read queue (R342, R344). `waits` is set while it waits for a
partly covering write entry; `data` is what the writes accepted before it leave in the unit (R346), `alerts` the
alerts it has met in a row (R357). -/
structure ReadUnit where
  unit : Nat
  requester : Nat
  tag : Nat
  waits : Bool
  data : Bytes
  alerts : Nat
deriving DecidableEq, Repr

/-- A write-queue entry (R343): one 32-byte unit with its byte mask, and the requests (requester, tag) whose bytes
it carries. -/
structure WriteUnit where
  unit : Nat
  data : List (Option Byte)
  owners : List (Nat × Nat)
  realtime : Bool
deriving DecidableEq, Repr

/-- A write in the retry buffer (R355), with the alerts it has met in a row and what its unit held before. -/
structure RetryCmd where
  entry : WriteUnit
  alerts : Nat
  old : Bytes
  oldBad : Bool
deriving DecidableEq, Repr

/-- One pseudo-channel front end (R342 to R357). `postponed` counts each bank's postponed refreshes. -/
structure PseudoChan where
  reads : List ReadUnit
  writes : List WriteUnit
  retry : List RetryCmd
  postponed : List (Nat × Nat)
  failed : Bool
deriving DecidableEq, Repr

/-- A request whose units have not all completed (R342): the units left, and the data of those that have. -/
structure HbmOpen where
  requester : Nat
  tag : Nat
  write : Bool
  addr : Nat
  len : Nat
  left : List Nat
  error : Bool
  got : List (Nat × Bytes)
deriving DecidableEq, Repr

/-- A response to a requester of memory (R342, R346, R354, R374): an error response has no data. -/
structure MemResp where
  requester : Nat
  tag : Nat
  error : Bool
  data : Bytes
deriving DecidableEq, Repr

/-- The answer to a BAR2 access (R461, R597): data, an Unsupported Request, or a poisoned completion. -/
inductive Bar2Answer where
  | done
  | data (bs : Bytes)
  | unsupported
  | poisoned
deriving DecidableEq, Repr

/-- The HBM controller (R339 to R369): contents, units left reporting uncorrectable (R354), front ends
and MC_ registers. `srState` per stack: 0 active, 1 in self-refresh, 2 leaving it. -/
structure Hbm where
  cells : Mem
  bad : List Nat
  chans : List (Nat × PseudoChan)
  opens : List HbmOpen
  resps : List MemResp
  srState : List Nat
  fatal : Bool
  panic : Bool
  trained : BitVec 2
  failedPc : BitVec 6
  rtLevel : Nat
  panicCount : W32
  srEnable : Bool
  srIdleUs : BitVec 14
  eccCorrected : W64
  eccUncorrected : W32
  caAlerts : W16
  caDropped : W16
  errLast : W64
  trainDone : Bool
  trainFailed : Bool
  minWindow : Byte
  failLane : Byte
deriving DecidableEq, Repr

/-- An open flash operation of a channel (R381, R383): opcode, offset, steps done, and whether ABORT
asked it to end at the next step boundary. -/
structure FlashOp where
  opcode : Nat
  addr : Nat
  data : Bytes
  arg : W64
  region : Nat
  regionOn : Bool
  abort : Bool
deriving DecidableEq, Repr

/-- The answer to a read of one flash word (R373, R374): data, or a status word when `status` is set, or an error
response. -/
structure FlashResp where
  off : Nat
  status : Bool
  error : Bool
  data : Bytes
deriving DecidableEq, Repr

/-- A flash command channel with its FL_ registers (R381, R408 to R412). -/
structure FlashChan where
  op : Option FlashOp
  buf : Mem
  bufFree : Option Nat
  addr : BitVec 30
  arg : W64
  unlocked : Bool
  steps : BitVec 6
  result : Byte
  resultReg : W64
deriving DecidableEq, Repr

/-- A protection region descriptor (R390, R413). -/
structure Region where
  on : Bool
  first : Nat
  last : Nat
deriving DecidableEq, Repr

/-- The flash die and controller (R370 to R413). An unlisted byte reads 0xFF (R371); bytes of pages in
`freePages` are free values (R385). `step` is the channel whose step runs now, if any; `last` the
channel served last (R383); `worn` the words whose cells hold wrong bits, true for more than SEC-DED corrects (R373; DESIGN
CHOICE, assumption 67: such bits stay until the word is written or erased); `lives` the module life records of the CONFIG
area, least recently seen first (R444); `record` the valid configuration record of the CONFIG area, empty when there is none
(R525). -/
structure Flash where
  cells : Mem
  freePages : List (Nat × Nat)
  eraseCount : List (Nat × Nat)
  openFlags : List Nat
  incomplete : List Nat
  password : Option W64
  regions : List Region
  attempts : Nat
  scanDone : Bool
  clkDiv : BitVec 2
  waitStates : BitVec 4
  supplyLow : Bool
  supplyInForce : Bool
  eiIndex : BitVec 9
  eccCorrected : W32
  eccUncorrected : W32
  errLast : W32
  wear : Nat
  ch0 : FlashChan
  ch1 : FlashChan
  step : Option Nat
  last : Nat
  resps : List FlashResp
  worn : List (Nat × Bool)
  lives : List Bytes
  record : Bytes
deriving DecidableEq, Repr

/-- A frame of a stream that holds a slot (R430): the fragments received as (index, payload bytes), and whether it is
accepted or admitted to a batch. `past` marks one that lies before a base set since. -/
structure HeldFrame where
  seq : W32
  frags : List (Nat × Nat)
  lastFrag : Option Nat
  frameBytes : Nat
  timestamp : W64
  accepted : Bool
  admitted : Bool
  past : Bool
deriving DecidableEq, Repr

/-- A stream-table entry (R433) with what the stream engine and dispatcher keep for it (R430, R431): whether it has
a base, the last admitted or gap sequence, gap sequences after it, the frames held, the return path of the last
accepted packet, the last credit request, and whether Calico bound it (R529). -/
structure Stream where
  sid : Nat
  entry : Bytes
  based : Bool
  last : W32
  gaps : List W32
  frames : List HeldFrame
  retAddr : Nat
  retPort : Nat
  retMac : Nat
  retVlan : Nat
  port : Nat
  creditReq : Nat
  calico : Bool
deriving DecidableEq, Repr

/-- Bytes in the ingest buffer on their way to HBM (R349): their stream, frame and address; `counted` says whether
they count in the buffer's level. -/
structure Ingest where
  sid : Nat
  seq : W32
  addr : Nat
  bytes : Bytes
  counted : Bool
deriving DecidableEq, Repr

/-- Where a frame goes: port, destination MAC, VLAN, address and UDP port (R416, R431). -/
structure NetPath where
  port : Nat
  mac : Nat
  vlan : Nat
  addr : Nat
  udp : Nat
deriving DecidableEq, Repr

/-- A frame admitted to a batch (R436), with the stream entry under which it was (R23); `path` is where its result goes once
the stream has been bound anew. -/
structure BatchFrame where
  rank : Nat
  sid : Nat
  seq : W32
  timestamp : W64
  entry : Bytes
  path : Option NetPath
deriving DecidableEq, Repr

/-- A stream batch, open or closed (R435, R436): `due` is set once its deadline has passed. -/
structure StreamBatch where
  frames : List BatchFrame
  due : Bool
deriving DecidableEq, Repr

/-- A frame the device sends (R415, R418, R419, R422, R423, R431, R438), or passes to firmware. -/
inductive OutFrame where
  | credit (dest : NetPath) (stream : Nat) (lowest limit : W32) (ptp pcp : Nat)
  | result (dest : NetPath) (stream : Nat) (seq : W32) (ts : W64) (format frag : Nat) (lastFrag : Bool)
      (frameBytes : Nat) (payload : Bytes) (pcp : Nat)
  | pfc (port prio quanta : Nat)
  | cnp (qp : Nat)
  | ack (qp psn : Nat)
  | seqNak (qp psn : Nat)
  | accessNak (qp psn : Nat)
  | operationNak (qp psn : Nat)
  | rnrNak (qp psn : Nat)
  | readResponse (qp psn : Nat) (payload : Bytes)
  | readRequest (qp psn va rkey len : Nat)
  | rdmaWrite (qp psn : Nat) (imm : Option W32) (payload : Bytes)
  | rdmaSend (qp psn : Nat) (payload : Bytes)
  | egressTime (port : Nat)
  | toFirmware (port : Nat) (stamp : Option Nat)
deriving DecidableEq, Repr

/-- An outgoing RDMA message not yet acknowledged (R422): its first PSN and payload, the immediate of a pipeline-link
page write, and that page as (link, page index). -/
structure QpMsg where
  psn : Nat
  imm : Option W32
  link : Option (Nat × Nat)
  payload : Bytes
deriving DecidableEq, Repr

/-- A queue pair set up by CONFIG_QP (R472) and its run-time state (R422, R423). Rates are in
1/80000 of the port rate, so that one eighth of a step of a percent is exact. `got` holds the payload of a message
not yet whole, `nakSent` that a sequence error has been reported, `cnpAt` when the last CNP was sent. -/
structure Qp where
  num : Nat
  params : Bytes
  sqPsn : Nat
  ackPsn : Nat
  rqPsn : Nat
  outstanding : List QpMsg
  retries : Nat
  rnrRetries : Nat
  rnrWait : Bool
  got : Bytes
  nakSent : Bool
  cnpAt : Option Nat
  rate : Nat
  error : Bool
deriving DecidableEq, Repr

/-- A pipeline link (R335, R473). `credits` are page indexes whose credit the sending end holds;
`next` the next page in range order; `sent` pages written and not yet released, or, at the receiving end, pages
received whose credit has not been returned. -/
structure Link where
  num : Nat
  role : Nat
  qp : Nat
  ctx : Nat
  lane : Nat
  pages : Nat
  first : Nat
  remote : Nat
  credits : List Nat
  next : Nat
  sent : List Nat
  stopped : Bool
deriving DecidableEq, Repr

/-- A port (R414 to R419, R450). Occupancy is per priority, in bytes; `pause` the priorities paused
with their quanta, `held` the frames that wait for a paused priority. -/
structure Port where
  linkUp : Bool
  xoffSent : Byte
  paused : Byte
  pause : List (Nat × Nat)
  held : List (Nat × OutFrame)
  occupancy : List Nat
deriving DecidableEq, Repr

/-- A cage and its module (R443 to R445, R452); `seconds` it has run in high-power mode since its hours were last
written. -/
structure Cage where
  present : Bool
  bringUp : Bool
  active : Bool
  wear : Bool
  wearRaised : Bool
  lowSeconds : Nat
  failStep : BitVec 3
  maxBias : W16
  threshold : Nat
  rstReleased : Bool
  lpMode : Bool
  serial : Bytes
  dayBias : List Nat
  seconds : Nat
deriving DecidableEq, Repr

/-- Ports, RDMA, streams and modules (R414 to R456), with NW_ and ST_ registers. -/
structure Net where
  portReset : Byte
  cageWidth : Bool
  mode : BitVec 2
  resultPcp : BitVec 3
  creditPcp : BitVec 3
  lossless : Byte
  ecnStep : BitVec 6
  ports : List Port
  macs : List Nat
  ips : List Bytes
  prefixes : Bytes
  icrcBad : Nat
  ingest : List Ingest
  wakeOffset : BitVec 7
  wakeEnable : Bool
  wakePort : BitVec 3
  wakePattern : Bytes
  wakeMask : Bytes
  cages : List Cage
  stEnable : Bool
  udpPort : W16
  ctxBatch : List W64
  ctxResult : List W64
  drops : List W32
  streams : List Stream
  openB : List (Nat × StreamBatch)
  closedB : List (Nat × StreamBatch)
  qps : List Qp
  links : List Link
  out : List OutFrame
  ptp : Nat
  ptpRuns : Bool
  dropping : Bool
deriving DecidableEq, Repr

/-- The states of a ring (R502). -/
inductive RingState where
  | idle
  | active
  | blocked
  | stopped
  | orphaned
deriving DecidableEq, Repr

/-- What has become of a begun ring entry (R465, R467). -/
inductive EntryStage where
  | begun
  | running
  | done (status value : Nat)
deriving DecidableEq, Repr

/-- A begun ring entry (R464): its index, bytes and stage. -/
structure RingEntry where
  index : Nat
  bytes : Bytes
  stage : EntryStage
deriving DecidableEq, Repr

/-- A ring pair (R463 to R469, R499 to R502). `entries` are begun entries, oldest first; `nextIdx` the
next entry to begin; `unsignalled` completions written since the last MSI-X message. -/
structure Ring where
  state : RingState
  enable : Bool
  sqBase : BitVec 36
  cqBase : BitVec 36
  resBase : BitVec 36
  sizeLog2 : BitVec 4
  sizeInUse : Nat
  coalesceUs : Byte
  irqEn : Bool
  vector : BitVec 7
  tail : BitVec 12
  cqHead : BitVec 12
  sqHead : BitVec 12
  cqTail : BitVec 12
  phase : Bool
  nextIdx : Nat
  entries : List RingEntry
  unsignalled : Nat
  resetWait : Bool
deriving DecidableEq, Repr

/-- The states of a weight slot (R310). -/
inductive SlotState where
  | free
  | loading
  | ready
  | resident
  | evicted
  | refetching
  | retiring
  | unusable
deriving DecidableEq, Repr

/-- A weight slot (R307, R310, R311): its descriptor, staged tensors as (tensor, HBM address, bytes,
own copy), references and use count; `inPages` whether its residence-0 tensors fill their pinned
pages; `lost` is the tensor whose source failed when the set became UNUSABLE. `relayNext` is where the next relayed
bytes belong, from this tensor index on; `fwdFailed` that forwarding has failed (R332, R333). -/
structure Slot where
  state : SlotState
  inPages : Bool
  desc : Bytes
  staged : List (Nat × Nat × Nat × Bool)
  refs : Nat
  uses : Nat
  lastLatch : Nat
  loadRing : Option Nat
  relayNext : Nat × Nat
  relayed : List (Nat × Bytes)
  fwdFailed : Bool
  lost : Nat
  reload : List Nat
deriving DecidableEq, Repr

/-- A batch of a context (R321, R471, R436: `per` frames for each of `ranks` ranks): from a ring entry or a stream batch, with its latched program
and slot, its arguments, and its lanes begun, ended and halted. `logged` is the lowest log entry written for it,
`failing` that it has failed, `stopEnd` that it ended under R299, `refuse` the status and value it ends with when it
may run no bundle (R325, R329). `stops` are the bisection stops copied at its start, one per lane (R295). -/
structure Batch where
  ring : Option (Nat × Nat)
  tag : Nat
  signal : Option Nat
  args : List (Nat × Nat)
  frames : List BatchFrame
  per : Nat
  ranks : Nat
  slot : Nat
  stops : List W64
  lanesBegun : List Nat
  lanesEnded : List Nat
  lanesHalted : List Nat
  logged : Option Nat
  failing : Bool
  stopEnd : Bool
  refuse : Option (Nat × Nat)
  deliver : Bool
deriving DecidableEq, Repr

/-- A context-table entry (R480, R227): configuration, placement, program image copy, weight slots,
pointer, batches waiting and running. -/
structure Ctx where
  configured : Bool
  lanes : Nat
  cls : Nat
  pages : Nat
  wdtExp : Nat
  useWindow : Nat
  hbmBase : Nat
  hbmBytes : Nat
  placed : List (Nat × Nat)
  image : Option Bytes
  newImage : Option (Bytes × Nat × Nat)
  workBase : Nat
  copyBase : Nat
  ptr : Nat
  slotA : Slot
  slotB : Slot
  queue : List Batch
  batch : Option Batch
  latched : Option Nat
  calico : Option Nat
deriving DecidableEq, Repr

/-- An MSI-X message (R459, R469, R488): function 0 or 1 and vector. -/
structure Msix where
  fn : Nat
  vector : Nat
deriving DecidableEq, Repr

/-- The service mailbox (R488, R504). -/
structure Mailbox where
  arg0 : W64
  arg1 : W64
  busy : Bool
  progress : BitVec 15
  result : W16
  buf : Bytes
  running : Option Nat
deriving DecidableEq, Repr

/-- Live update (R489 to R492): sectors written, whether verification passed, the trial. `bootCopy` is the copy that runs,
`runningImage` its bytes, and `bootImage` those of the image that booted (R573). -/
structure Update where
  written : List Nat
  verified : Bool
  trial : Bool
  trialSec : Nat
  handover : Bool
  flrWait : Bool
  bmeWait : Bool
  bootCopy : Bool
  runningImage : Bytes
  bootImage : Bytes
deriving DecidableEq, Repr

/-- The host interface and firmware (R457 to R504) with HI_ registers. `aer` holds the first doubleword of the
Header Log once an Uncorrectable Internal Error is reported (R597). -/
structure HostIf where
  fwReady : Bool
  attached : Bool
  flrDrain : Bool
  eventVector : BitVec 7
  timeoutMs : W16
  heartbeat : W32
  waitTimeoutMs : W16
  bar2Base : BitVec 36
  busMaster : Bool
  rings : List Ring
  flags : List W32
  ctxs : List Ctx
  msix : List Msix
  msixTable0 : Mem
  msixTable1 : Mem
  hostMem : Mem
  mail : Mailbox
  upd : Update
  dbgKeep : Bool
  dbgCtx : BitVec 4
  dbgStops : List W64
  dbgSel : W32
  dbgReady : Bool
  dbgError : Bool
  dbgFetch : Bool
  dbgBuf : Bytes
  dbgArmed : Bool
  rr : Nat
  dispatch : Bool
  bar2Out : List Bar2Answer
  aer : Option W32
deriving DecidableEq, Repr

/-- A long management command in progress (R516, R517). -/
inductive LongCmd where
  | none
  | program
  | erase
  | dump (first left : Nat)
deriving DecidableEq, Repr

/-- The management port (R505 to R528). `latches` are the values latched by reads of lowest bytes, `held` the bytes of
registers written in part (R508), `lastRead` what the port last answered, `ibis` the in-band interrupts it raised. -/
structure Mg where
  staticAddr : Nat
  dynAddr : Option Nat
  ibiEnabled : Bool
  ibis : List Byte
  regOffset : Nat
  latches : List (Nat × Bytes)
  held : List (Nat × Byte)
  grade : Byte
  fatal : Bool
  alert : Byte
  alertEn : Byte
  longState : BitVec 2
  shortState : BitVec 2
  longSteps : BitVec 4
  longResult : Byte
  shortResult : Byte
  long : LongCmd
  shortFlash : Bool
  mailbox : Option Nat
  arg : W64
  bufPtr : BitVec 9
  buf : Bytes
  winAddr : BitVec 48
  winData : W32
  winBusy : Bool
  winError : Bool
  winHigh : W32
  winLow : Option (Nat × W32)
  pwrRb : Byte
  temps : List Byte
  powers : List W16
  lastRead : Bytes
deriving DecidableEq, Repr

/-- Calico (R526 to R531): the state field, skipped entries, the catalogue directory as the last start read it, entries
started as (entry, context), the streams reported with the time of their last report, and the catalogue digest. -/
structure Calico where
  state : BitVec 2
  skipped : BitVec 4
  dir : Bytes
  started : List (Nat × Nat)
  reported : List (Nat × Nat)
  digest : Bytes
deriving DecidableEq, Repr

/-- The low-power sequence (R547, R553). -/
inductive PwPhase where
  | active
  | entering (felt : Bool) (ap : Nat)
  | voile
  | felt
  | exiting (felt : Bool)
  | tripped
  | off
deriving DecidableEq, Repr

/-- The power controller (R533 to R565) with PW_ and CK_ registers. Limits and dividers are the codes of
PW_DVFS.req_div; `curDiv` is the divider now driving CLK_CORE, `pendingDiv` a faster one that waits for its rail
(R535); `vddCore` and `vddSram` are the levels last set over AVSBus, in millivolts (R613, R614); `wdtSince` is when the
firmware watchdog was last serviced, in microseconds (R589). -/
structure Pw where
  phase : PwPhase
  wakePending : Bool
  lastAp : BitVec 3
  aborted : Bool
  capLimit : BitVec 2
  thermalLimit : BitVec 2
  capExceeded : Bool
  result : BitVec 4
  requester : BitVec 2
  rb : Byte
  wakeSrc : BitVec 13
  wakeTimer : W32
  timerArmed : Bool
  reqDiv : BitVec 2
  curDiv : BitVec 2
  pendingDiv : Option (BitVec 2)
  vddCore : Nat
  vddSram : Nat
  cap : Byte
  hysteresis : Byte
  alarm : Byte
  wdtRunning : Bool
  wdtPeriod : W16
  wdtSuspended : Bool
  wdtSince : Nat
  pllLocked : Bool
  above : Nat
  below : Nat
  inReset : Bool
  abortLoads : List Nat
  thermTripPin : Bool
deriving DecidableEq, Repr

/-- Security (R566 to R586): fuses, boot status, sessions, the JTAG TAP. `cdi` holds the four items of the compound device
identifier of the image that booted (R572); `tdo` is what the JTAG port shifts out; `boundary` its boundary register. -/
structure Sc where
  revoked : BitVec 4
  rollback : Nat
  lifecycle : BitVec 2
  udsErased : Bool
  decomDone : Bool
  decomKey : Bool
  identityValid : Bool
  unlockFailures : BitVec 3
  resultA : BitVec 4
  resultB : BitVec 4
  booted : Bool
  copy : Bool
  keySlot : BitVec 2
  debugged : Bool
  silicon : Bool
  firmware : Bool
  observe : Bool
  fwHalted : Bool
  challenge : Option (BitVec 2 × Bytes)
  cdi : Bytes
  jtagIr : Byte
  tdo : Bytes
  boundary : Nat
deriving DecidableEq, Repr

end Sys2Proof.Machine
end

