-- ==== Sys2Proof/Machine/State.lean ====
section
/-!
DEFINITION. The state of the block: the queue of waiting commands, the cores, the mesh, and every unit
outside them, with the reasons a step can stop and the state right after a cold reset.
-/

namespace Sys2Proof.Machine

/-- The whole block. `pending` is the queue of waiting commands, first in, first out; `freeCtr` numbers
the free values drawn so far (assumption 2); `timeUs` is the microsecond count of R591; `readOut` is what the last read of
a register with a side effect answered. -/
structure State where
  pending : List Instr
  freeCtr : Nat
  timeUs : Nat
  readOut : W64
  cores : List Core
  mesh : List MeshPkt
  hbm : Hbm
  flash : Flash
  net : Net
  host : HostIf
  log : ErrLog
  mg : Mg
  calico : Calico
  pw : Pw
  sc : Sc
deriving DecidableEq, Repr

/-- Reasons a run could end in a fault. No command of this block raises one: every error the manual
describes is an effect on the state (R587 to R594). `unreachable` is raised by nobody; safe. -/
inductive Fault where
  | unreachable
deriving DecidableEq, Repr

/-- Reasons a command has no meaning. -/
inductive Refusal where
  /-- Raised by `exec` for a command that is not modelled yet; safe, since the run stops. -/
  | notModelled (mnemonic : String)
deriving DecidableEq, Repr

/-- What a command answers. -/
abbrev Res := Host.Outcome State Fault Refusal

/-- No hold (R202). -/
def HoldState.none : HoldState :=
  ⟨[], [], false, 0, 0, 0, 0, 0⟩

/-- A control core after a core reset (R215 to R223); registers 0 by design choice (assumption 3). -/
def Ctl.reset : Ctl where
  a := List.replicate 16 0
  inc := List.replicate 16 0
  c := List.replicate 16 0
  s := List.replicate 16 0
  cmps := List.replicate 8 none
  loops := []
  flags := 0
  ibuf := []
  fetched := 0
  high := 0
  fetchFail := []
  pc := 0
  offset := 0
  pushed := 0
  nextPc := 0
  syncWait := false
  syncExact := false
  ended := false
  cycle := 0
  cleared := 0
  sectionBase := 0
  tokens := List.replicate 8 0
  stopAt := 0
  stopSeen := 0

/-- The control-core registers after a core reset (R215 to R222, R282, R283, R303). -/
def CtlRegs.reset : CtlRegs where
  fault := false
  stopped := false
  ccFault := 0
  ccFaultBundle := 0
  holdWdt := 0b10100
  holdTag := 0
  holdToken := 0
  holdLate := 0
  holdEcc := 0
  syncWaitCycles := 0
  halted := false
  halting := false
  seqActive := false
  seqOp := 0
  seqSplits := 0
  seqTiles := 0

/-- The matrix engine after a core reset; its entries are free values of the epoch given (R541). -/
def Mx.reset (epoch : Nat) : Mx where
  active := none
  shadow := none
  loading := none
  run := none
  flight := []
  nextRun := 0
  swapped := false
  turn := []
  acc := []
  accTags := []
  accFree := some epoch
  tagFree := none
  fault := false
  ovf := 0
  mxFault := 0
  mxFaultBundle := 0
  rowCount := 0
  idleCount := 0
  idleMark := 0
  ahead := 0
  loadCount := 0

/-- An empty transpose buffer (R121). -/
def Transpose.empty : Transpose := ⟨[], false, false, 0, 0, 0⟩

/-- A drain parameter bank that is not ready (R123). -/
def ParamBank.empty : ParamBank := ⟨false, 0, [], [], 0, 0, 0, 0, 0⟩

/-- The vector engine after a core reset (R134 to R139). -/
def Vx.reset : Vx where
  lb := [[], [], [], []]
  t0 := .empty
  t1 := .empty
  p0 := .empty
  p1 := .empty
  bias := none
  ends := List.replicate 6 none
  binds := []
  nextBind := 0
  runs := []
  results := []
  drains := []
  funcFree := 0
  live := ⟨0, 0, 0, 0⟩
  snap := ⟨0, 0, 0, 0⟩
  closing := false
  seq := 0
  fault := false
  vxFault := 0

/-- The scratchpad after a cold reset: zero data, every tag 0x00 (R171, R177 to R186). -/
def Sp.reset : Sp where
  cells := []
  undef := []
  flips := []
  coded := []
  written := []
  errPages := []
  tags := []
  marks := []
  reqs := []
  waits := []
  turns := []
  corr := []
  busy := []
  used := []
  zeroing := []
  fault := false
  spFault := 0
  spFaultBundle := 0
  tagIndex := 0
  eccCorrected := 0
  eccUncorrected := 0
  eccLast := 0
  scrubOn := true
  scrubPasses := 0
  scrubRow := 0
  scrubDone := []
  breakerCount := 0

/-- A core after a cold reset. -/
def Core.reset : Core where
  ctx := none
  lane := 0
  started := false
  pagesLow := 0
  pagesHigh := 0
  ctl := .reset
  regs := .reset
  hold := .none
  mq := []
  vq := []
  movq := []
  mLast := 0
  mLastOps := []
  vLast := 0
  mvLast := 0
  workEnd := 0
  mx := .reset 0
  vx := .reset
  sp := .reset
  mv := ⟨[], [], 0, 0⟩
  banks := []
  seq := none
  tokensWaiting := []
  reports := []

/-- The HBM controller after a reset (R360 to R368); contents 0 by design choice (assumption 5). -/
def Hbm.reset : Hbm where
  cells := []
  bad := []
  chans := []
  opens := []
  resps := []
  srState := [0, 0]
  fatal := false
  panic := false
  trained := 0
  failedPc := 0
  rtLevel := 0
  panicCount := 0
  srEnable := true
  srIdleUs := 100
  eccCorrected := 0
  eccUncorrected := 0
  caAlerts := 0
  caDropped := 0
  errLast := 0
  trainDone := false
  trainFailed := false
  minWindow := 0
  failLane := 0

/-- A flash command channel after a reset (R408 to R412); its page buffer is undefined since the epoch
given (R381). -/
def FlashChan.reset (epoch : Nat) : FlashChan where
  op := none
  buf := []
  bufFree := some epoch
  addr := 0
  arg := 0
  unlocked := false
  steps := 0
  result := 0
  resultReg := 0

/-- The factory configuration record (R525): sequence number 0 and no priorities by design choice (assumption 45). -/
def factoryRecord : Bytes :=
  [0x43, 0x41, 0x4C, 0x43, 1, 0, 1, 0x06, 0, 0, 0, 0, 0xFC, 0xB7, 0, 0] ++ List.replicate 236 0 ++ [0xAB, 0xB1, 0x0E, 0xB6]

/-- The flash of a part as it leaves the factory (R390), erased by design choice (assumption 6). -/
def Flash.reset : Flash where
  cells := []
  freePages := []
  eraseCount := []
  openFlags := []
  incomplete := []
  password := none
  regions := List.replicate 16 ⟨false, 0, 0⟩
  attempts := 0
  scanDone := false
  clkDiv := 0
  waitStates := 0xF
  supplyLow := false
  supplyInForce := false
  eiIndex := 0
  eccCorrected := 0
  eccUncorrected := 0
  errLast := 0
  wear := 0
  ch0 := .reset 0
  ch1 := .reset 0
  step := none
  last := 1
  resps := []
  worn := []
  lives := []
  record := factoryRecord

/-- A port with no traffic (R450). -/
def Port.reset : Port := ⟨false, 0, 0, [], [], List.replicate 8 0⟩

/-- An empty cage (R452); MOD_RST_c_N held low (R443). -/
def Cage.reset : Cage where
  present := false
  bringUp := false
  active := false
  wear := false
  wearRaised := false
  lowSeconds := 0
  failStep := 0
  maxBias := 0
  threshold := 0
  rstReleased := false
  lpMode := false
  serial := []
  dayBias := []
  seconds := 0

/-- The network after a reset (R447 to R456). -/
def Net.reset : Net where
  portReset := 0xFF
  cageWidth := false
  mode := 0
  resultPcp := 0
  creditPcp := 0
  lossless := 0
  ecnStep := 0b001100
  ports := List.replicate 8 .reset
  macs := List.replicate 8 0
  ips := List.replicate 8 (List.replicate 16 0)
  prefixes := List.replicate 8 0
  icrcBad := 0
  ingest := []
  wakeOffset := 0
  wakeEnable := true
  wakePort := 0
  wakePattern := List.replicate 16 0
  wakeMask := List.replicate 16 0
  cages := List.replicate 8 .reset
  stEnable := false
  udpPort := 0xB7FC
  ctxBatch := List.replicate 16 (BitVec.ofNat 64 (0x3E8 * 2 ^ 44))
  ctxResult := List.replicate 16 0
  drops := List.replicate 7 0
  streams := []
  openB := []
  closedB := []
  qps := []
  links := []
  out := []
  ptp := 0
  ptpRuns := false
  dropping := false

/-- A ring after a reset (R499 to R502). -/
def Ring.reset : Ring where
  state := .idle
  enable := false
  sqBase := 0
  cqBase := 0
  resBase := 0
  sizeLog2 := 4
  sizeInUse := 4
  coalesceUs := 0
  irqEn := false
  vector := 0
  tail := 0
  cqHead := 0
  sqHead := 0
  cqTail := 0
  phase := true
  nextIdx := 0
  entries := []
  unsignalled := 0
  resetWait := false

/-- A FREE weight slot (R310). -/
def Slot.reset : Slot where
  state := .free
  inPages := false
  desc := []
  staged := []
  refs := 0
  uses := 0
  lastLatch := 0
  loadRing := none
  relayNext := (0, 0)
  relayed := []
  fwdFailed := false
  lost := 0
  reload := []

/-- An UNLOADED context (R480). -/
def Ctx.reset : Ctx where
  configured := false
  lanes := 0
  cls := 0
  pages := 0
  wdtExp := 0
  useWindow := 0
  hbmBase := 0
  hbmBytes := 0
  placed := []
  image := none
  newImage := none
  workBase := 0
  copyBase := 0
  ptr := 0
  slotA := .reset
  slotB := .reset
  queue := []
  batch := none
  latched := none
  calico := none

/-- The host interface and firmware after a reset (R493 to R504). -/
def HostIf.reset : HostIf where
  fwReady := false
  attached := false
  flrDrain := false
  eventVector := 0
  timeoutMs := 0x03E8
  heartbeat := 0
  waitTimeoutMs := 0x07D0
  bar2Base := 0
  busMaster := false
  rings := List.replicate 64 .reset
  flags := List.replicate 256 0
  ctxs := List.replicate 16 .reset
  msix := []
  msixTable0 := []
  msixTable1 := []
  hostMem := []
  mail := ⟨0, 0, false, 0, 0, [], none⟩
  upd := ⟨[], false, false, 0, false, false, false, false, [], []⟩
  dbgKeep := false
  dbgCtx := 0
  dbgStops := List.replicate 32 0
  dbgSel := 0
  dbgReady := false
  dbgError := false
  dbgFetch := false
  dbgBuf := []
  dbgArmed := false
  rr := 0
  dispatch := false
  bar2Out := []
  aer := none

/-- The error log after a cold reset (R604 to R607). -/
def ErrLog.reset : ErrLog := ⟨[], 1, 0, false, 0, 0⟩

/-- The management port after a cold reset (R510 to R523). -/
def Mg.reset : Mg where
  staticAddr := 0x58
  dynAddr := none
  ibiEnabled := false
  ibis := []
  regOffset := 0
  latches := []
  held := []
  grade := if Config.gradeX then 1 else 0
  fatal := false
  alert := 0
  alertEn := 0xEF
  longState := 0
  shortState := 0
  longSteps := 0
  longResult := 0
  shortResult := 0
  long := .none
  shortFlash := false
  mailbox := none
  arg := 0
  bufPtr := 0
  buf := List.replicate 512 0
  winAddr := 0
  winData := 0
  winBusy := false
  winError := false
  winHigh := 0
  winLow := none
  pwrRb := 0xFF
  temps := List.replicate 8 0
  powers := [0, 0, 0]
  lastRead := []

/-- Calico after a reset (R528). -/
def Calico.reset : Calico := ⟨0, 0, [], [], [], []⟩

/-- The power controller after a cold reset (R556 to R565). -/
def Pw.reset : Pw where
  phase := .active
  wakePending := false
  lastAp := 0
  aborted := false
  capLimit := 0
  thermalLimit := 0
  capExceeded := false
  result := 0
  requester := 0
  rb := 0
  wakeSrc := 0
  wakeTimer := 0
  timerArmed := false
  reqDiv := 0
  curDiv := 0
  pendingDiv := none
  vddCore := 850
  vddSram := 750
  cap := 0xF0
  hysteresis := 5
  alarm := if Config.gradeX then 0xA9 else 0x9F
  wdtRunning := false
  wdtPeriod := 100
  wdtSuspended := false
  wdtSince := 0
  pllLocked := false
  above := 0
  below := 0
  inReset := true
  abortLoads := []
  thermTripPin := false

/-- Security after a cold reset (R582 to R586); the fuses by design choice (assumption 9). -/
def Sc.reset : Sc where
  revoked := 0
  rollback := 0
  lifecycle := 0b01
  udsErased := false
  decomDone := false
  decomKey := false
  identityValid := false
  unlockFailures := 0
  resultA := 0xF
  resultB := 0xF
  booted := false
  copy := false
  keySlot := 0
  debugged := false
  silicon := false
  firmware := false
  observe := false
  fwHalted := false
  challenge := none
  cdi := []
  jtagIr := 0x02
  tdo := []
  boundary := 0

/-- The block right after a cold reset: every register at the value the manual states, the queue of
commands empty, and no firmware running yet (R538, R539). -/
def State.reset : State where
  pending := []
  freeCtr := 1
  timeUs := 0
  readOut := 0
  cores := List.replicate 32 .reset
  mesh := []
  hbm := .reset
  flash := .reset
  net := .reset
  host := .reset
  log := .reset
  mg := .reset
  calico := .reset
  pw := .reset
  sc := .reset

end Sys2Proof.Machine
end

