-- ==== Sys2Proof/Machine/Operands.lean ====
section
/-!
DEFINITION. The operand forms: control operations (R239), engine words (R243 to R253), loop descriptors and
their walks (R258 to R265), predicate masks, transfer descriptors (R233), element types (R111), and the tile
scale record with its scaled levels (R46 to R51).
-/

namespace Sys2Proof.Machine

/-- Slot `i` of a bundle (R236). -/
def slotOf (b : BitVec 256) (i : Nat) : W64 := BitVec.ofNat 64 (b.toNat >>> (64 * i))

/-- The opcode of a slot-0 operation (R236). -/
def opOf (w : W64) : Nat := fld w 51 46

/-- The advance of a bundle (R194, R236). -/
def advanceOf (w : W64) : Nat := fld w 63 52

/-- A slot 1 to 3 holds a word (R236). -/
def validOf (w : W64) : Bool := bit w 63

/-- The skew of an engine word (R195, R236). -/
def skewOf (w : W64) : Nat := fld w 62 60

/-- The matrix opcode of a word: 0 LOAD, 1 RUN (R243). -/
def mxOpOf (w : W64) : Nat := fld w 59 57

/-- The class of a vector word (R246), and the operation of a move word (R251). -/
def classOf (w : W64) : Nat := fld w 59 56

/-- The token a word pops, if it pops one (R243). -/
def tokenOf (w : W64) : Option Nat := if bit w 3 then some (fld w 2 0) else none

/-- The close option of a vector word (R246). -/
def closeOf (w : W64) : Bool := bit w 4

/-- Register `i` of a copied A file. -/
def aReg (q : QWord) (i : Nat) : W24 := q.a.getD i 0

/-- Register `i` of a copied C file. -/
def cReg (q : QWord) (i : Nat) : W32 := q.c.getD i 0

/-- Register `i` of a copied S file. -/
def sReg (q : QWord) (i : Nat) : W32 := q.s.getD i 0

/-- A 24-bit address sum (R187). -/
def addr24 (n : Int) : Nat := (n % 16777216).toNat

/-! ### Loop descriptors -/

/-- The depth of a descriptor's walk (R258). -/
def ldDepth (d : Bytes) : Nat := nfld (rdLe d 4 4) 20 18

/-- The level walked at position `p`. -/
def ldLevel (d : Bytes) (p : Nat) : Nat := nfld (rdLe d 4 4) (3 * p + 2) (3 * p)

/-- The bound of level `l`. -/
def ldBound (d : Bytes) (l : Nat) : Nat := rdLe d (8 + 2 * l) 2 + 1

/-- The stride of level `l`. -/
def ldStride (d : Bytes) (l : Nat) : Int := sgn 32 (rdLe d (0x14 + 4 * l) 4)

/-- The address of a walk's step, from the base register's value and the indices (R260). -/
def walkAddr (d : Bytes) (base : W24) (idx : List Nat) : Nat :=
  addr24 ((base.toNat : Int) + (nfld (rdLe d 0 4) 23 0 : Nat) +
    ((List.range 6).map fun l => (idx.getD l 0 : Int) * ldStride d l).sum)

/-- The carry of a walk over the positions given (R260, R261). -/
def walkCarry (d : Bytes) : List Nat → List Nat → List Nat
  | [], idx => idx
  | p :: ps, idx =>
    let l := ldLevel d p
    let v := idx.getD l 0 + 1
    if v < ldBound d l then idx.set l v else walkCarry d ps (idx.set l 0)

/-- The indices after one step. -/
def walkNext (d : Bytes) (idx : List Nat) : List Nat := walkCarry d (List.range (ldDepth d)) idx

/-- The indices a walk starts with. -/
def walkStart : List Nat := List.replicate 6 0

/-- The indices after `n` steps. -/
def walkSteps (d : Bytes) : Nat → List Nat → List Nat
  | 0, idx => idx
  | n + 1, idx => walkSteps d n (walkNext d idx)

/-- The limit of a descriptor's M predicate, with the counters copied at push (R258, R265). -/
def mLimitOf (d : Bytes) (c : List W32) : Nat :=
  if nfld (rdLe d 0x31 1) 1 1 = 1 then (c.getD (nfld (rdLe d 0x32 2) 3 0) 0).toNat else rdLe d 0x32 2

/-- The M-predicate bit of a step (R260, R265). -/
def mBitOf (d : Bytes) (limit : Nat) (idx : List Nat) : Bool :=
  nfld (rdLe d 0x31 1) 0 0 == 0 || decide (idx.getD (rdLe d 0x30 1) 0 < limit)

/-- A mask count: 0 and 128 both mean 128 (R258). -/
def maskCount (n : Nat) : Nat := if n = 0 then 128 else n

/-- The K mask of a descriptor, as first and count (R264). -/
def kMaskOf (d : Bytes) : Nat × Nat := (rdLe d 0x2C 1, maskCount (rdLe d 0x2D 1))

/-- The N mask of a descriptor, as first and count (R264). -/
def nMaskOf (d : Bytes) : Nat × Nat := (rdLe d 0x2E 1, maskCount (rdLe d 0x2F 1))

/-- Bit `i` of a mask given as first and count. -/
def maskBit (m : Nat × Nat) (i : Nat) : Bool := decide (m.1 ≤ i) && decide (i < m.1 + m.2)

/-! ### Element types -/

/-- The rows one vector of an element type takes (R111). -/
def typeRows (t : Nat) : Nat :=
  match t with
  | 0 => 1
  | 1 => 2
  | 2 => 2
  | 4 => 2
  | _ => 4

/-- The 16-bit little-endian value of two bytes. -/
def le16 (bs : Bytes) (i : Nat) : Nat := rdLe bs i 2

/-- The vector that a read end makes of a vector's bytes (R111, R112, R113). -/
def readConv (t : Nat) (bs : Bytes) : Vec :=
  match t with
  | 0 => (List.range 128).map fun n => fpOfInt (sgn 8 (rdLe bs n 1))
  | 1 => (List.range 128).map fun n => fpOfInt (sgn 16 (le16 bs (2 * n)))
  | 2 => (List.range 128).map fun n => fpOfInt (256 * sgn 8 (rdLe bs (128 + n) 1) + (rdLe bs n 1 : Nat))
  | 3 => (List.range 128).map fun n => fpOfInt (sgn 32 (rdLe bs (4 * n) 4))
  | 4 => (List.range 128).map fun n => bfWiden (BitVec.ofNat 16 (le16 bs (2 * n)))
  | 5 => (List.range 256).map fun n => bfWiden (BitVec.ofNat 16 (le16 bs (2 * n)))
  | _ => (List.range 128).map fun n => fpIn (BitVec.ofNat 32 (rdLe bs (4 * n) 4))

/-- The bytes a write end makes of a vector (R111, R112). -/
def writeConv (t : Nat) (v : Vec) : Bytes :=
  let e := fun n => v.getD n 0
  match t with
  | 0 => (List.range 128).flatMap fun n => toLe 1 (code 8 (fpToInt (-128) 127 (e n)))
  | 1 => (List.range 128).flatMap fun n => toLe 2 (code 16 (fpToInt (-32768) 32767 (e n)))
  | 2 => ((List.range 128).flatMap fun n => toLe 1 (code 16 (fpToInt (-32768) 32767 (e n)) % 256)) ++
      (List.range 128).flatMap fun n => toLe 1 (code 16 (fpToInt (-32768) 32767 (e n)) / 256)
  | 3 => (List.range 128).flatMap fun n => toLe 4 (code 32 (fpToInt (-2147483648) 2147483647 (e n)))
  | 4 => (List.range 128).flatMap fun n => toLe 2 (bfRound (e n)).toNat
  | 5 => (List.range 256).flatMap fun n => toLe 2 (bfRound (e n)).toNat
  | _ => (List.range 128).flatMap fun n => toLe 4 (e n).toNat

/-- One value rounded to an element type and back (convert, R247). -/
def convertTo (t : Nat) (x : W32) : W32 :=
  match t with
  | 0 => fpOfInt (fpToInt (-128) 127 x)
  | 1 => fpOfInt (fpToInt (-32768) 32767 x)
  | 2 => fpOfInt (fpToInt (-32768) 32767 x)
  | 3 => fpOfInt (fpToInt (-2147483648) 2147483647 x)
  | 4 => bfWiden (bfRound x)
  | 5 => bfWiden (bfRound x)
  | _ => fpIn x

/-! ### Tiles and records -/

/-- The code width field of a record (R47). -/
def recWidth (r : Bytes) : Nat := nfld (rdLe r 5 1) 1 0

/-- Scratchpad rows of a tile load, which for byte mode is one plane (R74). -/
def loadRows (w : Nat) : Nat :=
  match w with
  | 0 => 32
  | 1 => 48
  | _ => 64

/-- Bytes of a whole tile (R39). -/
def tileBytes (w : Nat) : Nat :=
  match w with
  | 0 => 4096
  | 1 => 6144
  | 2 => 8192
  | _ => 16384

/-- Bits of a code, 4 for a plane of a byte-mode tile (R38, R40). -/
def codeBits (w : Nat) : Nat :=
  match w with
  | 0 => 2
  | 1 => 3
  | _ => 4

/-- Group scale `g` of a record (R47). -/
def recScale (r : Bytes) (g : Nat) : Nat := rdLe r g 1

/-- The tile exponent e_max of a record (R48). -/
def recEmax (r : Bytes) : Nat :=
  (List.range 4).foldl (fun e g => if recScale r g = 0 then e else max e (recScale r g / 8))
    (rdLe r 4 1 % 32)

/-- All four group codes are 0x00 (R54). -/
def recZero (r : Bytes) : Bool := (List.range 4).all fun g => recScale r g == 0

/-- The scaled level of a codebook level under a group scale and e_max (R49). -/
def scaledLevel (s emax : Nat) (level : Int) : Int :=
  if s = 0 then 0
  else
    let p := level * ((8 + s % 8 : Nat) : Int)
    let d := emax - s / 8
    if d ≤ 4 then p * (2 ^ (4 - d) : Nat) else if d ≤ 15 then rneShiftInt p (d - 4) else 0

/-- The levels of a built-in codebook (R42). -/
def builtinBook (i : Nat) : List Int :=
  (List.range 16).map fun (c : Nat) =>
    let s : Int := if c < 8 then c else (c : Int) - 16
    match i with
    | 61 => s
    | 62 => 16 * s
    | _ => (c : Int)

/-- The levels of codebook `i` of a context's store (R41, R42). -/
def bookOf (books : List Bytes) (i : Nat) : List Int :=
  if 61 ≤ i then builtinBook i else (List.range 16).map fun c => sgn 8 (rdLe (books.getD i []) c 1)

/-- The codebook a plane or tile uses (R43, R47). -/
def bookIndex (r : Bytes) (hi : Bool) : Nat :=
  if recWidth r = 3 then (if hi then 62 else 63) else rdLe r 6 1 % 64

/-- The scaled levels of the four groups (R49). -/
def foldLevels (r : Bytes) (book : List Int) : List (List Int) :=
  (List.range 4).map fun g =>
    (List.range (2 ^ codeBits (recWidth r))).map fun c => scaledLevel (recScale r g) (recEmax r) (book.getD c 0)

/-- Scale underflows of one fold (R51). -/
def foldUnderflows (r : Bytes) (book : List Int) : Nat :=
  ((List.range 4).map fun g =>
    ((List.range (2 ^ codeBits (recWidth r))).filter fun c =>
      recScale r g != 0 && book.getD c 0 != 0 &&
        scaledLevel (recScale r g) (recEmax r) (book.getD c 0) == 0).length).sum

/-- The code of weight (k, n) in the bytes of a tile or plane (R38). -/
def codeAt (codes : Bytes) (bits k n : Nat) : Nat :=
  let off := k * 128 * bits + n * bits
  ((rdLe codes (off / 8) 2) >>> (off % 8)) % 2 ^ bits

/-- The weight part of array row `k` and column `n`: the scaled level its code selects (R70, R71). -/
def tileLevel (t : Tile) (k n : Nat) : Int :=
  (t.levels.getD (k / 32) []).getD (codeAt t.codes (codeBits t.width) k n) 0

/-! ### Transfer descriptors -/

def tdSrcKind (d : Bytes) : Nat := rdLe d 0 1
def tdDstKind (d : Bytes) : Nat := rdLe d 1 1
def tdSrcMode (d : Bytes) : Nat := nfld (rdLe d 2 1) 1 0
def tdDstMode (d : Bytes) : Nat := nfld (rdLe d 2 1) 3 2
def tdTransform (d : Bytes) : Nat := rdLe d 3 1
def tdBlockBytes (d : Bytes) : Nat := rdLe d 4 4
def tdBlocks (d : Bytes) : Nat := rdLe d 8 4
def tdSrcIndex (d : Bytes) : Nat := rdLe d 0x0C 2
def tdDstIndex (d : Bytes) : Nat := rdLe d 0x0E 2
def tdSrcAddr (d : Bytes) : Nat := rdLe d 0x10 8
def tdDstAddr (d : Bytes) : Nat := rdLe d 0x18 8
def tdSrcBlockStride (d : Bytes) : Int := sgn 64 (rdLe d 0x20 8)
def tdDstBlockStride (d : Bytes) : Int := sgn 64 (rdLe d 0x28 8)
def tdSrcRepStride (d : Bytes) : Int := sgn 64 (rdLe d 0x30 8)
def tdDstRepStride (d : Bytes) : Int := sgn 64 (rdLe d 0x38 8)

/-- A transfer descriptor with the fields a SEND or TAG word needs: one block of 128-byte rows from
scratchpad to scratchpad (R251, R252). -/
def tdOfRows (srcLane dstLane src dst rows srcMode dstMode : Nat) : Bytes :=
  toLe 1 1 ++ toLe 1 1 ++ toLe 1 (srcMode + 4 * dstMode) ++ toLe 1 0 ++ toLe 4 (128 * rows) ++ toLe 4 1 ++
  toLe 4 0 ++ toLe 8 (src + srcLane * 2 ^ 24) ++ toLe 8 (dst + dstLane * 2 ^ 24) ++ toLe 32 0

end Sys2Proof.Machine
end

