-- ==== Sys2Proof/Machine/Flags.lean ====
section
/-!
DEFINITION. The flag computations of a core: comparator operands and conditions (R188), SYNC conditions
(R208), and the condition bits of the status registers built from state.
-/

namespace Sys2Proof.Machine

/-- Flag `i` of F0 to F63. -/
def flagOf (f : W64) (i : Nat) : Bool := f.toNat.testBit i

/-- F0 to F63 with flag `i` given a value. -/
def setFlagBit (f : W64) (i : Nat) (v : Bool) : W64 :=
  if v then f ||| (1#64 <<< i) else f &&& ~~~(1#64 <<< i)

/-- A register of a file as MOVX and the comparators read it: A zero-extended, an increment register
sign-extended (R188, R239). Files: 0 A, 1 C, 2 S, 3 increment. -/
def fileRead (t : Ctl) (file r : Nat) : W32 :=
  match file with
  | 0 => (t.a.getD r 0).setWidth 32
  | 1 => t.c.getD r 0
  | 2 => t.s.getD r 0
  | _ => (t.inc.getD r 0).signExtend 32

/-- A register of a file written as MOVX writes it: A and increment registers keep the low 24 bits. -/
def fileWrite (t : Ctl) (file r : Nat) (v : W32) : Ctl :=
  match file with
  | 0 => { t with a := t.a.set r (v.setWidth 24) }
  | 1 => { t with c := t.c.set r v }
  | 2 => { t with s := t.s.set r v }
  | _ => { t with inc := t.inc.set r (v.setWidth 24) }

/-- The four conditions of a comparator (R188). -/
def cmpHolds (cond : Nat) (x y : W32) : Bool :=
  match cond with
  | 0 => x == y
  | 1 => x != y
  | 2 => x.slt y
  | _ => x.ult y

/-- One armed comparator writes its flag (R188). -/
def cmpEval (t : Ctl) (arm : CmpArm) : Ctl :=
  let y := if arm.immSel then arm.imm.signExtend 32 else fileRead t arm.fileB arm.regB
  { t with flags := setFlagBit t.flags arm.flag (cmpHolds arm.cond (fileRead t arm.fileA arm.regA) y) }

/-- Every armed comparator evaluates in order CMP0 to CMP7 (R188). -/
def evalComparators (t : Ctl) : Ctl :=
  t.cmps.foldl (fun t' c => match c with | some a => cmpEval t' a | none => t') t

/-- The condition of a SYNC operation on the token ends and flags it names (R208). -/
def syncHolds (t : Ctl) (w : W64) : Bool :=
  let toks := (List.range 8).filter fun i => bit w (36 + i)
  let flgs := (List.range 16).filter fun j => bit w (18 + j)
  let okT := fun i => decide (0 < t.tokens.getD i 0)
  let okF := fun j => flagOf t.flags (16 * fld w 35 34 + j)
  if toks.isEmpty && flgs.isEmpty then true
  else if bit w 45 then toks.any okT || flgs.any okF
  else toks.all okT && flgs.all okF

/-- The ALU functions (R239); reserved codes leave the first source. -/
def aluFunc (f : Nat) (x y : W32) : W32 :=
  match f with
  | 0 => x + y
  | 1 => x - y
  | 2 => x &&& y
  | 3 => x ||| y
  | 4 => x ^^^ y
  | 5 => x <<< (y.toNat % 32)
  | 6 => x >>> (y.toNat % 32)
  | 7 => x.sshiftRight (y.toNat % 32)
  | 8 => x * y
  | _ => x

/-! ### Slot-0 operations -/

/-- The bundle after the one at `pc`, with the loop stack after it (R240). -/
def nextBundle : List LoopFrame → Nat → Nat × List LoopFrame
  | [], pc => (pc + 1, [])
  | f :: fs, pc =>
    if pc = f.last then
      (if 0 < f.left then (f.first, { f with left := f.left - 1 } :: fs) else nextBundle fs pc)
    else (pc + 1, f :: fs)

/-- The bundle in the buffer with an index. -/
def bundleAt (t : Ctl) (i : Nat) : Option (BitVec 256) := (t.ibuf.find? (fun p => p.1 == i)).map (·.2)

/-- SETA (R239). -/
def ctlSeta (w : W64) (t : Ctl) : Ctl := { t with a := t.a.set (fld w 45 42) (BitVec.ofNat 24 (fld w 23 0)) }

/-- SETI (R239). -/
def ctlSeti (w : W64) (t : Ctl) : Ctl := { t with inc := t.inc.set (fld w 45 42) (BitVec.ofNat 24 (fld w 23 0)) }

/-- SETC (R239). -/
def ctlSetc (w : W64) (t : Ctl) : Ctl := { t with c := t.c.set (fld w 45 42) (BitVec.ofNat 32 (fld w 31 0)) }

/-- SETS (R239). -/
def ctlSets (w : W64) (t : Ctl) : Ctl := { t with s := t.s.set (fld w 45 42) (BitVec.ofNat 32 (fld w 31 0)) }

/-- ADDA (R187, R239). -/
def ctlAdda (w : W64) (t : Ctl) : Ctl :=
  { t with a := t.a.set (fld w 45 42) (t.a.getD (fld w 41 38) 0 + BitVec.ofNat 24 (fld w 23 0)) }

/-- STEPA (R239): every named register at once. -/
def ctlStepa (w : W64) (t : Ctl) : Ctl :=
  { t with a := t.a.zipIdx.map fun p => if bit w p.2 then p.1 + t.inc.getD p.2 0 else p.1 }

/-- ALU (R239). -/
def ctlAlu (w : W64) (t : Ctl) : Ctl :=
  let file := if bit w 45 then 2 else 1
  let y := if bit w 27 then (BitVec.ofNat 16 (fld w 15 0)).signExtend 32 else fileRead t file (fld w 35 32)
  fileWrite t file (fld w 43 40) (aluFunc (fld w 31 28) (fileRead t file (fld w 39 36)) y)

/-- MOVX (R239). -/
def ctlMovx (w : W64) (t : Ctl) : Ctl :=
  fileWrite t (fld w 45 44) (fld w 43 40) (fileRead t (fld w 39 38) (fld w 37 34))

/-- CMP (R188, R239): arms or disarms a comparator. -/
def ctlCmp (w : W64) (t : Ctl) : Ctl :=
  let arm : CmpArm :=
    { cond := fld w 41 40, fileA := fld w 39 38, regA := fld w 37 34, immSel := bit w 33, fileB := fld w 32 31
      regB := fld w 30 27, flag := fld w 26 21, imm := BitVec.ofNat 16 (fld w 15 0) }
  { t with cmps := t.cmps.set (fld w 45 43) (if bit w 42 then some arm else none) }

/-- FLAG (R239). -/
def ctlFlag (w : W64) (t : Ctl) : Ctl := { t with flags := setFlagBit t.flags (fld w 45 40) (bit w 39) }

/-- The token ends a released SYNC pops: those it names that hold a token (R208). -/
def syncPops (t : Ctl) (w : W64) : List Nat := (List.range 8).filter fun i => bit w (36 + i) && decide (0 < t.tokens.getD i 0)

/-- The flags a released SYNC leaves: with its clear option those it names are cleared (R208). -/
def syncFlags (t : Ctl) (w : W64) : W64 :=
  if bit w 44 then
    (List.range 16).foldl (fun f j => if bit w (18 + j) then setFlagBit f (16 * fld w 35 34 + j) false else f) t.flags
  else t.flags

/-- The slot-0 operations that change only registers, comparators and flags (R239). -/
def plainOp (w : W64) (t : Ctl) : Ctl :=
  match opOf w with
  | 0x01 => ctlSeta w t
  | 0x02 => ctlSeti w t
  | 0x03 => ctlSetc w t
  | 0x04 => ctlSets w t
  | 0x05 => ctlAdda w t
  | 0x06 => ctlStepa w t
  | 0x07 => ctlAlu w t
  | 0x08 => ctlMovx w t
  | 0x12 => ctlCmp w t
  | 0x13 => ctlFlag w t
  | _ => t

/-- The iterations of a LOOP operation (R190, R240). -/
def loopCount (t : Ctl) (w : W64) : Nat := if bit w 45 then (t.c.getD (fld w 36 33) 0).toNat else fld w 44 33 + 1

/-- The bundle after a LOOP and the loop stack then (R190, R240). -/
def loopNext (t : Ctl) (w : W64) : Nat × List LoopFrame :=
  let last := t.pc + 1 + fld w 9 0
  if loopCount t w = 0 then nextBundle t.loops last else (t.pc + 1, ⟨t.pc + 1, last, loopCount t w - 1⟩ :: t.loops)

/-- The bundle after a BREAK and the loop stack then (R190, R239). -/
def breakNext (t : Ctl) (w : W64) : Nat × List LoopFrame :=
  match (if flagOf t.flags (fld w 45 40) = bit w 39 then t.loops else []) with
  | f :: fs => nextBundle fs f.last
  | [] => nextBundle t.loops t.pc

/-- The bundle that follows a slot-0 operation and the loop stack then. -/
def afterOp (t : Ctl) (w : W64) : Nat × List LoopFrame :=
  if opOf w = 0x10 then loopNext t w else if opOf w = 0x11 then breakNext t w else nextBundle t.loops t.pc

end Sys2Proof.Machine
end

