-- ==== Sys2Proof/Machine/Ops.lean ====
section
/-!
DEFINITION. The named operations over memories, tags, cores and the error log that every meaning uses:
sparse memories in canonical form, page tags (R150 to R156), error correction (R163 to R167), scheduled accesses with
their holds, conflicts and errors (R145, R154, R155, R167), stopping a core (R211), the order of events in a core (R195,
R199, R200), and the error log (R590, R591).
-/

namespace Sys2Proof.Machine

/-! ### Sparse memories -/

/-- The byte at an address, `dflt` for one not listed. -/
def memByte (m : Mem) (dflt : Nat → Byte) (a : Nat) : Byte :=
  match m.find? (fun p => p.1 == a) with
  | some p => p.2
  | none => dflt a

/-- `len` bytes from an address. -/
def memRead (m : Mem) (dflt : Nat → Byte) (a len : Nat) : Bytes :=
  (List.range len).map fun i => memByte m dflt (a + i)

/-- The entries that bytes from an address make: those that differ from what the address reads as. -/
def memEntries (dflt : Nat → Option Byte) : Nat → Bytes → Mem
  | _, [] => []
  | a, b :: bs => if dflt a = some b then memEntries dflt (a + 1) bs else (a, b) :: memEntries dflt (a + 1) bs

/-- A memory with bytes written from an address, in canonical form. `dflt` is what an unlisted address
reads as; `none` where that is a free value, and then every written byte is listed. -/
def memWrite (m : Mem) (dflt : Nat → Option Byte) (a : Nat) (bs : Bytes) : Mem :=
  m.takeWhile (fun p => decide (p.1 < a)) ++ memEntries dflt a bs ++
    m.dropWhile (fun p => decide (p.1 < a + bs.length))

/-- A memory without the listed bytes of a range. -/
def memDrop (m : Mem) (a len : Nat) : Mem := m.filter fun p => decide (p.1 < a) || decide (a + len ≤ p.1)

/-- Addresses strictly rising. -/
def memSorted : Mem → Bool
  | [] => true
  | [_] => true
  | p :: q :: m => decide (p.1 < q.1) && memSorted (q :: m)

/-- The canonical form: addresses strictly rising, no entry equal to what its address reads as unlisted. -/
def memWf (dflt : Nat → Option Byte) (m : Mem) : Bool :=
  memSorted m && m.all fun p => decide (dflt p.1 ≠ some p.2)

/-- An unlisted byte reads 0. -/
def zeroDflt : Nat → Option Byte := fun _ => some 0

/-! ### Scratchpad data and tags -/

/-- Core-local address of the first byte of a row (R140). -/
def rowAddr (page bank : Nat) : Nat := page * 4096 + bank * 128

/-- The page of a core-local address (R26). -/
def pageOf (a : Nat) : Nat := a / 4096 % 4096

/-- The bank of a core-local address (R26). -/
def bankOf (a : Nat) : Nat := a / 128 % 32

/-- The epoch since which a page's contents are undefined, if they are (R172). -/
def undefEpoch (sp : Sp) (page : Nat) : Option Nat := (sp.undef.find? (fun p => p.1 == page)).map (·.2)

/-- What an unlisted byte of a core's scratchpad reads as. -/
def spDflt (sp : Sp) (a : Nat) : Byte :=
  match undefEpoch sp (pageOf a) with
  | some e => Config.freeByte e a
  | none => 0

/-- The same for writes: a free value is never compared with. -/
def spWDflt (sp : Sp) (a : Nat) : Option Byte :=
  match undefEpoch sp (pageOf a) with
  | some _ => none
  | none => some 0

/-- `len` bytes of scratchpad from a core-local address, wrapping at 2^24 (R187). -/
def spRead (sp : Sp) (a len : Nat) : Bytes :=
  (List.range len).map fun i => memByte sp.cells (spDflt sp) ((a + i) % 16777216)

/-- The number of a row: 32 times its page, plus its bank. -/
def rowNo (page bank : Nat) : Nat := 32 * page + bank

/-- The row a core-local address lies in. -/
def rowOf (a : Nat) : Nat := rowNo (pageOf a) (bankOf a)

/-- The tag of a page (R150). -/
def tagOf (sp : Sp) (page : Nat) : Byte := memByte sp.tags (fun _ => 0) page

/-- The tag store with one tag written. -/
def setTag (sp : Sp) (page : Nat) (t : Byte) : Sp := { sp with tags := memWrite sp.tags zeroDflt page [t] }

/-- The state field: 0 EMPTY, 1 FULL, 2 LOCKED, 3 POISON (R150). -/
def tagState (t : Byte) : Nat := t.toNat % 4

/-- Class W (R150). -/
def tagClassW (t : Byte) : Bool := t.toNat.testBit 2

/-- Pinned (R150). -/
def tagPinned (t : Byte) : Bool := t.toNat.testBit 5

/-- A row's check bits written anew under its page's class (R163, R164): no bit of it is wrong. -/
def recode (sp : Sp) (row : Nat) : Sp :=
  { sp with
    flips := sp.flips.filter fun p => p.1 != row
    coded := if tagClassW (tagOf sp (row / 32)) then (if sp.coded.contains row then sp.coded else row :: sp.coded)
      else sp.coded.filter fun r => r != row }

/-- Scratchpad with bytes written within one row, whose check bits are written with them (R143). -/
def spWrite (sp : Sp) (a : Nat) (bs : Bytes) : Sp :=
  { recode sp (rowOf a) with
    cells := memWrite sp.cells (spWDflt sp) a bs
    written := if sp.written.contains (pageOf a) then sp.written else pageOf a :: sp.written }

/-- Scratchpad with the rows of a vector written, row by row (R111). -/
def spWriteRows (sp : Sp) (a : Nat) : List Bytes → Sp
  | [] => sp
  | r :: rs => spWriteRows (spWrite sp (a % 16777216) r) (a + 128) rs

/-- The parts of some bytes that lie in one row each, with their addresses. -/
def rowParts (a : Nat) (bs : Bytes) : List (Nat × Bytes) :=
  (List.range ((a % 128 + bs.length + 127) / 128)).map fun i =>
    let lo := max a (a - a % 128 + 128 * i)
    (lo % 16777216, slice bs (lo - a) (a - a % 128 + 128 * (i + 1) - lo))

/-- Scratchpad with bytes written over any range, row by row. -/
def spWriteRange (sp : Sp) (a : Nat) (bs : Bytes) : Sp := (rowParts a bs).foldl (fun s p => spWrite s p.1 p.2) sp

/-- Bytes cut into rows of 128. -/
def cutRows (bs : Bytes) : List Bytes := (List.range (bs.length / 128)).map fun i => slice bs (128 * i) 128

/-- A page written with zero data and class A check bits (R171, R173). -/
def spZeroPage (sp : Sp) (page : Nat) : Sp :=
  { sp with
    cells := sp.cells.filter fun p => pageOf p.1 != page
    undef := sp.undef.filter fun p => p.1 != page
    flips := sp.flips.filter fun p => p.1 / 32 != page
    coded := sp.coded.filter fun r => r / 32 != page
    written := sp.written.filter fun p => p != page }

/-- A tag with its state field replaced. -/
def tagWith (t : Byte) (st : Nat) : Byte := BitVec.ofNat 8 (setFld t.toNat 1 0 st)

/-- What a commit marker makes of a tag (R153). -/
def commitTag (t : Byte) : Byte :=
  if tagState t = 0 then BitVec.ofNat 8 (setFld (setFld t.toNat 1 0 1) 4 3 (nfld t.toNat 4 3 + 1)) else t

/-- What a release marker makes of a tag (R153). -/
def releaseTag (t : Byte) : Byte := if tagState t = 1 ∧ ¬ tagPinned t then tagWith t 0 else t

/-- The scratchpad with the tags of some pages mapped. -/
def mapTags (sp : Sp) (f : Byte → Byte) (pages : List Nat) : Sp :=
  pages.foldl (fun s p => setTag s p (f (tagOf s p))) sp

/-- A page's tag set POISON (R153). -/
def poisonPage (sp : Sp) (page : Nat) : Sp := setTag sp page (tagWith (tagOf sp page) 3)

/-- The pages a lane owns (R617). -/
def ownsPage (low high page : Nat) : Bool := decide (page < low) || decide (4096 ≤ page + high ∧ page < 4096)

/-- The context's pages on a core that a batch start or failure acts on, in order. -/
def ownedPages (low high : Nat) : List Nat :=
  List.range (min low 4096) ++ (List.range (min high 4096)).map fun i => 4096 - min high 4096 + i

/-- A scheduled or unscheduled access of a page with this tag may take place (R154). -/
def tagPermits (write : Bool) (t : Byte) : Bool := tagState t == if write then 0 else 1

/-! ### Cores: registers of faults, stops and holds -/

/-- The program bank of the context a core runs (R257). -/
def bankOfCtx (c : Core) : ProgBank :=
  match c.banks.find? (fun b => some b.ctx == c.ctx) with
  | some b => b
  | none => ⟨16, [], [], [], []⟩

/-- The declared maximum of a manifest slot (R191, R231). -/
def declaredMax (c : Core) (slot : Nat) : Nat :=
  match (bankOfCtx c).manifest.find? (fun e => e.1 == slot) with
  | some e => e.2.2
  | none => 0

/-- A waiting cause holds the core (R202, R203). -/
def waitHeld (c : Core) : Bool := !c.hold.pages.isEmpty || !c.hold.tokens.isEmpty || c.hold.late

/-- The lowest-coded cause that holds the core, 0 for none (R202, R203). -/
def holdCause (c : Core) : Nat :=
  if !c.hold.pages.isEmpty then 1
  else if !c.hold.tokens.isEmpty then 2
  else if c.hold.late then 3
  else if 0 < c.hold.eccLeft then 4 else 0

/-- Cycles added to a 32-bit counter that stops at its maximum. -/
def addCount (v : W32) (n : Nat) : W32 := BitVec.ofNat 32 (satAdd 32 v.toNat n)

/-- Held cycles counted under the cause that holds the core, and in a SYNC wait that has begun (R203, R204, R222). -/
def countHeld (c : Core) (n : Nat) : Core :=
  let r := c.regs
  let r' := match holdCause c with
    | 1 => { r with holdTag := addCount r.holdTag n }
    | 2 => { r with holdToken := addCount r.holdToken n }
    | 3 => { r with holdLate := addCount r.holdLate n }
    | 4 => { r with holdEcc := addCount r.holdEcc n }
    | _ => r
  { c with regs := r', hold := { c.hold with
    watch := c.hold.watch + n
    syncWatch := if c.ctl.syncWait && decide (c.ctl.sectionBase + c.ctl.offset ≤ c.ctl.cycle) then
      c.hold.syncWatch + n else c.hold.syncWatch } }

/-- The watchdog limit (R204, R220). -/
def wdtLimit (c : Core) : Nat := 2 ^ max 10 (min 24 c.regs.holdWdt.toNat)

/-- A statistics window closes: the live counts become the snapshot (R132). -/
def closeWindow (v : Vx) : Vx := { v with snap := v.live, live := ⟨0, 0, 0, 0⟩, seq := v.seq + 1, closing := false }

/-- A hold or SYNC wait that a stop cuts short is counted up to the stop (R204, R222). How long a waiting cause had
held the core by then is time the model does not carry: a free value (assumption 21). -/
def countCut (c : Core) : Core :=
  let c1 := if waitHeld c then countHeld c (Config.cutHold c.ctl.cycle c.hold.bundle c.hold.watch) else c
  if c1.ctl.syncWait then
    { c1 with
      regs := { c1.regs with
        syncWaitCycles := addCount c1.regs.syncWaitCycles
          (c1.hold.syncWatch + (c1.ctl.cycle - (c1.ctl.sectionBase + c1.ctl.offset))) }
      ctl := { c1.ctl with syncWait := false } }
  else c1

/-- A core stops (R211): no word issues, the control core stops, the queues are discarded. Rows and vectors
issued before the stopping cycle complete, and of a drain the entries read before it; on a hold timeout
(`abandon`) they do not. DESIGN CHOICE (assumption 52): a tile load, plane reload or parameter load still in progress
is abandoned uncounted and leaves its register or bank as empty. -/
def stopCore (c0 : Core) (abandon : Bool) : Core :=
  let c := countCut c0
  let drains := c.vx.drains.filterMap fun d =>
    if d.i < min d.m d.entries.length then some { d with m := min d.m d.entries.length } else none
  { c with
    regs := { c.regs with stopped := true, seqActive := false }
    ctl := { c.ctl with pushed := 0 }
    hold := .none
    mq := []
    vq := []
    movq := []
    seq := none
    mx := { c.mx with
      run := none
      loading := none
      flight := if abandon then [] else c.mx.flight }
    vx := { c.vx with
      runs := []
      p0 := if c.vx.bias.any (fun b => b.bank != 1) then { c.vx.p0 with ready := false } else c.vx.p0
      p1 := if c.vx.bias.any (fun b => b.bank == 1) then { c.vx.p1 with ready := false } else c.vx.p1
      bias := none
      results := if abandon then [] else c.vx.results
      drains := if abandon then [] else drains } }

/-- A report to the error log (R591). -/
def report (c : Core) (r : Report) : Core := { c with reports := c.reports ++ [r] }

/-- A control-core fault: the first is recorded (R216, R217); the core stops. -/
def ccStop (c : Core) (errCode cause queue detail bundle : Nat) (abandon : Bool) : Core :=
  let v := BitVec.ofNat 32 (cause * 2 ^ 28 + queue * 2 ^ 26 + detail)
  let r := c.regs
  let r' := if r.ccFault = 0 then { r with ccFault := v, ccFaultBundle := BitVec.ofNat 32 bundle } else r
  let c1 := report { c with regs := { r' with fault := true } } ⟨1, 4, errCode, 0xFF, bundle, 0, v.toNat⟩
  stopCore c1 abandon

/-- A matrix-engine fault recorded in MX_FAULT (R103, R105, R106). -/
def mxRecord (c : Core) (cause pass acc detail bundle : Nat) : Core :=
  let v := BitVec.ofNat 32 (cause * 2 ^ 28 + pass * 2 ^ 26 + acc * 2 ^ 14 + detail)
  let m := c.mx
  let m' := if m.mxFault = 0 then { m with mxFault := v, mxFaultBundle := BitVec.ofNat 32 bundle } else m
  { c with mx := { m' with fault := true } }

/-- A matrix-engine fault: recorded, reported, and the core stops. -/
def mxStop (c : Core) (errCode cause pass acc detail bundle : Nat) : Core :=
  let c1 := mxRecord c cause pass acc detail bundle
  stopCore (report c1 ⟨1, 1, errCode, 0xFF, bundle, 0, c1.mx.mxFault.toNat⟩) false

/-- A vector-engine fault recorded in VX_FAULT (R135). -/
def vxRecord (c : Core) (cause detail bundle : Nat) : Core :=
  let v := BitVec.ofNat 32 (cause * 2 ^ 28 + (bundle % 2 ^ 20) * 2 ^ 8 + detail)
  { c with vx := { c.vx with vxFault := if c.vx.vxFault = 0 then v else c.vx.vxFault, fault := true } }

/-- A vector-engine fault: recorded, reported, and the core stops. -/
def vxStop (c : Core) (errCode cause detail bundle : Nat) : Core :=
  let c1 := vxRecord c cause detail bundle
  stopCore (report c1 ⟨1, 2, errCode, 0xFF, bundle, 0, c1.vx.vxFault.toNat⟩) false

/-- A scratchpad fault recorded in SP_FAULT (R178, R179). -/
def spRecord (c : Core) (cause later earlier bank page bundle : Nat) : Core :=
  let v := BitVec.ofNat 32 (cause * 2 ^ 28 + later * 2 ^ 25 + earlier * 2 ^ 22 + bank * 2 ^ 17 + page)
  let s := c.sp
  let s' := if s.spFault = 0 then { s with spFault := v, spFaultBundle := BitVec.ofNat 32 bundle } else s
  { c with sp := { s' with fault := true } }

/-- The fault register of an engine: unit 1 the matrix engine, 2 the vector engine, otherwise the scratchpad
(R591). -/
def unitFault (c : Core) (unit : Nat) : Nat :=
  if unit = 1 then c.mx.mxFault.toNat else if unit = 2 then c.vx.vxFault.toNat else c.sp.spFault.toNat

/-- A scratchpad fault: recorded, reported by unit `unit`, and the core stops. A fault an engine records in its
own register is reported by that engine (DEDUCED, assumption 49). -/
def spStop (c : Core) (unit errCode cause later earlier bank page bundle : Nat) : Core :=
  let c1 := spRecord c cause later earlier bank page bundle
  stopCore (report c1 ⟨1, unit, errCode, bank, bundle, page, unitFault c1 unit⟩) false

/-! ### The order of events in a core -/

/-- Twice the cycle an event of a core happens in, plus 1 when it happens at the cycle's end. -/
def atCycle (t : Nat) : Nat := 2 * t

/-- See `atCycle`. -/
def atEnd (t : Nat) : Nat := 2 * t + 1

/-- Extra latency of a drain's activation function (R126). -/
def actLatency (a : Nat) : Nat :=
  match a with
  | 0 => 0
  | 4 => 8
  | 5 => 8
  | 6 => 12
  | 7 => 28
  | _ => 1

/-- A destination code names a loop-back queue (R246). -/
def isLb (dst : Nat) : Bool := decide (4 ≤ dst ∧ dst ≤ 7)

/-- A destination code names a write end (R246). -/
def isWe (dst : Nat) : Bool := decide (dst = 1 ∨ dst = 2)

/-- A result with a destination of each kind still to be served is pushed at the end of the cycle before its write
(R115). -/
def splitRes (r : VRes) : Bool := (isLb r.dst0 || isLb r.dst1) && (isWe r.dst0 || isWe r.dst1)

/-- When a result in flight lands: a loop-back push at the end of the cycle before a write end writes
(R115). -/
def resKey (r : VRes) : Nat := if isWe r.dst0 || isWe r.dst1 then atCycle r.due else atEnd (r.due - 1)

/-- When the next entry of a drain is counted (R125, R132). -/
def drainKey (d : DrainState) : Nat := atEnd (d.t + d.i + 14 + actLatency d.act)

/-- When the next entry of a drain leaves it by command: it is written in the cycle after it is counted, or counted (R125). -/
def drainOutKey (d : DrainState) : Nat := if isWe d.dst then drainKey d + 1 else drainKey d

/-- Issue distance of a running vector word's vectors: 2 for a function word in pair form (R116). -/
def vecStep (q : QWord) : Nat :=
  if classOf q.word = 1 ∧ (fld q.word 28 26 = 5 ∨ fld q.word 25 23 = 5) then 2 else 1

/-- When the next vector of a running word issues (R115, R116). -/
def vrunKey (r : VRun) : Nat := atCycle (r.t + r.i * vecStep r.word)

/-- When a run in progress does its next thing: open its pass, or issue its next row (R81). -/
def runKey (r : RunState) : Nat := if r.opened then atCycle (r.opens + 1 + r.row) else atCycle r.opens

/-- When a tile load's last row has arrived (R74). -/
def loadKey (l : TileLoad) : Nat := atEnd (l.start + l.rows - 1)

/-- When a SYNC that is released exactly at its nominal cycle is released: before the words of that cycle, which a bundle
not yet processed then holds (R199, R208). -/
def syncKeys (c : Core) : List Nat :=
  if c.ctl.syncWait && c.ctl.syncExact then [atCycle (c.ctl.sectionBase + c.ctl.offset) - 1] else []

/-- The lane's engines hold nothing in flight (R242, R277, R297). -/
def pipesEmpty (c : Core) : Bool :=
  c.mq.isEmpty && c.vq.isEmpty && c.movq.isEmpty && c.mx.run.isNone && c.mx.flight.isEmpty && c.vx.runs.isEmpty &&
    c.vx.results.isEmpty && c.vx.drains.isEmpty

/-- The cycle of a macro's first word (R277): its bundle's issue cycle or, when later, the first in which every word pushed
before has issued and nothing is in flight. DEDUCED (assumption 21): a tile load on the weight-load port ends first. -/
def macroFirst (c : Core) (ms : MacroState) : Nat := max ms.cycle c.workEnd

/-- See `coreKeys`: the start of a macro whose first cycle is settled. -/
def macroKeys (c : Core) : List Nat :=
  match c.seq with
  | some ms => if !ms.started && pipesEmpty c && c.mx.loading.isNone then [atCycle (macroFirst c ms)] else []
  | none => []

/-- The keys of everything the core has still to do by command (R195): the engines' words and events, and a SYNC
release that is due at its nominal cycle. -/
def coreKeys (c : Core) : List Nat :=
  (c.mq.take 1).map (fun q => atCycle q.cycle) ++ (c.vq.take 1).map (fun q => atCycle q.cycle) ++
  (c.movq.take 1).map (fun q => atCycle q.cycle) ++ c.mx.run.toList.map runKey ++
  c.mx.loading.toList.map loadKey ++ c.mx.flight.map (fun f => atEnd f.commit) ++
  c.vx.runs.map vrunKey ++ c.vx.results.map resKey ++ c.vx.drains.map drainOutKey ++
  macroKeys c ++ syncKeys c

/-- No event of the core comes before the one with this key. -/
def isNext (c : Core) (key : Nat) : Bool := (coreKeys c).all fun k => decide (key ≤ k)

/-- The issue cycle of the bundle the control core has to process next, while it is at work (R194, R199). -/
def nextBundleCycle (c : Core) : Option Nat :=
  if c.started && !c.regs.stopped && !c.ctl.ended && !c.ctl.syncWait && !c.regs.halting && c.seq.isNone then
    some (c.ctl.sectionBase + c.ctl.offset)
  else none

/-- The counter would pass a bundle not yet processed (R199). -/
def lateAt (c : Core) (cycle : Nat) : Bool :=
  match nextBundleCycle c with
  | some o => decide (o ≤ cycle)
  | none => false

/-- An unscheduled request is ready: its page permits it, or answers it with an error (R148, R154). -/
def reqReady (sp : Sp) (r : Req) : Bool :=
  (tagState (tagOf sp (pageOf r.addr)) == if r.write then 0 else 1) || tagState (tagOf sp (pageOf r.addr)) == 3

/-- Requests found ready are noted with the counter's value (R149). -/
def noteReady (sp : Sp) (cycle : Nat) : Sp :=
  { sp with reqs := sp.reqs.map fun r => if r.ready.isNone && reqReady sp r then { r with ready := some cycle } else r }

/-- The markers of the cycle take effect (R152). -/
def applyMarks (sp : Sp) : Sp :=
  { sp.marks.foldl (fun s m => setTag s m.1 (if m.2 then commitTag (tagOf s m.1) else releaseTag (tagOf s m.1))) sp with marks := [] }

/-- The end of the counter's cycle: markers take effect (R152), and a statistics window that a word of the cycle closes
has ended (R132). -/
def endCycle (c : Core) : Core :=
  let v := if c.vx.closing then closeWindow c.vx else c.vx
  { c with sp := applyMarks c.sp, vx := v }

/-- The counter moved to a cycle: the one it leaves has ended, and the cycles in which the array issued no row are
counted (R108, R193). -/
def advanceTo (c0 : Core) (cycle : Nat) : Core :=
  if cycle ≤ c0.ctl.cycle then c0
  else
    let c := endCycle c0
    let idle := cycle - c.ctl.cycle - if c.mx.idleMark = c.ctl.cycle + 1 then 1 else 0
    { c with
      ctl := { c.ctl with cycle := cycle }
      sp := { noteReady c.sp c.ctl.cycle with busy := [], used := [] }
      mx := { c.mx with
        idleCount := c.mx.idleCount + BitVec.ofNat 64 (idle - c.mx.ahead)
        ahead := c.mx.ahead - idle } }

/-! ### Error correction -/

/-- What the error check of a row finds (R163): 0 nothing, 1 errors it corrects, 2 uncorrectable ones. More wrong bits
in a word than its code detects, or check bits of the other class's code (R164), give a free outcome, and the answer's
second part says so. -/
def rowCheckOf (sp : Sp) (page bank : Nat) : Nat × Bool :=
  let row := rowNo page bank
  let w := tagClassW (tagOf sp page)
  let wrong := (sp.flips.filter fun p => p.1 == row).map (·.2)
  let words := if w then 2 else 4
  let counts := (List.range words).map fun i =>
    (wrong.filter fun b => (if b < 1024 then b / (1024 / words) else (b - 1024) / (if w then 21 else 10)) == i).length
  let fix := if w then 2 else 1
  if sp.coded.contains row != w || counts.any (fun n => decide (fix + 1 < n)) then ((Config.eccBeyond row wrong).toNat % 3, true)
  else (if counts.any fun n => decide (fix < n) then 2 else if counts.any fun n => decide (0 < n) then 1 else 0, false)

/-- What the error check of a row finds. -/
def rowCheck (sp : Sp) (page bank : Nat) : Nat := (rowCheckOf sp page bank).1

/-- The data that a free outcome of the check delivers: free values. -/
def scramble (sp : Sp) (page bank : Nat) : Sp :=
  if (rowCheckOf sp page bank).2 && rowCheck sp page bank != 2 then
    { sp with
      cells := memWrite sp.cells (spWDflt sp) (rowAddr page bank)
        ((List.range 128).map (Config.eccByte (rowNo page bank))) }
  else sp

/-- Bits of the scratchpad change wrongly: each named bit is wrong where it was right, and right where it was wrong
(R163). -/
def flipBits (sp : Sp) (flips : Flips) : Sp :=
  { sp with flips := flips.foldl (fun fs p => if fs.contains p then fs.filter (· != p) else fs ++ [p]) sp.flips }

/-- A core whose scratchpad bits have changed wrongly. -/
def flipCore (flips : Flips) (c : Core) : Core := { c with sp := flipBits c.sp flips }

/-- A class field of ECC_CORRECTED or ECC_UNCORRECTED, `n` bits wide, counted: class W in the high half (R182, R183). -/
def countClass (n v : Nat) (w : Bool) : Nat :=
  if w then satAdd n (v / 2 ^ n) 1 * 2 ^ n + v % 2 ^ n else v / 2 ^ n * 2 ^ n + satAdd n (v % 2 ^ n) 1

/-- An error corrected in a row: counted, logged, and queued for write-back (R165, R166, R182, R184). -/
def eccCorrect (c : Core) (page bank bundle : Nat) (scrub : Bool) : Core :=
  let w := tagClassW (tagOf c.sp page)
  let last := (if w then 2 ^ 30 else 0) + (if scrub then 2 ^ 29 else 0) + bank * 2 ^ 12 + page
  report { c with sp := { c.sp with
    eccCorrected := BitVec.ofNat 64 (countClass 32 c.sp.eccCorrected.toNat w)
    eccLast := BitVec.ofNat 32 last
    corr := c.sp.corr.filter (fun r => !(r.page == page && r.bank == bank)) ++ [⟨page, bank, c.ctl.cycle⟩] } }
    ⟨0, 3, 0x0210, bank, bundle, page, 0⟩

/-- An uncorrectable error in a row: the page is POISON, the error counted (R153, R167, R183, R184). -/
def eccFail (c : Core) (page bank : Nat) (w scrub : Bool) : Core :=
  let last := 2 ^ 31 + (if w then 2 ^ 30 else 0) + (if scrub then 2 ^ 29 else 0) + bank * 2 ^ 12 + page
  let sp := poisonPage c.sp page
  { c with sp := { sp with
    errPages := page :: sp.errPages.filter (· != page)
    eccUncorrected := BitVec.ofNat 32 (countClass 16 c.sp.eccUncorrected.toNat w)
    eccLast := BitVec.ofNat 32 last } }

/-- What the error check of rows finds: those corrected, and those uncorrectable. -/
def checkRows (sp : Sp) (rows : List (Nat × Nat)) : List (Nat × Nat) × List (Nat × Nat) :=
  (rows.eraseDups.filter fun r => rowCheck sp r.1 r.2 == 1, rows.eraseDups.filter fun r => rowCheck sp r.1 r.2 == 2)

/-- The corrections and failures of an access entered (R165 to R167). -/
def noteChecks (c : Core) (rows : List (Nat × Nat)) (bundle : Nat) (scrub : Bool) : Core :=
  let found := checkRows c.sp rows
  let c0 := { c with sp := rows.eraseDups.foldl (fun s r => scramble s r.1 r.2) c.sp }
  let c1 := found.1.foldl (fun x r => eccCorrect x r.1 r.2 bundle scrub) c0
  found.2.foldl (fun x r => eccFail x r.1 r.2 (tagClassW (tagOf c.sp r.1)) scrub) c1

/-- Three held cycles for each access that corrected an error, whatever the number of its rows (R165, R203). -/
def eccHold (c : Core) (n : Nat) : Core := { c with hold := { c.hold with eccLeft := c.hold.eccLeft + 3 * n } }

/-- Pending write-backs are dropped when their rows are written (R165). -/
def dropCorr (sp : Sp) (rows : List (Nat × Nat)) : Sp :=
  { sp with corr := sp.corr.filter fun r => !rows.contains (r.page, r.bank) }

/-! ### Scheduled accesses -/

/-- The rows of an access of `n` rows from an address, as (page, bank) (R141). -/
def accRows (a n : Nat) : List (Nat × Nat) :=
  (List.range n).map fun i => (pageOf ((a + 128 * i) % 16777216), bankOf (a + 128 * i))

/-- The pages an access touches, each once. -/
def accPages (rows : List (Nat × Nat)) : List Nat := (rows.map (·.1)).eraseDups

/-- The pages a page-exit marker applies to: those the next access does not touch, or all when there is no
next access (R152, R234). -/
def exitPages (pages : List Nat) (next : Option (List Nat)) : List Nat :=
  match next with
  | some ps => pages.filter fun p => !ps.contains p
  | none => pages

/-- The pages the marker of a mode applies to (R233, R234): 0 none, 1 at page exit, 2 on every row. -/
def markPages (mode : Nat) (pages : List Nat) (next : Option (List Nat)) : List Nat :=
  match mode with
  | 1 => exitPages pages next
  | 2 => pages
  | _ => []

/-- The pages of an access that do not permit it now (R154). -/
def accRefused (c : Core) (write : Bool) (pages : List Nat) : List Nat :=
  pages.filter fun p => !tagPermits write (tagOf c.sp p)

/-- The bytes of a vector or row at an address; free values when it does not start on a row boundary, which
R111 forbids and nothing checks. -/
def vecBytes (c : Core) (a len : Nat) : Bytes :=
  if a % 128 = 0 then spRead c.sp a len else (List.range len).map (Config.unaligned a c.ctl.cycle)

/-- One scheduled access of an event: who makes it, its rows, the pages its marker applies to, and the number of its
first row, which a fault records (R105). -/
structure Acc where
  port : SpUser
  rows : List (Nat × Nat)
  mark : List Nat
  first : Nat
deriving DecidableEq, Repr

/-- What one event of a cycle comes to: it takes place; it holds the core on pages (with whether it waits to write them)
or token ends; or it stops the core, for a fault of a unit (R591), with the effect given on the core as the cycle
began. -/
inductive Try where
  | go (c : Core)
  | wait (pages : List (Nat × Bool)) (tokens : List Nat) (bundle : Nat)
  | stop (unit : Nat) (f : Core → Core)

/-- The engine that uses a port: 1 the matrix engine, 2 the vector engine (R144). -/
def portUnit (p : SpUser) : Nat := if p.code ≤ 1 then 1 else 2

/-- The stop of a scheduled access that meets an uncorrectable error or a POISON page (R79, R103, R135, R167): the
weight-load port's leaves the shadow register empty, and a read end's is recorded in VX_FAULT. -/
def poisonStop (c : Core) (p : SpUser) (page bank row : Nat) : Core :=
  let w := tagClassW (tagOf c.sp page) || p.code == 1
  let c1 := if p.code = 1 then
      mxRecord { c with mx := { c.mx with shadow := none, loading := none } } 5 p.pass p.acc row p.bundle
    else if 2 ≤ p.code ∧ p.code ≤ 5 then vxRecord c 6 bank p.bundle else c
  let unit := if p.code = 1 then 1 else if 2 ≤ p.code ∧ p.code ≤ 5 then 2 else 3
  if w then spStop c1 unit 0x0105 5 p.code 0 bank page p.bundle else spStop c1 unit 0x0106 6 p.code 0 bank page p.bundle

/-- A bank conflict stops the core (R145, R146): the later access is that of the word issued later, or of
the higher port when both issued in one cycle; of one load word's two accesses, `a` is the earlier. -/
def conflictStop (c : Core) (bank : Nat) (a b : SpUser) : Core :=
  let mine := decide (a.wcycle < b.wcycle) || (a.wcycle == b.wcycle && decide (a.code ≤ b.code))
  let later := if mine then b else a
  let earlier := if mine then a else b
  let c1 := if later.code ≤ 1 then mxRecord c 4 later.pass later.acc bank later.bundle
    else vxRecord c 4 bank later.bundle
  spStop c1 (portUnit later) 0x0104 4 later.code earlier.code bank 0 later.bundle

/-- The first conflict of accesses with those of the cycle so far and among themselves (R145): the bank, the earlier
made and the other. -/
def findConflict (busy : List SchedAcc) : List Acc → Option (Nat × SpUser × SpUser)
  | [] => none
  | a :: as =>
    match busy.find? fun b => (a.rows.map (·.2)).contains b.bank with
    | some b => some (b.bank, b.port, a.port)
    | none => findConflict (busy ++ a.rows.map fun r => ⟨r.2, a.port⟩) as

/-- The scheduled accesses of one event, in the counter's cycle (R145, R154, R155, R160, R165, R167): the event goes on
with `f` when all of them take place. `merge` says that writes leave bytes of a row as they are, so that the row is
checked first (R143). Where one event meets several obstacles, DESIGN CHOICE (assumption 53): a page outside the
context's comes first, then a POISON page, then pages that do not permit the access, then a bank conflict, then an
uncorrectable error. In a cycle already cleared no tag is looked at again (R200). -/
def schedAccess (c : Core) (write merge : Bool) (accs : List Acc) (f : Core → Core) : Try :=
  let rows := accs.flatMap fun a => a.rows.zipIdx.map fun r => (a.port, r.1, a.first + r.2)
  let bundle := (accs.head?.map fun a => a.port.bundle).getD 0
  match rows.find? (fun r => !ownsPage c.pagesLow c.pagesHigh r.2.1.1) with
  | some r => .stop 3 fun x => spStop x 3 0x0107 7 r.1.code 0 r.2.1.2 r.2.1.1 r.1.bundle
  | none =>
    match rows.find? (fun r => tagState (tagOf c.sp r.2.1.1) == 3) with
    | some r => .stop (portUnit r.1) fun x => poisonStop x r.1 r.2.1.1 r.2.1.2 r.2.2
    | none =>
      match (if c.ctl.cleared = c.ctl.cycle + 1 then [] else accRefused c write (accPages (rows.map (·.2.1)))) with
      | p :: ps => .wait ((p :: ps).map fun g => (g, write)) [] bundle
      | [] =>
        match findConflict c.sp.busy accs with
        | some q => .stop (portUnit q.2.2) fun x => conflictStop x q.1 q.2.1 q.2.2
        | none =>
          let checked := if write && !merge then [] else rows
          let fixed := fun (a : Acc) => !(write && !merge) && !(checkRows c.sp a.rows).1.isEmpty
          match checked.find? (fun r => rowCheck c.sp r.2.1.1 r.2.1.2 == 2) with
          | some r => .stop (portUnit r.1) fun x =>
              poisonStop (noteChecks x (checked.map (·.2.1)) bundle false) r.1 r.2.1.1 r.2.1.2 r.2.2
          | none =>
            let c1 := eccHold (noteChecks c (checked.map (·.2.1)) bundle false) (accs.filter fixed).length
            let c2 := { c1 with sp := { (if write then dropCorr c1.sp (rows.map (·.2.1)) else c1.sp) with
              busy := c1.sp.busy ++ accs.flatMap fun a => a.rows.map fun r => ⟨r.2, a.port⟩
              marks := c1.sp.marks ++ (accs.flatMap (·.mark)).map fun p => (p, write) } }
            .go (f c2)

/-- A word pops its token at its issue cycle, or the core holds until one arrives (R207). -/
def popToken (c : Core) (q : QWord) (f : Core → Try) : Try :=
  match tokenOf q.word with
  | none => f c
  | some tk =>
    if c.ctl.tokens.getD tk 0 = 0 then .wait [] [tk] q.bundle
    else f { c with ctl := { c.ctl with tokens := modAt c.ctl.tokens tk (· - 1) } }

/-- A stop for a fault the control core records (R216). -/
def ccTry (errCode cause queue detail bundle : Nat) : Try := .stop 4 fun x => ccStop x errCode cause queue detail bundle false

/-- A stop for a fault of the matrix engine. -/
def mxTry (errCode cause pass acc detail bundle : Nat) : Try := .stop 1 fun x => mxStop x errCode cause pass acc detail bundle

/-- A stop for a fault of the vector engine. -/
def vxTry (errCode cause detail bundle : Nat) : Try := .stop 2 fun x => vxStop x errCode cause detail bundle

/-! ### The error log -/

/-- An entry with no fields set but the class, unit, code and plane. -/
def logEntry (cls unit code plane : Nat) : LogEntry :=
  { seq := 0, cls := cls, unit := unit, code := code, timeUs := 0, plane := plane, ctx := 0xFF, core := 0xFF
    inst := 0xFF, bundle := 0xFFFFFFFF, address := 0, detail := 0, ring := 0xFF, tag := 0, count := 1 }

/-- The entry of the log a corrected-class event folds into (R591). -/
def foldTarget (s : State) (e : LogEntry) : Option LogEntry :=
  s.log.entries.find? fun x => x.cls == 0 && x.code == e.code && x.unit == e.unit && x.inst == e.inst &&
    decide (s.timeUs < x.timeUs + 1000)

/-- An MSI-X message of a function's vector (R459). -/
def sendMsix (s : State) (fn vector : Nat) : State :=
  { s with host := { s.host with msix := s.host.msix ++ [⟨fn, vector⟩] } }

/-- A device event's message on HI_DRIVER_CFG.event_vector (R469). -/
def eventMsix (s : State) : State := sendMsix s 0 s.host.eventVector.toNat

/-- MG_ALERT and MG_ALERT_EN take values: a bit of MG_ALERT AND MG_ALERT_EN that becomes 1 raises an in-band interrupt
with the value of MG_ALERT, once ENEC has enabled them (R509). -/
def setAlert (s : State) (alert en : Byte) : State :=
  let fresh := (alert &&& en) &&& ~~~ (s.mg.alert &&& s.mg.alertEn)
  { s with mg := { s.mg with
    alert := alert
    alertEn := en
    ibis := if fresh != 0 && s.mg.ibiEnabled then s.mg.ibis ++ [alert] else s.mg.ibis } }

/-- Bits of MG_ALERT set (R513). -/
def raiseAlert (s : State) (bits : Byte) : State := setAlert s (s.mg.alert ||| bits) s.mg.alertEn

/-- An entry accepted by the error log, or folded (R590, R591); an entry of an uncorrected class sets
MG_ALERT.log and signals the event vector (R469, R513). The answer is the entry's sequence number. -/
def logPut (s : State) (e : LogEntry) : State × Nat :=
  match (if e.cls = 0 ∧ e.code ≠ 0x0506 then foldTarget s e else none) with
  | some x =>
    ({ s with log := { s.log with
        entries := s.log.entries.map fun y => if y.seq = x.seq then { y with count := satAdd 32 y.count 1 } else y
        folded := BitVec.ofNat 32 (satAdd 32 s.log.folded.toNat 1) } }, x.seq)
  | none =>
    let n := s.log.nextSeq.toNat
    let e' := { e with seq := n, timeUs := s.timeUs }
    let s1 := { s with log := { s.log with
      entries := (e' :: s.log.entries).take 256
      nextSeq := s.log.nextSeq + 1
      fatal := s.log.fatal || e.cls == 2 } }
    (if e.cls = 0 then s1 else eventMsix (raiseAlert s1 0x01), n)

/-- An entry accepted by the error log. -/
def logAdd (s : State) (e : LogEntry) : State := (logPut s e).1

end Sys2Proof.Machine
end

