-- ==== Sys2Proof/Machine/Matrix.lean ====
section
/-!
DEFINITION. The matrix engine (R70 to R110): load words, run words, passes, rows and commits, with the
checks at issue (R94, R99, R619), plane reloads (R84) and the exact accumulators (R52 to R55).
-/

namespace Sys2Proof.Machine

/-- Bank of an accumulator address (R89). -/
def accBank (a : Nat) : Nat := a / 512

/-- The lanes of an accumulator entry; after a core reset free values (R55, R541). -/
def accLanes (m : Mx) (a : Nat) : List Int :=
  match m.acc.find? (fun p => p.1 == a) with
  | some p => p.2
  | none => match m.accFree with
    | some e => (List.range 128).map fun n => (Config.freeLane e a n).toInt
    | none => List.replicate 128 0

/-- The exponent tag of an entry (R54); after a macro a free value (R279). -/
def accTag (m : Mx) (a : Nat) : Nat :=
  look m.accTags a (match m.tagFree with | some e => (Config.freeLane e a 128).toNat % 32 | none => 0)

/-- Rows in flight that name a bank: its pending-write counter (R213). -/
def pendingRows (m : Mx) (bank : Nat) : Nat := (m.flight.filter fun f => accBank f.entry == bank).length

/-- The turnaround cycle of a bank, if it has had one (R213). -/
def turnCycle (m : Mx) (bank : Nat) : Option Nat := (m.turn.find? (fun p => p.1 == bank)).map (·.2)

/-- The run word the matrix engine takes next: the head of its queue, or the word behind a load word that
issues in the same cycle, since the run word is handled first (R76). -/
def nextRunWord (c : Core) : Option (QWord × List QWord) :=
  match c.mq with
  | q :: qs =>
    if mxOpOf q.word = 1 then some (q, qs)
    else match qs with
      | r :: rs => if mxOpOf r.word = 1 ∧ r.cycle = q.cycle then some (r, q :: rs) else none
      | [] => none
  | [] => none

/-- The load word the matrix engine takes next. -/
def nextLoadWord (c : Core) : Option (QWord × List QWord) :=
  match c.mq with
  | q :: qs =>
    if mxOpOf q.word = 0 ∧ (qs.head?.map fun r => mxOpOf r.word == 1 && r.cycle == q.cycle) ≠ some true then
      some (q, qs)
    else none
  | [] => none

/-- A matrix word leaves its queue at its issue cycle; an earlier or equal cycle breaks issue order, except
for one load and one run word (R196). The word then pops its token (R207). -/
def takeMatrix (c : Core) (q : QWord) (rest : List QWord) (f : Core → Try) : Try :=
  let op := mxOpOf q.word
  if q.cycle + 1 < c.mLast then ccTry 0x0103 3 1 0x40 q.bundle
  else if q.cycle + 1 = c.mLast ∧ c.mLastOps.contains op then ccTry 0x0103 3 1 0x41 q.bundle
  else popToken { c with mq := rest, mLast := q.cycle + 1
                         mLastOps := if q.cycle + 1 = c.mLast then op :: c.mLastOps else [op] } q f

/-- All pages of a range of bytes are the lane's own. -/
def ownsRange (c : Core) (a bytes : Nat) : Bool :=
  (List.range (ceilDiv (a % 4096 + bytes) 4096)).all fun i =>
    ownsPage c.pagesLow c.pagesHigh (pageOf ((a + 4096 * i) % 16777216))

/-- The tile address of a LOAD word (R243). -/
def loadTileAddr (q : QWord) : Nat :=
  addr24 ((aReg q (fld q.word 56 53)).toNat + 128 * fld q.word 52 36 : Nat)

/-- The record address of a LOAD word (R243). -/
def loadRecAddr (q : QWord) : Nat :=
  addr24 ((aReg q (fld q.word 35 32)).toNat + 8 * fld q.word 31 20 : Nat)

/-- Scale underflows counted into the live statistics (R51, R62). -/
def countUnderflow (c : Core) (n : Nat) : Core :=
  { c with vx := { c.vx with live := { c.vx.live with
    underflow := BitVec.ofNat 32 (satAdd 32 c.vx.live.underflow.toNat n) } } }

/-- The weight-load port for a load, whose faults name the pass and entry base of the running word when it is a plane
reload (R105). -/
def loadPort (c : Core) (l : TileLoad) : SpUser :=
  let r := if l.reload then c.mx.run.map fun r => (r.pass, r.acc) else none
  ⟨1, l.wcycle, l.bundle, (r.getD (0, 0)).1, (r.getD (0, 0)).2⟩

/-- The scheduled read of the next row of a tile or plane, with its release marker (R74, R84, R234). -/
def loadAcc (c : Core) (l : TileLoad) : Acc :=
  let page := fun (i : Nat) => pageOf ((l.addr + 128 * i) % 16777216)
  { port := loadPort c l
    rows := [(page l.got, bankOf (l.addr + 128 * l.got))]
    mark := markPages l.release [page l.got] (if l.got + 1 < l.rows then some [page (l.got + 1)] else none)
    first := l.got }

/-- The row is in the codebook unit. -/
def tookRow (l : TileLoad) (c : Core) : Core :=
  { c with mx := { c.mx with loading := some { l with
      got := l.got + 1
      codes := l.codes ++ spRead c.sp (l.addr + 128 * l.got) 128 } } }

/-- A load word's load before its first row. -/
def loadOf (q : QWord) (record : Bytes) : TileLoad :=
  { start := q.cycle, rows := loadRows (recWidth record), got := 0, codes := [], addr := loadTileAddr q
    tileAddr := loadTileAddr q, record := record, reload := false, hiPlane := true, loCounted := false
    release := fld q.word 19 18, wcycle := q.cycle, bundle := q.bundle }

/-- A load word's own effect: the shadow register is loading (R74, R78). -/
def startLoad (q : QWord) (c : Core) : Core :=
  let r := spRead c.sp (loadRecAddr q) 8
  let book := bookOf (bankOfCtx c).books (bookIndex r true)
  tookRow (loadOf q r) (countUnderflow { c with mx := { c.mx with shadow := none } } (foldUnderflows r book))

/-- The checks of a LOAD word at its issue cycle in the order of R619, then its two accesses (R74). DESIGN CHOICE
(assumption 54): while the record cannot be read, because its address or its page's tag forbids it, the tile's extent
is checked for the smallest tile. DESIGN CHOICE (assumption 63): a fault met in the scale record's own page is recorded
for row 0. -/
def issueLoad (c : Core) (q : QWord) : Try :=
  let tile := loadTileAddr q
  let rec' := loadRecAddr q
  let recOk := decide (rec' % 8 = 0) && ownsPage c.pagesLow c.pagesHigh (pageOf rec')
  let record := spRead c.sp rec' 8
  let known := recOk && tagState (tagOf c.sp (pageOf rec')) == 1
  let fail := fun d => mxTry 0x0101 1 0 0 d q.bundle
  if c.mx.loading.isSome then mxTry 0x0103 3 0 0 0x11 q.bundle
  else if !ownsRange c tile (if known then tileBytes (recWidth record) else 4096) then fail 0x02
  else if tile % 128 ≠ 0 then fail 0x03
  else if !recOk then fail 0x04
  else
    let l := loadOf q record
    schedAccess c false false
      [⟨loadPort c l, [(pageOf rec', bankOf rec')], [], 0⟩, loadAcc c l] (startLoad q)

/-- LOAD at its issue cycle. -/
def tryLoad (c : Core) : Try :=
  match nextLoadWord c with
  | none => .go c
  | some (q, rest) => takeMatrix c q rest fun c1 => issueLoad c1 q

/-- The next row of a load or reload, in the cycle it falls in. -/
def tryLoadRow (c : Core) : Try :=
  match c.mx.loading with
  | some l => if l.got < l.rows ∧ l.start + l.got = c.ctl.cycle then schedAccess c false false [loadAcc c l] (tookRow l) else .go c
  | none => .go c

/-- The rows of a tile or plane have all arrived: the shadow register is complete (R75, R84, R109). -/
def completeLoad (c : Core) : Core :=
  match c.mx.loading with
  | none => c
  | some l =>
    let r := l.record
    let lo := !l.hiPlane
    let book := bookOf (bankOfCtx c).books (bookIndex r l.hiPlane)
    let tile : Tile :=
      { codes := l.codes, levels := foldLevels r book, emax := recEmax r
        width := recWidth r, zeroScales := recZero r, addr := l.tileAddr, record := r
        hiPlane := l.hiPlane, loCounted := l.loCounted || lo }
    let c1 := if lo && !l.loCounted then countUnderflow c (foldUnderflows r book) else c
    if l.got < l.rows then c
    else { c1 with mx := { c1.mx with shadow := some tile, loading := none, loadCount := c1.mx.loadCount + 1 } }

/-- Whether the pass of a mode has the low weight part, and its activation part high (R44). -/
def passLo (byteMode : Bool) (pass : Nat) : Bool := byteMode && pass % 2 == 1

/-- See `passLo`. -/
def passActHi (byteMode split : Bool) (pass : Nat) : Bool :=
  split && (if byteMode then decide (2 ≤ pass) else decide (1 ≤ pass))

/-- Passes of a mode (R44). -/
def passCount (byteMode split : Bool) : Nat := (if byteMode then 2 else 1) * if split then 2 else 1

/-- The cycle of a run word's last row (R81). -/
def lastRowCycle (r : RunState) (byteMode : Bool) : Nat :=
  let per := if byteMode then max r.m 64 else r.m
  r.opens + (r.npass - 1 - r.pass) * per + r.m

/-- A plane reload starts on the weight-load port (R84): its rows are read from this cycle on. -/
def startReload (c : Core) (t : Tile) (hi : Bool) (wcycle bundle : Nat) : Core :=
  let l : TileLoad :=
    { start := c.ctl.cycle, rows := 64, got := 0, codes := [], addr := if hi then t.addr else addr24 (t.addr + 8192 : Nat)
      tileAddr := t.addr, record := t.record, reload := true, hiPlane := hi, loCounted := t.loCounted
      release := 0, wcycle := wcycle, bundle := bundle }
  { c with mx := { c.mx with loading := some l } }

/-- The activation address of a row of a pass (R83). -/
def rowAddress (r : RunState) (byteMode : Bool) (idx : List Nat) : Nat :=
  addr24 ((walkAddr r.desc r.base idx : Nat) + if passActHi byteMode r.split r.pass then 128 else 0 : Nat)

/-- The first entry a non-clearing run word names whose tag differs from the tile's e_max (R54, R55). -/
def tagMismatch (m : Mx) (t : Tile) (acc len : Nat) : Option Nat :=
  if t.zeroScales then none else ((List.range len).map (acc + ·)).find? fun a => accTag m a != t.emax

/-- A RUN word at its issue cycle: the checks in the order of R619, then swap, tags and pass 0 (R76, R80 to
R85). -/
def issueRun (c : Core) (q : QWord) : Try :=
  let w := q.word
  let cyc := c.ctl.cycle
  let swap := bit w 56
  let clear := bit w 55
  let split := bit w 54
  let acc := fld w 43 33
  let cnt := fld w 26 23
  let m := if bit w 32 then (cReg q cnt).toNat else fld w 31 23 + 1
  let tile := if swap then c.mx.shadow else c.mx.active
  let byteMode := (tile.map fun t => t.width == 3).getD false
  let book := bankOfCtx c
  let d := book.loops.getD (fld w 53 48) []
  let base := aReg q (fld w 47 44)
  let hiOff := if split then 128 else 0
  let last := walkAddr d base (walkSteps d (m - 1) walkStart)
  let ends := [walkAddr d base walkStart, addr24 (walkAddr d base walkStart + hiOff : Nat), last, addr24 (last + hiOff : Nat)]
  let cad := fun x => mxTry 0x0103 3 0 acc x q.bundle
  let bad := fun x => mxTry 0x0101 1 0 acc x q.bundle
  if bit w 32 && decide (declaredMax c (fld w 22 17) < m) then ccTry 0x0109 9 0 (16 + cnt) q.bundle
  else if swap && c.mx.shadow.isNone then cad 0x10
  else if decide (cyc < c.mx.nextRun) then cad 0x12
  else if c.vx.drains.any (fun x => x.bank == accBank acc && decide (cyc < x.t + x.m)) then cad 0x13
  else if byteMode && c.mx.loading.isSome then cad 0x14
  else if m = 0 ∨ 512 < acc % 512 + m then bad 0x01
  else if !ends.all (fun a => ownsPage c.pagesLow c.pagesHigh (pageOf a)) then bad 0x05
  else match tile with
    | none => bad 0x06
    | some t =>
      match (if clear then none else tagMismatch c.mx t acc m) with
      | some a => mxTry 0x0102 2 0 a (accTag c.mx a) q.bundle
      | none =>
        let pd := book.loops.getD (fld w 15 10) []
        let km := if bit w 16 then kMaskOf pd else (0, 128)
        let nm := if bit w 16 then nMaskOf pd else (0, 128)
        let wait := byteMode && !swap
        let run : RunState :=
          { word := q, m := m, pass := 0, npass := passCount byteMode split
            opens := if wait then cyc + 64 else cyc, opened := !wait, row := 0, acc := acc, clear := clear
            split := split, desc := d, base := base, idx := walkStart, mLimit := mLimitOf d q.c
            kFirst := km.1, kCount := km.2, nFirst := nm.1, nCount := nm.2, release := fld w 9 8 }
        let tags := if clear then
            (List.range m).foldl (fun ts i => put ts (acc + i) t.emax) c.mx.accTags
          else c.mx.accTags
        let c1 := { c with mx := { c.mx with
          active := some t
          shadow := if swap then none else c.mx.shadow
          accTags := tags, run := some run
          nextRun := lastRowCycle run byteMode, swapped := true } }
        .go (if byteMode then startReload c1 t (hi := wait) q.cycle q.bundle else c1)

/-- RUN at its issue cycle; the previous word's last row of the same cycle comes first (R72, R82). -/
def tryRun (c : Core) : Try :=
  match nextRunWord c with
  | none => .go c
  | some (q, rest) =>
    if c.mx.run.isSome && decide (c.mx.nextRun ≤ q.cycle) then .go c
    else takeMatrix c q rest fun c1 => issueRun c1 q

/-- PASS_OPEN: the reloaded plane becomes active, and the next plane's reload starts (R81, R84). DESIGN CHOICE (assumption
55): when a load word has replaced the plane, the pass opens with what the shadow register then holds, or with the plane
before it when that is nothing. -/
def openPass (c : Core) (r : RunState) (byteMode : Bool) : Core :=
  let c1 := if byteMode then
      (match c.mx.shadow with
       | some t => { c with mx := { c.mx with active := some t, shadow := none } }
       | none => c)
    else c
  let c2 := { c1 with mx := { c1.mx with run := some { r with opened := true, row := 0, idx := walkStart } } }
  match c1.mx.active with
  | some t =>
    if byteMode && decide (r.pass + 1 < r.npass) then
      startReload c2 t (hi := !passLo byteMode (r.pass + 1)) r.word.cycle r.word.bundle
    else c2
  | none => c2

/-- Whether the active tile is a byte-mode tile. -/
def activeByte (c : Core) : Bool := (c.mx.active.map fun t => t.width == 3).getD false

/-- PASS_OPEN at its cycle, with the monitored relation 0x14 (R99, R100). -/
def tryPassOpen (c : Core) : Try :=
  match c.mx.run with
  | none => .go c
  | some r =>
    let bm := activeByte c
    if r.opened then .go c
    else if bm && decide (r.pass + 1 < r.npass) && c.mx.loading.isSome then mxTry 0x0103 3 r.pass r.acc 0x14 r.word.bundle
    else .go (openPass c r bm)

/-- The row inputs of an activation row (R37, R87): a low byte is zero-extended, any other sign-extended,
and a K row the mask does not pass is 0. -/
def rowInputs (bs : Bytes) (low : Bool) (km : Nat × Nat) : List Int :=
  bs.zipIdx.map fun p =>
    if maskBit km p.2 then (if low then (p.1.toNat : Int) else sByte p.1) else 0

/-- The column sums of a row under a tile (R70, R71). -/
def columnSums (t : Tile) (xs : List Int) : List Int :=
  (List.range 128).map fun n => ((List.range 128).map fun k => xs.getD k 0 * tileLevel t k n).sum

/-- The row enters the pipeline: its sums are fixed by the tile active now (R71, R72, R83). -/
def enterRow (r : RunState) (a : Nat) (c : Core) : Core :=
  match c.mx.active with
  | none => c
  | some t =>
    let bm := t.width == 3
    let hi := passActHi bm r.split r.pass
    let xs := rowInputs (vecBytes c a 128) (r.split && !hi) (r.kFirst, r.kCount)
    let sums := (columnSums t xs).map fun s => if hi then s * 256 else s
    let f : FlightRow :=
      { commit := c.ctl.cycle + 9, entry := r.acc + r.row, sums := sums, writes := r.clear && r.pass == 0
        mBit := mBitOf r.desc r.mLimit r.idx, nFirst := r.nFirst, nCount := r.nCount }
    let next : Option RunState :=
      if r.row + 1 < r.m then some { r with row := r.row + 1, idx := walkNext r.desc r.idx }
      else if r.pass + 1 < r.npass then
        some { r with pass := r.pass + 1, opened := false, row := 0, idx := walkStart
                      opens := r.opens + if bm then max r.m 64 else r.m }
      else none
    { c with mx := { c.mx with
        flight := c.mx.flight ++ [f]
        run := next
        rowCount := c.mx.rowCount + 1
        idleMark := c.ctl.cycle + 1 } }

/-- ROW_ISSUE at its cycle (R83, R97); markers only in the word's last pass (R244). -/
def tryRow (c : Core) : Try :=
  match c.mx.run with
  | none => .go c
  | some r =>
    if !r.opened then .go c
    else
      let bm := activeByte c
      let a := rowAddress r bm r.idx
      let next := if r.row + 1 < r.m then
          some [pageOf (rowAddress r bm (walkNext r.desc r.idx))] else none
      let mark := if r.pass + 1 = r.npass then markPages r.release [pageOf a] next else []
      schedAccess c false false
        [⟨⟨0, r.word.cycle, r.word.bundle, r.pass, r.acc⟩, [(pageOf a, bankOf a)], mark, 0⟩] (enterRow r a)

/-- One lane of a commit: written or added, held at the nearer limit of 48 bits (R53). -/
def accSum (writes : Bool) (old s : Int) : Int × Bool :=
  let v := if writes then s else old + s
  let w := clampInt (-140737488355328) 140737488355327 v
  (w, decide (w ≠ v))

/-- A row's accumulate is committed (R53, R85 to R88, R97, R213). -/
def commitRow (c : Core) (f : FlightRow) (rest : List FlightRow) : Core :=
  let old := accLanes c.mx f.entry
  let bank := accBank f.entry
  let lanes := (List.range 128).map fun n =>
    if f.mBit && maskBit (f.nFirst, f.nCount) n then accSum f.writes (old.getD n 0) (f.sums.getD n 0)
    else (old.getD n 0, false)
  let m := c.mx
  let ovf := if lanes.any (·.2) then m.ovf ||| (1#4 <<< bank) else m.ovf
  let turn := if rest.any (fun g => accBank g.entry == bank) then m.turn else put m.turn bank (f.commit + 1)
  { c with mx := { m with flight := rest, acc := put m.acc f.entry (lanes.map (·.1)), ovf := ovf, turn := turn } }

/-- ROW_COMMIT of the oldest row in flight. -/
def runCommit (c : Core) : Core :=
  match c.mx.flight with
  | f :: rest => commitRow c f rest
  | [] => c

end Sys2Proof.Machine
end

