-- ==== Sys2Proof/Machine/Vector.lean ====
section
/-!
DEFINITION. The vector engine (R111 to R139, R246 to R250): read and write ends, FMA, FUNC and REDUCE words,
the transpose unit, parameter banks, drains with their requantisation, results in flight, and windows.
-/

namespace Sys2Proof.Machine

/-! ### Ends and look-ahead -/

/-- The binding of an end now: 0 to 3 RE, 4 and 5 WE (R249). -/
def endBind (c : Core) (e : Nat) : Option EndBind :=
  match c.vx.ends.getD e none with
  | some id => c.vx.binds.find? fun b => b.id == id
  | none => none

/-- The binding with a number. -/
def bindById (c : Core) (id : Nat) : Option EndBind := c.vx.binds.find? fun b => b.id == id

/-- A binding's walk moved by `n` steps. -/
def stepBind (c : Core) (id n : Nat) : Core :=
  { c with vx := { c.vx with binds := c.vx.binds.map fun b =>
      if b.id = id then { b with idx := walkSteps b.desc n b.idx } else b } }

/-- The address of a binding's next step. -/
def bindAddr (b : EndBind) : Nat := walkAddr b.desc b.base b.idx

/-- The source codes of an FMA, FUNC or REDUCE word, or of a TFILL (R246). -/
def srcCodes (w : W64) : List Nat :=
  if classOf w ≤ 2 then [fld w 51 47, fld w 46 42, fld w 41 37] else if classOf w = 3 then [fld w 51 47] else []

/-- The read ends a word reads vector by vector. -/
def readEnds (w : W64) : List Nat :=
  ((srcCodes w).filter fun s => decide (1 ≤ s ∧ s ≤ 4)).eraseDups.map (· - 1)

/-- The loop-back queues a word pops. -/
def popQueues (w : W64) : List Nat :=
  ((srcCodes w).filter fun s => decide (8 ≤ s ∧ s ≤ 11)).eraseDups.map (· - 8)

/-- The two destination codes of a word; a drain has one. -/
def dstCodes (w : W64) : Nat × Nat :=
  if classOf w = 6 then (fld w 19 16, 0)
  else if classOf w ≤ 2 ∨ classOf w = 4 then (fld w 36 33, fld w 32 29) else (0, 0)

/-- Rows of scratchpad one output row of a drain takes (R59, R60). -/
def drainRowsOf (out : Nat) : Nat := match out with | 2 => 2 | 3 => 4 | _ => 1

/-- The vectors or entries of a word, with the C registers it copies (R244, R247, R248). -/
def wordLength (w : W64) (cs : List W32) : Nat :=
  match classOf w with
  | 3 => 128
  | 4 => fld w 19 13 + 1
  | 5 => 1
  | 6 => if bit w 44 then (cs.getD (fld w 38 35) 0).toNat else fld w 43 35 + 1
  | _ => if bit w 22 then (cs.getD (fld w 16 13) 0).toNat else fld w 21 13 + 1

/-- Rows per access that a word makes through an end, none when it does not use the end. -/
def endUse (w : W64) (e : Nat) : Option Nat :=
  if e ≤ 3 then
    if (readEnds w).contains e then some (typeRows (fld w 28 26))
    else if classOf w = 5 ∧ fld w 54 53 = e then some 2
    else if classOf w = 6 ∧ bit w 27 ∧ fld w 26 25 = e then some 4 else none
  else
    let d := dstCodes w
    if d.1 = e - 3 ∨ d.2 = e - 3 then
      some (if classOf w = 6 then drainRowsOf (fld w 21 20) else typeRows (fld w 25 23))
    else none

/-- A word binds an end. -/
def bindsEnd (w : W64) (e : Nat) : Bool := classOf w == 7 && fld w 55 53 == e

/-- What a word does with an end: `some (some n)` an access of `n` rows, `some none` a new binding, none neither. -/
def wordUse (e : Nat) (w : W64) (cs : List W32) : Option (Option Nat) :=
  if bindsEnd w e then some none
  else if wordLength w cs = 0 then none
  else (endUse w e).map some

/-- The first such thing words in a queue do. -/
def wordsUse (e : Nat) (ws : List QWord) : Option (Option Nat) := ws.findSome? fun q => wordUse e q.word q.c

/-- The control core's registers after a bundle, as far as no other agent touches them: a SYNC is passed as if it were
released. -/
def peekBundle (t : Ctl) (b : BitVec 256) : Ctl :=
  let w := slotOf b 0
  let t1 := if opOf w = 0x14 then { t with flags := syncFlags t w } else plainOp w t
  let next := afterOp t1 w
  { evalComparators t1 with pc := next.1, loops := next.2 }

/-- The first use of an end along the bundles the lane processes next, followed through at most `fuel` bundles (R249).
DESIGN CHOICE (assumption 62): flags that other agents have still to set are taken as they are now, and nothing is known
beyond the bundles in the buffer. -/
def bundlesUse (e : Nat) : Nat → Ctl → Option Nat
  | 0, _ => none
  | fuel + 1, t =>
    match bundleAt t t.pc with
    | none => none
    | some b =>
      let w := slotOf b 2
      let t1 := if opOf (slotOf b 0) = 0x14 then t else plainOp (slotOf b 0) t
      match (if validOf w then wordUse e w t1.c else none) with
      | some r => r
      | none => if opOf (slotOf b 0) = 0x3F ∨ opOf (slotOf b 0) = 0x18 then none else bundlesUse e fuel (peekBundle t b)

/-- The control core's registers from the first bundle whose words are all still to be pushed. -/
def peekFrom (t : Ctl) : Ctl :=
  if t.pushed = 0 then t else { evalComparators t with pc := t.nextPc }

/-- The vector word of a bundle the control core is at work on, if it is still to be pushed. -/
def partWord (t : Ctl) : List QWord :=
  match (if 1 ≤ t.pushed ∧ t.pushed ≤ 2 then bundleAt t t.pc else none) with
  | some b => if validOf (slotOf b 2) then [⟨slotOf b 2, 0, t.pc, t.a, t.c, t.s⟩] else []
  | none => []

/-- The pages of the next access through a binding, if one comes before its end is bound again: by vectors, results or
entries of running words (rows, and steps on from the present one), by queued words, or by the bundles that follow
(R234, R249). -/
def nextPages (c : Core) (b : EndBind) (running : Option (Nat × Nat)) : Option (List Nat) :=
  let rows : Option (Nat × Nat) :=
    match running with
    | some n => some n
    | none =>
      if c.vx.ends.getD b.port none ≠ some b.id then none
      else match wordsUse b.port (c.vq ++ partWord c.ctl) with
        | some r => r.map fun n => (n, 1)
        | none => (bundlesUse b.port 4096 (peekFrom c.ctl)).map fun n => (n, 1)
  rows.map fun n => accPages (accRows (walkAddr b.desc b.base (walkSteps b.desc n.2 b.idx)) n.1)

/-! ### Taking words -/

/-- The head of the vector queue, if its class is the one asked for. -/
def vecHead (c : Core) (cls : Nat) : Option (QWord × List QWord) :=
  match c.vq with
  | q :: qs => if classOf q.word = cls then some (q, qs) else none
  | [] => none

/-- A vector word leaves its queue at its issue cycle; an earlier or equal issue cycle breaks issue order (R196). The word
then pops its token (R207). -/
def takeVector (c : Core) (q : QWord) (rest : List QWord) (f : Core → Try) : Try :=
  if q.cycle + 1 < c.vLast then ccTry 0x0103 3 2 0x40 q.bundle
  else if q.cycle + 1 = c.vLast then ccTry 0x0103 3 2 0x41 q.bundle
  else popToken { c with vq := rest, vLast := q.cycle + 1, vx := { c.vx with closing := c.vx.closing || closeOf q.word } } q f

/-- An E_CADENCE fault of the vector engine (R130). -/
def vxCadence (detail bundle : Nat) : Try := vxTry 0x0103 3 detail bundle

/-- The user of a port for a word (R144). -/
def portOf (code : Nat) (q : QWord) : SpUser := ⟨code, q.cycle, q.bundle, 0, 0⟩

/-! ### One vector of an FMA, FUNC, REDUCE or TFILL word -/

/-- A word in BF16 pair form (R113). -/
def pairForm (w : W64) : Bool := decide (classOf w ≤ 2) && (fld w 28 26 == 5 || fld w 25 23 == 5)

/-- Element `i` of an operand vector: one value per lane supplies both halves (R113). -/
def elem (v : Vec) (i : Nat) : W32 := if v.length = 256 then v.getD i 0 else v.getD (i % 128) 0

/-- The FMA operations on one element (R115, R247). -/
def fmaOp (op tout : Nat) (a b c : W32) : W32 :=
  match op with
  | 0 => fpAdd a b
  | 1 => fpSub a b
  | 2 => fpMul a b
  | 3 => fpFma a b c
  | 4 => fpMin a b
  | 5 => fpMax a b
  | 6 => fpAbs a
  | 7 => fpNeg a
  | 8 => fpBool (fpEq a b)
  | 9 => fpBool (fpLt a b)
  | 10 => fpBool (fpLt a b || fpEq a b)
  | 11 => if fpEq c 0 then fpIn b else fpIn a
  | _ => convertTo tout a

/-- One level of the pairwise tree (R117). -/
def treeLevel (f : W32 → W32 → W32) : List W32 → List W32
  | x :: y :: r => f x y :: treeLevel f r
  | l => l

/-- The pairwise tree over 128 lanes (R117). -/
def treeReduce (f : W32 → W32 → W32) (v : List W32) : W32 :=
  (treeLevel f (treeLevel f (treeLevel f (treeLevel f (treeLevel f (treeLevel f (treeLevel f v))))))).getD 0 0

/-- The reduction operations (R117, R246). -/
def redOp (op : Nat) (x y : W32) : W32 :=
  match op with
  | 0 => fpAdd x y
  | 1 => fpMax x y
  | _ => fpMin x y

/-- The result of one vector of an FMA, FUNC or REDUCE word on its operands (R113 to R120). -/
def vectorValue (w : W64) (a b c : Vec) : Vec :=
  let pair := pairForm w
  let n := if pair then 256 else 128
  let op := fld w 55 52
  match classOf w with
  | 0 => (List.range n).map fun i => fmaOp op (fld w 25 23) (elem a i) (elem b i) (elem c i)
  | 1 => (List.range n).map fun i => fuOp op (elem a i)
  | _ =>
    let l := (List.range 128).map fun i =>
      if pair then redOp op (elem a i) (elem a (i + 128)) else elem a i
    List.replicate n (treeReduce (redOp op) l)

/-- An operand by its source code: what the ends supplied, the popped entries, or a broadcast (R111). -/
def operand (reads pops : List (Nat × Vec)) (q : QWord) (s : Nat) : Vec :=
  if 1 ≤ s ∧ s ≤ 4 then look reads (s - 1) []
  else if 8 ≤ s ∧ s ≤ 11 then look pops (s - 8) []
  else if 16 ≤ s then List.replicate 128 (sReg q (s - 16))
  else List.replicate 128 0

/-- The binding numbers of a word's two destinations, 0 where it is no write end. -/
def dstBind (c : Core) (dst : Nat) : Nat := if isWe dst then (c.vx.ends.getD (dst + 3) none).getD 0 else 0

/-- An end the word uses has no binding (R250). -/
def unboundUse (c : Core) (w : W64) : Bool :=
  let d := dstCodes w
  (readEnds w).any (fun e => (endBind c e).isNone) ||
    (isWe d.1 && (c.vx.ends.getD (d.1 + 3) none).isNone) || (isWe d.2 && (c.vx.ends.getD (d.2 + 3) none).isNone)

/-- Latency of a class (R115). -/
def classLatency (cls : Nat) : Nat :=
  match cls with
  | 1 => 8
  | 2 => 7
  | _ => 4

/-- The running word after one more vector has issued. -/
def bumpRun (c : Core) (r : VRun) : Core :=
  { c with vx := { c.vx with runs := c.vx.runs.flatMap fun x =>
      if x.t = r.t then (if r.i + 1 < r.n then [{ r with i := r.i + 1 }] else []) else [x] } }

/-- An FP32 vector as a loop-back entry holds a result: raw INT32 elements converted (R111). -/
def lbValue (raw : Bool) (v : Vec) : Vec := if raw then v.map fun x => fpOfInt x.toInt else v

/-- The bytes a write end makes of a result; raw INT32 elements are stored as they stand (R121). -/
def resBytes (t : Nat) (raw : Bool) (v : Vec) : Bytes :=
  if raw && t == 3 then v.flatMap (fun x => toLe 4 x.toNat) else writeConv t (lbValue raw v)

/-- The result of a vector of a running word, issued now with latency `lat` (R115, R118). -/
def resultOf (c : Core) (r : VRun) (lat : Nat) (raw : Bool) (v : Vec) : VRes :=
  let w := r.word.word
  { iss := c.ctl.cycle, due := c.ctl.cycle + lat, dst0 := (dstCodes w).1, dst1 := (dstCodes w).2, bind0 := r.bind0
    bind1 := r.bind1, rows := typeRows (fld w 25 23), value := lbValue raw v, bytes := resBytes (fld w 25 23) raw v
    mask := none, live := true, drain := false, bundle := r.word.bundle, wcycle := r.word.cycle }

/-- The effect of one vector once its reads are permitted: pops, walk steps, and the result in flight or the
row of a transpose buffer (R115, R121). DESIGN CHOICE (assumption 64): of a BF16 pair, 256 elements, a row of the buffer
takes elements 0 to 127. -/
def vectorEffect (r : VRun) (c : Core) : Core :=
  let q := r.word
  let w := q.word
  let cls := classOf w
  let t := fld w 28 26
  let reads := (readEnds w).filterMap fun e =>
    (endBind c e).map fun b => (e, readConv t (vecBytes c (bindAddr b) (128 * typeRows t)))
  let pops := (popQueues w).map fun k => (k, (c.vx.lb.getD k []).getD 0 [])
  let s := srcCodes w
  let a := operand reads pops q (s.getD 0 0)
  let c1 := (readEnds w).foldl (fun x e => stepBind x ((c.vx.ends.getD e none).getD 0) 1) c
  let c2 := { c1 with vx := { c1.vx with lb := (popQueues w).foldl (fun l k => modAt l k (·.drop 1)) c1.vx.lb } }
  let c3 := if cls = 3 then
      let raw := t == 3 && decide (1 ≤ s.getD 0 0 ∧ s.getD 0 0 ≤ 4)
      let row := if raw then
          (match endBind c (s.getD 0 0 - 1) with
           | some b => (List.range 128).map fun n => BitVec.ofNat 32 (rdLe (vecBytes c (bindAddr b) 512) (4 * n) 4)
           | none => [])
        else a.take 128
      let b := if bit w 55 then c2.vx.t1 else c2.vx.t0
      let b' : Transpose := { b with
        rows := (if r.i = 0 then [] else b.rows) ++ [row], full := decide (r.i = 127), filling := decide (r.i < 127)
        fillEnd := c.ctl.cycle, readIdx := 0, etype := if raw then 3 else 6 }
      { c2 with vx := if bit w 55 then { c2.vx with t1 := b' } else { c2.vx with t0 := b' } }
    else
      let v := vectorValue w a (operand reads pops q (s.getD 1 0)) (operand reads pops q (s.getD 2 0))
      { c2 with vx := { c2.vx with results := c2.vx.results ++ [resultOf c r (classLatency cls) false v] } }
  bumpRun c3 r

/-- The accesses a vector's read ends make, with their release markers (R111, R234). -/
def readAccs (c : Core) (r : VRun) : List Acc :=
  let w := r.word.word
  let n := typeRows (fld w 28 26)
  (readEnds w).filterMap fun e => (endBind c e).map fun b =>
    let rows := accRows (bindAddr b) n
    { port := portOf (2 + e) r.word, rows := rows, first := 0
      mark := markPages b.marker (accPages rows) (nextPages c b (if r.i + 1 < r.n then some (n, 1) else none)) }

/-- A vector pops a loop-back queue that holds no entry (R130 detail 0x20). -/
def popsEmpty (c : Core) (w : W64) : Bool := (popQueues w).any fun k => (c.vx.lb.getD k []).isEmpty

/-- One vector of a running word (R115, R130, R250). -/
def tryVector (r : VRun) (c : Core) : Try :=
  let w := r.word.word
  if popsEmpty c w then vxCadence 0x20 r.word.bundle
  else if unboundUse c w then vxCadence 0x26 r.word.bundle
  else schedAccess c false false (readAccs c r) (vectorEffect r)

/-- One column of a transpose read (R121, R122, R130). -/
def tryColumn (r : VRun) (c : Core) : Try :=
  let w := r.word.word
  let b := if bit w 55 then c.vx.t1 else c.vx.t0
  if !b.full || decide (c.ctl.cycle < b.fillEnd + 2) then vxCadence 0x22 r.word.bundle
  else if unboundUse c w then vxCadence 0x26 r.word.bundle
  else
    let v := (List.range 128).map fun i => (b.rows.getD i []).getD b.readIdx 0
    let b' := { b with readIdx := (b.readIdx + 1) % 128 }
    .go (bumpRun { c with vx := { (if bit w 55 then { c.vx with t1 := b' } else { c.vx with t0 := b' }) with
      results := c.vx.results ++ [resultOf c r 4 (b.etype == 3) v] } } r)

/-- The next vector or column of a running word. -/
def tryStep (r : VRun) (c : Core) : Try := if classOf r.word.word = 4 then tryColumn r c else tryVector r c

/-- The run length of an FMA, FUNC or REDUCE word, or none above the declared maximum (R191, R247). -/
def runLength (c : Core) (q : QWord) : Option Nat :=
  if bit q.word 22 then
    let v := (cReg q (fld q.word 16 13)).toNat
    if declaredMax c (fld q.word 12 7) < v then none else some (min v 512)
  else some (fld q.word 21 13 + 1)

/-- The vectors a word of classes 0 to 4 runs for. -/
def vectorCount (c : Core) (q : QWord) : Option Nat :=
  match classOf q.word with
  | 3 => some 128
  | 4 => some (fld q.word 19 13 + 1)
  | _ => runLength c q

/-- A word of classes 0 to 4 issues: its run starts with its first vector (R115, R116, R121), after the checks in the order
of R620. -/
def startVector (q : QWord) (c : Core) : Try :=
  let cls := classOf q.word
  match vectorCount c q with
  | none => ccTry 0x0109 9 0 (16 + fld q.word 16 13) q.bundle
  | some 0 => .go c
  | some n =>
    if popsEmpty c q.word then vxCadence 0x20 q.bundle
    else if cls = 1 ∧ q.cycle < c.vx.funcFree then vxCadence 0x25 q.bundle
    else
      let d := dstCodes q.word
      let r : VRun := { word := q, t := q.cycle, n := n, i := 0, bind0 := dstBind c d.1, bind1 := dstBind c d.2 }
      let free := if cls = 1 ∧ pairForm q.word then q.cycle + 2 * n else c.vx.funcFree
      tryStep r { c with vx := { c.vx with runs := c.vx.runs ++ [r], funcFree := free } }

/-! ### Results -/

/-- Vectors pushed into loop-back queues in one cycle, in order, or none when one of them would push into a queue that
holds 8 (R118, R130 detail 0x21). -/
def pushAll (lb : List (List Vec)) (v : Vec) : List Nat → Option (List (List Vec))
  | [] => some lb
  | k :: ks => if 8 ≤ (lb.getD k []).length then none else pushAll (modAt lb k (· ++ [v])) v ks

/-- The loop-back queues a result pushes. -/
def resQueues (r : VRes) : List Nat := ([r.dst0, r.dst1].filter isLb).map (· - 4)

/-- A result with a destination of each kind once its pushes have taken place: its write is still to come (R115). -/
def leftRes (r : VRes) : VRes :=
  if splitRes r then { r with dst0 := if isLb r.dst0 then 0 else r.dst0, dst1 := if isLb r.dst1 then 0 else r.dst1 } else r

/-- A result's pushes, at the end of its cycle: its write, if it has one, is still to come (R115). A push into a full queue
stops the core, and nothing of the vector executes. -/
def tryPush (r : VRes) (c : Core) : Try :=
  let rest := c.vx.results.erase r
  match pushAll c.vx.lb r.value (resQueues r) with
  | none => .stop 2 fun x => vxStop { x with vx := { x.vx with results := x.vx.results.erase r } } 0x0103 3 0x21 r.bundle
  | some lb =>
    .go { c with vx := { c.vx with lb := lb, results := if splitRes r then leftRes r :: rest else rest } }

/-- Bytes written by a write end at an address: whole rows, or the lanes of an N mask, which leaves the others as they
were (R111, R128); free values when the address is not on a row boundary. -/
def putBytes (r : VRes) (a : Nat) (c : Core) : Core :=
  let bs := if a % 128 = 0 then r.bytes else (List.range r.bytes.length).map (Config.unaligned a c.ctl.cycle)
  let at0 := a - a % 128
  match r.mask with
  | none => { c with sp := spWriteRows c.sp at0 (cutRows bs) }
  | some (first, count, per) =>
    { c with sp := (List.range 128).foldl (fun s n =>
        if maskBit (first, count) n then spWrite s ((at0 + per * n) % 16777216) (slice bs (per * n) per) else s) c.sp }

/-- Steps of a walk before the next write of the entries whose M bits are given, with the bits left when there is none. -/
def liveStep (bits : List Bool) : Option Nat := bits.findIdx? id

/-- Results still to be written through a binding, and after them entries and vectors still to come: the rows of the next
write and the steps to it, counted from the one now written. -/
def pendingUse (c : Core) (id : Nat) : Option (Nat × Nat) :=
  let rs := c.vx.results.filter fun r => (isWe r.dst0 && r.bind0 == id) || (isWe r.dst1 && r.bind1 == id)
  let ds := c.vx.drains.filter fun d => isWe d.dst && d.bind == id
  let coming := rs.map (fun r => (r.rows, r.live)) ++ ds.flatMap fun d => (d.mBits.drop d.i).map fun m => (drainRowsOf d.out, m)
  match coming.findIdx? (·.2) with
  | some i => some ((coming.getD i (1, true)).1, i + 1)
  | none =>
    (c.vx.runs.find? fun r => (isWe (dstCodes r.word.word).1 && r.bind0 == id) ||
      (isWe (dstCodes r.word.word).2 && r.bind1 == id)).map fun r => (typeRows (fld r.word.word 25 23), coming.length + 1)

/-- The write-end destinations of a result. -/
def resDsts (r : VRes) : List (Nat × Nat) := [(r.dst0, r.bind0), (r.dst1, r.bind1)].filter fun p => isWe p.1

/-- The write accesses of a result's write-end destinations, with their commit markers (R115, R234). `rest`
is the core without the result. -/
def writeAccs (rest : Core) (r : VRes) : List Acc :=
  (resDsts r).filterMap fun p =>
    (bindById rest p.2).map fun b =>
      let rows := accRows (bindAddr b) r.rows
      { port := ⟨5 + p.1, r.wcycle, r.bundle, 0, 0⟩, rows := rows, first := 0
        mark := markPages b.marker (accPages rows) (nextPages rest b (pendingUse rest p.2)) }

/-- A result written through its write ends, each of which moves one step; an entry whose M bit is clear only moves it. -/
def putResult (r : VRes) (c : Core) : Core :=
  (resDsts r).foldl (fun y p =>
    match bindById y p.2 with
    | some b => stepBind (if r.live then putBytes r (bindAddr b) y else y) p.2 1
    | none => y) c

/-- A result leaves the pipeline: its write takes place (R115, R125). -/
def tryWrite (r : VRes) (c : Core) : Try :=
  let rest := { c with vx := { c.vx with results := c.vx.results.erase r } }
  if r.live then schedAccess rest true r.mask.isSome (writeAccs rest r) (putResult r) else .go (putResult r rest)

/-- What takes a result out of the pipeline: its write, or its pushes when it has none. -/
def tryResult (r : VRes) (c : Core) : Try := if isWe r.dst0 || isWe r.dst1 then tryWrite (leftRes r) c else tryPush r c

/-- The write of a result after the core has stopped: abandoned, with the step of its walk, when a page does not permit it
(R211), or when its row cannot be merged. -/
def landWrite (r : VRes) (c : Core) : Core :=
  let rest := { c with vx := { c.vx with results := c.vx.results.erase r } }
  let accs := writeAccs rest r
  let rows := accs.flatMap (·.rows)
  let found := checkRows rest.sp rows
  let ok := (accRefused rest true (accPages rows)).isEmpty && (accPages rows).all (ownsPage rest.pagesLow rest.pagesHigh)
  let skip := fun (x : Core) => (resDsts r).foldl (fun y p => stepBind y p.2 1) x
  if !r.live || !ok then skip rest
  else
    let c1 := if r.mask.isSome then noteChecks rest rows r.bundle false else rest
    if r.mask.isSome && !found.2.isEmpty then skip c1
    else
      let c2 := putResult r { c1 with sp := dropCorr c1.sp rows }
      { c2 with sp := mapTags c2.sp commitTag (accs.flatMap (·.mark)) }

/-- The result in flight that lands first, of vectors or of drains. -/
def firstResult (drain : Bool) (rs : List VRes) : Option VRes :=
  rs.foldl (fun best r => if r.drain != drain then best else match best with
    | some b => if resKey r < resKey b then some r else some b
    | none => some r) none

/-! ### Parameter banks and drains -/

/-- Parameter bank `b`. -/
def paramBank (v : Vx) (b : Nat) : ParamBank := if b = 1 then v.p1 else v.p0

/-- Parameter bank `b` replaced. -/
def setParams (v : Vx) (b : Nat) (p : ParamBank) : Vx := if b = 1 then { v with p1 := p } else { v with p0 := p }

/-- The channel scales are read and the scalars copied; the bias values follow in the next cycle (R123). -/
def startPload (q : QWord) (eb : EndBind) (mark : List Nat) (c : Core) : Core :=
  let w := q.word
  let b := fld w 55 55
  let cb := vecBytes c (bindAddr eb) 256
  let pb : ParamBank :=
    { ready := true, readyAt := q.cycle + 2
      chan := (List.range 128).map fun n => BitVec.ofNat 16 (le16 cb (2 * n))
      bias := []
      outScale := sReg q (fld w 52 49), inScale := sReg q (fld w 48 45), alpha := sReg q (fld w 44 41)
      lo := sReg q (fld w 40 37), hi := sReg q (fld w 36 33) }
  let y := stepBind c eb.id 2
  { y with vx := { setParams y.vx b pb with
    bias := some ⟨q.cycle + 1, b, walkAddr eb.desc eb.base (walkNext eb.desc eb.idx), mark, 2 + fld w 54 53, pb, q.bundle⟩ } }

/-- A parameter-load word (R123, R130). -/
def issuePload (q : QWord) (c : Core) : Try :=
  let w := q.word
  let b := fld w 55 55
  let e := fld w 54 53
  if c.vx.drains.any (fun d => d.pbank == b && decide (c.ctl.cycle ≤ d.t + d.m + 13 + actLatency d.act)) then
    vxCadence 0x23 q.bundle
  else match endBind c e with
    | none => vxCadence 0x26 q.bundle
    | some eb =>
      let r0 := accRows (bindAddr eb) 2
      let r1 := accRows (walkAddr eb.desc eb.base (walkNext eb.desc eb.idx)) 4
      let eb' := { eb with idx := walkNext eb.desc eb.idx }
      schedAccess c false false
        [⟨portOf (2 + e) q, r0, markPages eb.marker (accPages r0) (some (accPages r1)), 0⟩]
        (startPload q eb (markPages eb.marker (accPages r1) (nextPages c eb' none)))

/-- The bias values of a parameter load are read, in the cycle after its issue. -/
def tryBias (c : Core) : Try :=
  match c.vx.bias with
  | none => .go c
  | some r =>
    if r.t ≠ c.ctl.cycle then .go c
    else schedAccess c false false [⟨⟨r.port, r.t - 1, r.bundle, 0, 0⟩, accRows r.addr 4, r.mark, 0⟩] fun x =>
      let bb := vecBytes x r.addr 512
      let p := { r.fill with bias := (List.range 128).map fun n => BitVec.ofNat 32 (rdLe bb (4 * n) 4) }
      { x with vx := { setParams x.vx r.bank p with bias := none } }

/-- The M bits of a drain's entries from its pred_desc (R262). -/
def drainMBits (d : Bytes) (limit : Nat) : Nat → List Nat → List Bool
  | 0, _ => []
  | n + 1, idx => mBitOf d limit idx :: drainMBits d limit n (walkNext d idx)

/-- The addresses of the next `n` steps of a walk. -/
def walkAddrs (d : Bytes) (base : W24) : Nat → List Nat → List Nat
  | 0, _ => []
  | n + 1, idx => walkAddr d base idx :: walkAddrs d base n (walkNext d idx)

/-- The scale accesses of a drain word: their addresses, and the pages their markers apply to (R124, R234). -/
def scaleReads (c : Core) (eb : EndBind) (steps : Nat) : List (Nat × List Nat) :=
  let addrs := walkAddrs eb.desc eb.base steps eb.idx
  addrs.zipIdx.map fun a =>
    let next := if a.2 + 1 < steps then some (accPages (accRows (addrs.getD (a.2 + 1) 0) 4))
      else nextPages c { eb with idx := walkSteps eb.desc (steps - 1) eb.idx } none
    (a.1, markPages eb.marker (accPages (accRows a.1 4)) next)

/-- The entry of a drain that is read in this cycle, with its tag; every 128 entries a vector of scales as well (R124,
R125). -/
def tryEntry (d : DrainState) (c : Core) : Try :=
  let i := d.entries.length
  let a := d.bank * 512 + d.base + i
  let put := fun (x : Core) (e : DrainState) =>
    { x with vx := { x.vx with drains := x.vx.drains.map fun y => if y.t = d.t then e else y } }
  let read : DrainState := { d with entries := d.entries ++ [accLanes c.mx a], tags := d.tags ++ [accTag c.mx a] }
  match (if d.perEntry ∧ i % 128 = 0 then d.scales else []) with
  | s :: rest =>
    schedAccess c false false [⟨portOf (2 + fld d.word.word 26 25) d.word, accRows s.1 4, s.2, 0⟩] fun x =>
      let vs := (List.range 128).map fun n => BitVec.ofNat 32 (rdLe (vecBytes x s.1 512) (4 * n) 4)
      put x { read with inScales := d.inScales ++ vs, scales := rest }
  | [] => .go (put c read)

/-- A drain word's checks in the order of R620, and the read of its first entry (R124, R213, R248). -/
def issueDrain (q : QWord) (c : Core) : Try :=
  let w := q.word
  let bank := fld w 55 54
  let base := fld w 53 45
  let cnt := fld w 38 35
  let m := if bit w 44 then (cReg q cnt).toNat else fld w 43 35 + 1
  let p := paramBank c.vx (fld w 28 28)
  let dst := fld w 19 16
  let re := fld w 26 25
  let cyc := c.ctl.cycle
  if bit w 44 && decide (declaredMax c (fld w 34 29) < m) then ccTry 0x0109 9 0 (16 + cnt) q.bundle
  else if m = 0 then .go c
  else if 512 < base + m then vxTry 0x0101 1 0x08 q.bundle
  else if !p.ready || decide (cyc < p.readyAt) then vxCadence 0x23 q.bundle
  else if c.vx.drains.any (fun d => decide (cyc < d.t + d.m)) then vxCadence 0x24 q.bundle
  else if pendingRows c.mx bank ≠ 0 then vxCadence 0x30 q.bundle
  else if turnCycle c.mx bank = some cyc then vxCadence 0x31 q.bundle
  else if (bit w 27 && (endBind c re).isNone) || (isWe dst && (c.vx.ends.getD (dst + 3) none).isNone) then
    vxCadence 0x26 q.bundle
  else
    let steps := if bit w 27 then ceilDiv m 128 else 0
    let eb := (endBind c re).getD ⟨0, 0, [], 0, [], 0⟩
    let pd := (bankOfCtx c).loops.getD (fld w 14 9) []
    let nm := if bit w 15 then nMaskOf pd else (0, 128)
    let ds : DrainState :=
      { word := q, t := cyc, m := m, i := 0, bank := bank, base := base, entries := [], tags := []
        perEntry := bit w 27, inScale := p.inScale, inScales := [], scales := scaleReads c eb steps
        dst := dst, out := fld w 21 20, act := fld w 24 22, pbank := fld w 28 28, nFirst := nm.1, nCount := nm.2
        mBits := if bit w 15 then drainMBits pd (mLimitOf pd q.c) m walkStart else List.replicate m true
        bind := dstBind c dst }
    let y := if bit w 27 then stepBind c eb.id steps else c
    tryEntry ds { y with vx := { y.vx with drains := y.vx.drains ++ [ds] } }

/-- The activation functions of a drain (R126). -/
def actFn (act : Nat) (p : ParamBank) (y : W32) : W32 :=
  match act with
  | 0 => y
  | 1 => fpMax y 0
  | 2 => fpMin (fpMax y p.lo) p.hi
  | 3 => if fpLt 0 y || fpEq 0 y then y else fpMul y p.alpha
  | 4 => actSigmoid y
  | 5 => actTanh y
  | 6 => fpMul y (actSigmoid y)
  | _ =>
    let t1 := fpMul y y
    let t2 := fpFma t1 0x3D122279 0x3F4C422A
    let t3 := fpMul t2 y
    let t4 := actTanh t3
    let t5 := fpFma t4 0x3F000000 0x3F000000
    fpMul t5 y

/-- v4 of one lane of an entry: steps 1 to 4 (R57). -/
def drainV4 (acc : Int) (tag : Nat) (chan : W16) (inScale : W32) : W32 :=
  fpMul (fpMul (fpMul (fpOfInt acc) (fpPow2 ((tag : Int) - 27))) (bfWiden chan)) inScale

/-- The requantised output of a value: its bytes, its value for a loop-back push, and whether it clipped high
or low (R59, R60, R62, R127, R128). -/
def requant (out : Nat) (scale y : W32) : Bytes × W32 × Bool × Bool :=
  let int := fun (lo hi : Int) =>
    match fpQuot y scale with
    | none => (toLe 1 0, fpOfInt 0, false, false)
    | some (.inl q) =>
      let v := clampInt lo hi q
      (toLe 1 (code 8 v), fpOfInt v, decide (hi < q), decide (q < lo))
    | some (.inr neg) =>
      let v := if neg then lo else hi
      (toLe 1 (code 8 v), fpOfInt v, !neg, neg)
  match out with
  | 0 => int (-128) 127
  | 1 => int (-127) 127
  | 2 => (toLe 2 (bfRound y).toNat, bfWiden (bfRound y), false, false)
  | _ => (toLe 4 y.toNat, y, false, false)

/-- The live counts after one entry's outputs (R62, R63, R127). -/
def countOutputs (s : Stats) (out : Nat) (os : List (Bytes × W32 × Bool × Bool)) : Stats :=
  if out = 3 then s
  else
    let add := fun (v : W32) n => BitVec.ofNat 32 (satAdd 32 v.toNat n)
    { s with produced := add s.produced os.length
             clipHigh := add s.clipHigh (os.filter fun o => o.2.2.1).length
             clipLow := add s.clipLow (os.filter fun o => o.2.2.2).length }

/-- The output of one entry of a drain: for each lane its bytes, its value for a loop-back push and whether it clipped. -/
def entryOutputs (c : Core) (d : DrainState) : List (Bytes × W32 × Bool × Bool) :=
  let p := paramBank c.vx d.pbank
  let entry := d.entries.getD d.i []
  let scale := if d.perEntry then d.inScales.getD d.i 0 else d.inScale
  (List.range 128).map fun n =>
    requant d.out p.outScale (actFn d.act p
      (fpAdd (drainV4 (entry.getD n 0) (d.tags.getD d.i 0) (p.chan.getD n 0) scale) (p.bias.getD n 0)))

/-- The next entry of a drain as it is to be written, with its bytes (R125, R128). -/
def entryRes (d : DrainState) (bs : Bytes) : VRes :=
  { iss := d.t + d.i, due := d.t + d.i + 15 + actLatency d.act, dst0 := d.dst, dst1 := 0, bind0 := d.bind, bind1 := 0
    rows := drainRowsOf d.out, value := [], bytes := bs
    mask := if (d.nFirst, d.nCount) = (0, 128) then none else some (d.nFirst, d.nCount, drainRowsOf d.out)
    live := d.mBits.getD d.i true, drain := true, bundle := d.word.bundle, wcycle := d.word.cycle }

/-- The drain words with the next entry of one of them gone. -/
def dropEntry (d : DrainState) (ds : List DrainState) : List DrainState :=
  ds.flatMap fun x => if x.t = d.t then (if d.i + 1 < x.m then [{ x with i := d.i + 1 }] else []) else [x]

/-- One entry of a drain leaves the requantiser: its outputs are counted, and pushed, or to be written in the next cycle
(R125, R127, R128, R132). DESIGN CHOICE (assumption 57): the outputs of a drain without a destination are counted. A push
into a full queue stops the core, and nothing of the entry executes (R130). -/
def tryEntryOut (d : DrainState) (c : Core) : Try :=
  let nm := (d.nFirst, d.nCount)
  let on := d.mBits.getD d.i true
  let outs := entryOutputs c d
  let shown := (outs.zipIdx.filter fun o => on && maskBit nm o.2).map (·.1)
  let c1 := { c with vx := { c.vx with drains := dropEntry d c.vx.drains, live := countOutputs c.vx.live d.out shown } }
  if isLb d.dst then
    let v := outs.zipIdx.map fun o => if on && maskBit nm o.2 then o.1.2.1 else 0
    match pushAll c.vx.lb v [d.dst - 4] with
    | none => .stop 2 fun x =>
        vxStop { x with vx := { x.vx with drains := dropEntry d x.vx.drains } } 0x0103 3 0x21 d.word.bundle
    | some lb => .go { c1 with vx := { c1.vx with lb := lb } }
  else if isWe d.dst then
    .go { c1 with vx := { c1.vx with results := c1.vx.results ++ [entryRes d (outs.flatMap (·.1))] } }
  else .go c1

/-- What becomes of an event after the core has stopped, when it waits for nothing. -/
def landed (f : Core → Try) (c : Core) : Core :=
  match f c with
  | .go x => x
  | .stop _ g => g c
  | .wait _ _ _ => c

/-- The drain whose next entry leaves it first. -/
def firstDrain (ds : List DrainState) : Option DrainState :=
  ds.foldl (fun best d => match best with
    | some b => if drainOutKey d < drainOutKey b then some d else some b
    | none => some d) none

/-! ### BIND -/

/-- A BIND word (R249): the named end walks the descriptor from its first address. -/
def issueBind (q : QWord) (c : Core) : Core :=
  let w := q.word
  let e := fld w 55 53
  let b : EndBind :=
    { id := c.vx.nextBind, port := e, desc := (bankOfCtx c).loops.getD (fld w 52 47) [], base := aReg q (fld w 46 43)
      idx := walkStart, marker := fld w 42 41 }
  { c with vx := { c.vx with ends := c.vx.ends.set e (some b.id), binds := c.vx.binds ++ [b], nextBind := b.id + 1 } }

/-- The vector word at the head of its queue issues (R246). -/
def tryVectorWord (c : Core) : Try :=
  match c.vq with
  | [] => .go c
  | q :: rest => takeVector c q rest fun c1 =>
    match classOf q.word with
    | 5 => issuePload q c1
    | 6 => issueDrain q c1
    | 7 => .go (issueBind q c1)
    | _ => startVector q c1

end Sys2Proof.Machine
end

