-- ==== Sys2Proof/Machine/Sequencer.lean ====
section
/-!
DEFINITION. The tile sequencer (R267 to R283). A macro's work is done in steps: the load of a tile, the rows of one bank
under it, a pass over the split buffer, an output row, a partial. Each step takes place whole at one cycle of the
counter, in order, and holds or stops the core as its accesses do (assumption 21).
-/

namespace Sys2Proof.Machine

/-! ### Operands -/

def mcOp (w : W64) : Nat := fld w 45 44
def mcDim (w : W64) : Nat := fld w 31 28
def mcSplit (w : W64) : Bool := bit w 14
def mcOut (w : W64) : Nat := fld w 16 15
def mcAct (w : W64) : Nat := fld w 19 17

/-- The counter at place `i` of a macro: M, K or P, and N (R268). -/
def mcCount (ms : MacroState) (i : Nat) : Nat := (ms.c.getD (mcDim ms.word + i) 0).toNat

/-- An address register of a macro (R269). -/
def mcReg (ms : MacroState) (i : Nat) : Int := ((ms.a.getD i 0).toNat : Int)

/-- The strides of the input and output descriptors (R269). -/
def mcStride (c : Core) (desc l : Nat) : Int := ldStride ((bankOfCtx c).loops.getD desc []) l

def mcKT (ms : MacroState) : Nat := ceilDiv (mcCount ms 1) 128
def mcNT (ms : MacroState) : Nat := ceilDiv (mcCount ms 2) 128
def mcGroups (ms : MacroState) : Nat := ceilDiv (mcCount ms 0) 1024

/-- Rows of group `g` (R270). -/
def mcRows (ms : MacroState) (g : Nat) : Nat := min 1024 (mcCount ms 0 - 1024 * g)

/-- Units of work: (group, N block) for GEMM and PARTIAL, one for a COMBINE. -/
def mcUnits (ms : MacroState) : Nat := if mcOp ms.word = 2 then 1 else mcGroups ms * mcNT ms

/-- The address of plane `kp` of row `m` of X. -/
def xAddr (c : Core) (ms : MacroState) (m kp : Nat) : Nat :=
  let d := fld ms.word 43 38
  addr24 (mcReg ms 12 + m * mcStride c d 0 + kp * mcStride c d 1)

/-- The address of partial `p`, row `m`, N block `nb` (R269). -/
def partAddr (c : Core) (ms : MacroState) (p m nb : Nat) : Nat :=
  let d := fld ms.word 43 38
  addr24 (mcReg ms 12 + p * mcStride c d 2 + m * mcStride c d 0 + nb * mcStride c d 1)

/-- The address of N block `nb` of row `m` of Y. -/
def yAddr (c : Core) (ms : MacroState) (m nb : Nat) : Nat :=
  let d := fld ms.word 37 32
  addr24 (mcReg ms 15 + m * mcStride c d 0 + nb * mcStride c d 1)

/-- The address of the record of tile (kt, nt). -/
def recAddr (ms : MacroState) (kt nt : Nat) : Nat := addr24 (mcReg ms 14 + 8 * (nt * mcKT ms + kt : Nat))

/-- The record of tile (kt, nt). -/
def seqRecord (c : Core) (ms : MacroState) (kt nt : Nat) : Bytes := spRead c.sp (recAddr ms kt nt) 8

/-- The address of tile (kt, nt); tile (0, 0) gives the width of all (R269). -/
def tileAddr (ms : MacroState) (kt nt : Nat) : Nat :=
  addr24 (mcReg ms 13 + ((nt * mcKT ms + kt) * tileBytes ms.width : Nat))

/-- The N mask of N block `nb` (R271). -/
def seqNMask (ms : MacroState) (nb : Nat) : Nat × Nat :=
  (0, if nb + 1 = mcNT ms then (mcCount ms 2 - 1) % 128 + 1 else 128)

/-- The K mask of K tile `kt` (R271). -/
def seqKMask (ms : MacroState) (kt : Nat) : Nat × Nat :=
  (0, if kt + 1 = mcKT ms then (mcCount ms 1 - 1) % 128 + 1 else 128)

/-- The parameter bank of the macro; one that is not ready holds free values (R2, R267). -/
def seqParams (c : Core) (ms : MacroState) : ParamBank :=
  let epoch := ms.epoch
  let p := if bit ms.word 21 then c.vx.p1 else c.vx.p0
  if p.ready then p
  else { p with chan := (List.range 128).map fun i => (Config.freeWord epoch i).setWidth 16
                bias := (List.range 128).map fun i => Config.freeWord epoch (128 + i)
                outScale := Config.freeWord epoch 256, inScale := Config.freeWord epoch 257
                alpha := Config.freeWord epoch 258, lo := Config.freeWord epoch 259, hi := Config.freeWord epoch 260 }

/-! ### Accesses -/

/-- A step's accesses of some rows, each of which the sequencer makes in a cycle of its own (R280): the step holds or stops
the core when one of them does, and every row that an error is corrected in adds its own held cycles (R165). Markers take
effect before the step's next access. -/
def seqAccess (c : Core) (user : SpUser) (write merge : Bool) (rows : List (Nat × Nat)) (mark : List Nat) (first : Nat)
    (f : Core → Try) : Try :=
  let n := if write && !merge then 0 else (checkRows c.sp rows).1.length
  match schedAccess { c with sp := { c.sp with busy := [] } } write merge [⟨user, rows, mark, first⟩] id with
  | .go x => f (eccHold { x with sp := { applyMarks x.sp with busy := [] } } (n - 1))
  | r => r

/-- The rows a range of bytes touches. -/
def rangeRows (a n : Nat) : List (Nat × Nat) := accRows (a - a % 128) (ceilDiv (a % 128 + n) 128)

/-- The sequencer as the user of a port (R144), with the pass and entry base of the words at work (R105). -/
def seqUser (ms : MacroState) (code acc : Nat) : SpUser := ⟨code, ms.cycle, ms.bundle, 0, acc⟩

/-! ### Tiles and rows -/

/-- Group and N block of the unit at work. -/
def seqGroup (ms : MacroState) : Nat := ms.unit / max 1 (mcNT ms)

/-- See `seqGroup`. -/
def seqBlock (ms : MacroState) : Nat := ms.unit % max 1 (mcNT ms)

/-- The accumulator address of row `i` of the group at work (R270). -/
def seqEntry (ms : MacroState) (i : Nat) : Nat := (if ms.unit % 2 = 0 then 0 else 1024) + i

/-- A step of the macro has been taken. -/
def seqStep (c : Core) (f : MacroState → MacroState) : Core := { c with seq := c.seq.map f }

/-- The checks of the load word for tile `kt` in the order of R94, with the sequencer's own 0x07 (R280). -/
def loadCheck (c : Core) (ms : MacroState) (record : Bytes) : Option Nat :=
  let a := recAddr ms ms.kt (seqBlock ms)
  let t := tileAddr ms ms.kt (seqBlock ms)
  let recOk := decide (a % 8 = 0) && ownsPage c.pagesLow c.pagesHigh (pageOf a)
  let known := recOk && tagState (tagOf c.sp (pageOf a)) == 1
  let first := ms.unit == 0 && ms.kt == 0
  if !ownsRange c t (if known then tileBytes (recWidth record) else 4096) then some 0x02
  else if t % 128 ≠ 0 then some 0x03
  else if !recOk then some 0x04
  else if known && !first && recWidth record != ms.width then some 0x07 else none

/-- The plane of a tile as the array holds it. -/
def seqTile (c : Core) (ms : MacroState) (record : Bytes) (hi : Bool) : Tile :=
  let w := recWidth record
  let a := tileAddr ms ms.kt (seqBlock ms)
  { codes := spRead c.sp (if hi then a else a + 8192) (128 * loadRows w)
    levels := foldLevels record (bookOf (bankOfCtx c).books (bookIndex record hi))
    emax := recEmax record, width := w, zeroScales := recZero record, addr := a, record := record, hiPlane := hi, loCounted := true }

/-- The tile of tile number `kt` has been loaded: its underflows and its load are counted (R51, R109, R270, R283). -/
def tookTile (ms : MacroState) (record : Bytes) (c : Core) : Core :=
  let bm := recWidth record == 3
  let books := (bankOfCtx c).books
  let under := foldUnderflows record (bookOf books (bookIndex record true)) +
    if bm then foldUnderflows record (bookOf books (bookIndex record false)) else 0
  let c1 := countUnderflow c under
  let t := c.ctl.cycle
  seqStep { c1 with
    regs := { c1.regs with seqTiles := c1.regs.seqTiles + 1 }
    mx := { c1.mx with active := some (seqTile c ms record true), shadow := none, loadCount := c1.mx.loadCount + 1 } }
    fun x => { x with
      loaded := true, half := 0
      width := if ms.unit = 0 ∧ ms.kt = 0 then recWidth record else x.width
      next := if ms.unit = 0 ∧ ms.kt = 0 then t + loadRows (recWidth record) else max (ms.runAt + 24) (t + loadRows (recWidth record)) }

/-- Rows of the `half`-th bank of the group (R270). -/
def halfRows (ms : MacroState) : Nat := min 512 (mcRows ms (seqGroup ms) - 512 * ms.half)

/-- The entry and tile of a split under R272: another exponent, or 1,024 tiles already. -/
def splitDue (c : Core) (ms : MacroState) (record : Bytes) : Bool :=
  ms.tiles != 0 && ((recEmax record != accTag c.mx (seqEntry ms 0) && !recZero record) || ms.tiles == 1024)

/-- The passes of the tile under one row of X: what each adds to the row's sums (R44, R83). -/
def seqPasses (c : Core) (ms : MacroState) (m : Nat) (hiTile loTile : Tile) : List (List Int) :=
  let bm := hiTile.width == 3
  let sp := mcSplit ms.word
  let a := xAddr c ms m ms.kt
  (List.range (passCount bm sp)).map fun p =>
    let hi := passActHi bm sp p
    let xs := rowInputs (vecBytes c (if hi then addr24 (a + 128 : Nat) else a) 128) (sp && !hi) (seqKMask ms ms.kt)
    (columnSums (if passLo bm p then loTile else hiTile) xs).map fun v => if hi then v * 256 else v

/-- A row's lanes after the passes given, with whether a lane was held at its limit (R53). -/
def addPasses (nm : Nat × Nat) (clear : Bool) (old : List Int) : List (List Int) → List Int × Bool
  | [] => (old, false)
  | p :: ps =>
    let r := (List.range 128).map fun n =>
      if maskBit nm n then accSum clear (old.getD n 0) (p.getD n 0) else (old.getD n 0, false)
    let rest := addPasses nm false (r.map (·.1)) ps
    (rest.1, rest.2 || r.any (·.2))

/-- The rows of X that the run word of the half at work reads, in order (R270), with the a_hi plane. -/
def xRows (c : Core) (ms : MacroState) : List Nat :=
  (List.range (halfRows ms)).flatMap fun i =>
    let a := xAddr c ms (1024 * seqGroup ms + 512 * ms.half + i) ms.kt
    if mcSplit ms.word then [a, addr24 (a + 128 : Nat)] else [a]

/-- The run word of a half executed: its rows are summed into their entries (R44, R53, R54, R87, R107, R270). -/
def ranHalf (ms : MacroState) (c : Core) : Core :=
  match c.mx.active with
  | none => c
  | some t =>
    let bm := t.width == 3
    let lo := if bm then seqTile c ms t.record false else t
    let clear := ms.tiles == 0
    let n := halfRows ms
    let passes := passCount bm (mcSplit ms.word)
    let nm := seqNMask ms (seqBlock ms)
    let e := fun (i : Nat) => seqEntry ms (512 * ms.half + i)
    let out := (List.range n).map fun i =>
      (e i, addPasses nm clear (accLanes c.mx (e i)) (seqPasses c ms (1024 * seqGroup ms + 512 * ms.half + i) t lo))
    let ovf := if out.any (·.2.2) then c.mx.ovf ||| (1#4 <<< accBank (e 0)) else c.mx.ovf
    let last := decide (mcRows ms (seqGroup ms) ≤ 512 * (ms.half + 1))
    let cycles := if bm then max n 64 * passes else n * passes
    seqStep { c with mx := { c.mx with
        acc := out.foldl (fun m r => put m r.1 r.2.1) c.mx.acc
        accTags := if clear then out.foldl (fun m r => put m r.1 t.emax) c.mx.accTags else c.mx.accTags
        ovf := ovf
        active := some (if bm then lo else t)
        loadCount := c.mx.loadCount + BitVec.ofNat 32 (if bm then passes - (if ms.half = 0 then 1 else 0) else 0)
        rowCount := c.mx.rowCount + BitVec.ofNat 64 (n * passes)
        ahead := c.mx.ahead + n * passes } }
      fun x => { x with
        half := if last then 0 else x.half + 1
        loaded := !last
        kt := if last then x.kt + 1 else x.kt
        tiles := if last then x.tiles + 1 else x.tiles
        runAt := c.ctl.cycle + cycles
        next := if last ∧ x.kt + 1 = mcKT ms then c.ctl.cycle + cycles + 11 else if last then c.ctl.cycle + 1
          else c.ctl.cycle + cycles }

/-- The run word of the half at work: its checks (R94), then its rows (R270). -/
def seqRun (c : Core) (ms : MacroState) : Try :=
  let xs := xRows c ms
  let base := seqEntry ms (512 * ms.half)
  let ends := [xs.headD 0, xs.getD 1 (xs.headD 0), xs.getD (xs.length - 2) (xs.headD 0), xs.getLastD 0]
  if !ends.all (fun a => ownsPage c.pagesLow c.pagesHigh (pageOf a)) then mxTry 0x0101 1 0 base 0x05 ms.bundle
  else
    let low := match c.mx.active with
      | some t => if t.width = 3 then (rangeRows ((tileAddr ms ms.kt (seqBlock ms) + 8192) % 16777216) 8192) else []
      | none => []
    seqAccess c (seqUser ms 1 base) false false low [] 0 fun x =>
      seqAccess x (seqUser ms 0 base) false false (xs.map fun a => (pageOf a, bankOf a)) [] 0 fun y => .go (ranHalf ms y)

/-- The load word of the tile at work: its checks (R94), then the record's and the tile's rows (R74). -/
def seqLoad (c : Core) (ms : MacroState) : Try :=
  let a := recAddr ms ms.kt (seqBlock ms)
  let t := tileAddr ms ms.kt (seqBlock ms)
  let record := spRead c.sp a 8
  match loadCheck c ms record with
  | some d => mxTry 0x0101 1 0 0 d ms.bundle
  | none =>
    seqAccess c (seqUser ms 1 0) false false [(pageOf a, bankOf a)] [] 0 fun x =>
      seqAccess x (seqUser ms 1 0) false false (accRows t (loadRows (recWidth record))) [] 0 fun y =>
        .go (tookTile ms record y)

/-! ### Drains and the split buffer -/

/-- The rows of the group's entries drained in FP32: v4 of R57 (R272). -/
def drainRows (c : Core) (ms : MacroState) (p : ParamBank) : List (List W32) :=
  (List.range (mcRows ms (seqGroup ms))).map fun i =>
    let m := 1024 * seqGroup ms + i
    let scale := if bit ms.word 20 then
        BitVec.ofNat 32 (rdLe (spRead c.sp (addr24 (mcReg ms 10 + 4 * (m : Nat))) 4) 0 4) else p.inScale
    let lanes := accLanes c.mx (seqEntry ms i)
    (List.range 128).map fun n => drainV4 (lanes.getD n 0) (accTag c.mx (seqEntry ms i)) (p.chan.getD n 0) scale

/-- Two blocks of rows added lane by lane (R272, R276). -/
def addRows (xs ys : List (List W32)) : List (List W32) := (xs.zip ys).map fun p => (p.1.zip p.2).map fun q => fpAdd q.1 q.2

/-- The rows of per-row scales that a drain of the group reads (R269). -/
def scaleRows (ms : MacroState) : List (Nat × Nat) :=
  if bit ms.word 20 then rangeRows (addr24 (mcReg ms 10 + 4 * (1024 * seqGroup ms : Nat))) (4 * mcRows ms (seqGroup ms)) else []

/-- The rows of the split buffer (R269). -/
def bufRows (ms : MacroState) : List (Nat × Nat) := accRows (addr24 (mcReg ms 11)) (4 * mcRows ms (seqGroup ms))

/-- FP32 rows of 512 bytes from an address. -/
def readRows (c : Core) (a : Nat) (n : Nat) : List (List W32) :=
  (List.range n).map fun r =>
    let bs := spRead c.sp (a + 512 * r) 512
    (List.range 128).map fun i => BitVec.ofNat 32 (rdLe bs (4 * i) 4)

/-- FP32 rows of 512 bytes written from an address. -/
def writeRows (c : Core) (a : Nat) (rows : List (List W32)) : Core :=
  { c with sp := rows.zipIdx.foldl (fun s r =>
      spWriteRows s ((a + 512 * r.2) % 16777216) (cutRows (r.1.flatMap fun v => toLe 4 v.toNat))) c.sp }

/-- One pass over the split buffer (R272, R273): the group's entries are drained into it, written at the first pass and
added at later ones, which read the buffer with a release before they write it with a commit. A split is counted. -/
def seqPass (c : Core) (ms : MacroState) (p : ParamBank) (split : Bool) : Try :=
  let buf := bufRows ms
  let a := addr24 (mcReg ms 11)
  let n := mcRows ms (seqGroup ms)
  let pages := accPages buf
  let put := fun (x : Core) (v : List (List W32)) =>
    seqAccess x (seqUser ms 6 0) true false buf pages 0 fun y =>
      let z := writeRows y a v
      .go (seqStep { z with regs := { z.regs with
          seqSplits := if split then BitVec.ofNat 16 (satAdd 16 z.regs.seqSplits.toNat 1) else z.regs.seqSplits } }
        fun m => { m with passes := m.passes + 1, tiles := 0, next := c.ctl.cycle + if split then 2 * n + 40 else 0 })
  seqAccess c (seqUser ms 2 0) false false (scaleRows ms) [] 0 fun x =>
    if ms.passes = 0 then put x (drainRows x ms p)
    else seqAccess x (seqUser ms 2 0) false false buf pages 0 fun y => put y (addRows (readRows y a n) (drainRows x ms p))

/-- The finishing step of R274 on the FP32 sum of one row: y after the activation function. -/
def finishRow (ms : MacroState) (p : ParamBank) (s : List W32) : List W32 :=
  (List.range 128).map fun n => actFn (mcAct ms.word) p (fpAdd (s.getD n 0) (p.bias.getD n 0))

/-- The output type of a macro: PARTIAL writes FP32 (R275). -/
def seqOut (ms : MacroState) : Nat := if mcOp ms.word = 1 then 3 else mcOut ms.word

/-- The output rows of a unit stand ready to be written. -/
def readyRows (c : Core) (ms : MacroState) (p : ParamBank) (s : List (List W32)) : Core :=
  seqStep c fun m => { m with
    rows := if mcOp ms.word = 1 then s else s.map (finishRow ms p)
    row := 0
    least := max m.least (c.ctl.cycle + s.length + 16 + actLatency (if mcOp ms.word = 1 then 0 else mcAct ms.word)) }

/-- The sums of a unit are complete: taken from the split buffer, which is released, or drained (R272 to R275). -/
def seqFinish (c : Core) (ms : MacroState) (p : ParamBank) : Try :=
  let n := mcRows ms (seqGroup ms)
  if ms.passes = 0 then
    seqAccess c (seqUser ms 2 0) false false (scaleRows ms) [] 0 fun x => .go (readyRows x ms p (drainRows x ms p))
  else
    seqAccess c (seqUser ms 2 0) false false (bufRows ms) (accPages (bufRows ms)) 0 fun x =>
      .go (readyRows x ms p (readRows x (addr24 (mcReg ms 11)) n))

/-! ### Output -/

/-- Row and N block of the `r`-th output row of a unit. -/
def outPlace (ms : MacroState) (u r : Nat) : Nat × Nat :=
  if mcOp ms.word = 2 then (r / max 1 (mcNT ms), r % max 1 (mcNT ms))
  else (1024 * (u / max 1 (mcNT ms)) + r, u % max 1 (mcNT ms))

/-- The address of the output row after the one at work. -/
def nextOut (c : Core) (ms : MacroState) : Option Nat :=
  let addr := fun (q : Nat × Nat) => yAddr c ms q.1 q.2
  if ms.row + 1 < ms.rows.length then some (addr (outPlace ms ms.unit (ms.row + 1)))
  else if ms.unit + 1 < mcUnits ms then some (addr (outPlace ms (ms.unit + 1) 0))
  else none

/-- The next output row is written, counted, and committed at page exit (R59, R60, R62, R273 to R275). -/
def writeOut (c : Core) (ms : MacroState) (p : ParamBank) : Try :=
  let q := outPlace ms ms.unit ms.row
  let a := yAddr c ms q.1 q.2
  let out := seqOut ms
  let rows := accRows a (drainRowsOf out)
  let nm := seqNMask ms q.2
  let outs := (ms.rows.getD ms.row []).map fun y =>
    if mcOp ms.word = 1 then (toLe 4 y.toNat, y, false, false) else requant out p.outScale y
  let shown := (outs.zipIdx.filter fun o => maskBit nm o.2).map (·.1)
  let mark := exitPages (accPages rows) ((nextOut c ms).map fun b => accPages (accRows b (drainRowsOf out)))
  let res : VRes :=
    { iss := 0, due := 0, dst0 := 0, dst1 := 0, bind0 := 0, bind1 := 0, rows := drainRowsOf out, value := []
      bytes := outs.flatMap (·.1), mask := if nm = (0, 128) then none else some (nm.1, nm.2, drainRowsOf out), live := true
      drain := true, bundle := ms.bundle, wcycle := ms.cycle }
  let last := decide (ms.rows.length ≤ ms.row + 1)
  seqAccess c (seqUser ms 6 0) true res.mask.isSome rows [] 0 fun x =>
    let y := putBytes res a x
    let live := if mcOp ms.word = 1 then y.vx.live else countOutputs y.vx.live out shown
    .go (seqStep { y with sp := mapTags y.sp commitTag mark, vx := { y.vx with live := live } } fun m =>
      if last then { m with rows := [], row := 0, unit := m.unit + 1, kt := 0, tiles := 0, passes := 0 } else { m with row := m.row + 1 })

/-! ### COMBINE -/

/-- The rows of a partial in order, as addresses (R269). -/
def partRows (c : Core) (ms : MacroState) (p : Nat) : List Nat :=
  (List.range (mcCount ms 0)).flatMap fun m => (List.range (mcNT ms)).map fun nb => partAddr c ms p m nb

/-- The scratchpad rows of a partial. -/
def partBanks (c : Core) (ms : MacroState) (p : Nat) : List (Nat × Nat) := (partRows c ms p).flatMap fun a => accRows a 4

/-- Every page of a partial permits a read. -/
def partReady (c : Core) (ms : MacroState) (p : Nat) : Bool := (accRefused c false (accPages (partBanks c ms p))).isEmpty

/-- One partial of a COMBINE is added, or the core holds on the lowest-numbered one left (R276). -/
def combineStep (c : Core) (ms : MacroState) (par : ParamBank) : Try :=
  let p := (ms.remaining.find? (partReady c ms)).getD (ms.remaining.headD 0)
  let banks := partBanks c ms p
  seqAccess c (seqUser ms 2 0) false false banks (accPages banks) 0 fun x =>
    let v := (partRows c ms p).map fun a => (List.range 128).map fun n => BitVec.ofNat 32 (rdLe (vecBytes x a 512) (4 * n) 4)
    let s := if ms.remaining.length = mcCount ms 1 then v else addRows ms.rows v
    let left := ms.remaining.filter (· != p)
    let y := seqStep x fun m => { m with remaining := left, rows := s, row := 0, next := c.ctl.cycle + v.length }
    .go (if left.isEmpty then readyRows y ms par s else y)

/-! ### Running a macro -/

/-- The next step of the macro at work, at its cycle. -/
def trySeq (c : Core) : Try :=
  match c.seq with
  | none => .go c
  | some ms =>
    let p := seqParams c ms
    let record := spRead c.sp (recAddr ms ms.kt (seqBlock ms)) 8
    if !ms.started || ms.done then .go c
    else if !ms.remaining.isEmpty then combineStep c ms p
    else if !ms.rows.isEmpty then writeOut c ms p
    else if mcUnits ms ≤ ms.unit then .go (seqStep c fun m => { m with done := true })
    else if ms.kt < mcKT ms then
      (if ms.loaded then seqRun c ms
       else if (loadCheck c ms record).isNone && splitDue c ms record then
         seqAccess c (seqUser ms 1 0) false false
           [(pageOf (recAddr ms ms.kt (seqBlock ms)), bankOf (recAddr ms ms.kt (seqBlock ms)))] [] 0 fun x => seqPass x ms p true
       else seqLoad c ms)
    else if ms.passes ≠ 0 ∧ ms.tiles ≠ 0 then seqPass c ms p false
    else seqFinish c ms p

/-- The cycle of the macro's next step. -/
def seqKey (c : Core) : Option Nat :=
  c.seq.bind fun ms => if ms.started && !ms.done then some (atCycle ms.next) else none

/-- Enough steps for a macro. -/
def macroFuel (c : Core) : Nat :=
  match c.seq with
  | some ms => mcUnits ms * (5 * mcKT ms + 8) + (mcGroups ms * 1024 + mcCount ms 0) * mcNT ms + 2 * ms.remaining.length + 8
  | none => 0

/-- A counter above its declared maximum (R268). -/
def macroMax (c : Core) (ms : MacroState) : Option Nat :=
  (List.range 3).find? fun i => decide (declaredMax c (fld ms.word 27 22 + i) < mcCount ms i)

/-- The macro begins at the counter's cycle: its counters are checked, and one that is 0 leaves it no work (R268, R282,
R283). -/
def beginMacro (epoch : Nat) (c : Core) : Try :=
  match c.seq with
  | none => .go c
  | some ms =>
    match macroMax c ms with
    | some i => ccTry 0x0109 9 0 (16 + mcDim ms.word + i) ms.bundle
    | none =>
      let idle := (List.range 3).any fun i => mcCount ms i == 0
      .go { c with
        seq := some { ms with
          started := true
          epoch := epoch
          start := c.ctl.cycle
          next := c.ctl.cycle
          idle := idle
          done := idle
          remaining := if mcOp ms.word = 2 && !idle then List.range (mcCount ms 1) else [] }
        regs := { c.regs with seqActive := true, seqOp := BitVec.ofNat 2 (mcOp ms.word), seqSplits := 0, seqTiles := 0 } }

/-- What a finished macro leaves (R279). -/
def afterMacro (c : Core) (epoch : Nat) : Core :=
  { c with
    mx := { c.mx with
      shadow := none, acc := [], accTags := [], accFree := some epoch, tagFree := some (epoch + 1), nextRun := 0, ahead := 0 }
    vx := { c.vx with lb := [[], [], [], []], ends := List.replicate 6 none } }

/-- The token of a macro (R267, R278). -/
def macroToken (ms : MacroState) : Option (Nat × Nat) :=
  if bit ms.word 13 then some (fld ms.word 12 8, fld ms.word 7 5) else none

/-- A macro as it stands when its bundle is taken. -/
def newMacro (w : W64) (t : Ctl) : MacroState :=
  { word := w, cycle := t.sectionBase + t.offset, bundle := t.pc, a := t.a, c := t.c, epoch := 0, started := false, done := false
    idle := false, start := 0, next := 0, unit := 0, kt := 0, loaded := false, half := 0, tiles := 0, passes := 0, width := 0
    runAt := 0, least := 0, row := 0, rows := [], remaining := [] }

end Sys2Proof.Machine
end

