-- ==== Sys2Proof/Machine/Cycle.lean ====
section
/-!
DEFINITION. Move words at their issue (R189, R197, R251 to R253), and the cycles of a core: what falls in a cycle takes
place as a whole or not at all (R195, R199, R200, R203, R211), and work that no command names takes place in its cycle
before anything later does (R74, R84, R123 to R125).
-/

namespace Sys2Proof.Machine

/-! ### Move words -/

/-- A move word leaves its queue at its issue cycle (R196); it then pops its token (R207). -/
def takeMove (c : Core) (q : QWord) (rest : List QWord) (f : Core → Try) : Try :=
  if q.cycle + 1 < c.mvLast then ccTry 0x0103 3 3 0x40 q.bundle
  else if q.cycle + 1 = c.mvLast then ccTry 0x0103 3 3 0x41 q.bundle
  else popToken { c with movq := rest, mvLast := q.cycle + 1 } q f

/-- The token a move word delivers, as lane and token end (R251). -/
def moveToken (w : W64) : Option (Nat × Nat) := if bit w 24 then some (fld w 23 19, fld w 18 16) else none

/-- A transfer starts (R197). -/
def startXfer (c : Core) (kind : XferKind) (q : QWord) (desc : Bytes) (srcBase dstBase reps : Nat)
    (token : Option (Nat × Nat)) (failed : Option (Nat × Nat)) : Core :=
  let x : Xfer :=
    { id := c.mv.nextId, kind := kind, ctx := c.ctx.getD 0xFF, lane := c.lane, bundle := q.bundle, desc := desc
      srcBase := srcBase, dstBase := dstBase, reps := reps, rep := 0, rd := 0, wr := 0, buf := []
      staged := false, busy := false, token := token, failed := failed }
  { c with mv := { c.mv with xfers := c.mv.xfers ++ [x], nextId := c.mv.nextId + 1 } }

/-- A DMA word (R251). -/
def issueDma (q : QWord) (c : Core) : Try :=
  let w := q.word
  let cnt := fld w 34 31
  let n := if bit w 43 then (cReg q cnt).toNat else fld w 42 31 + 1
  if bit w 43 && decide (declaredMax c (fld w 30 25) < n) then ccTry 0x0109 9 0 (16 + cnt) q.bundle
  else
    let d := (bankOfCtx c).xfers.getD (fld w 55 48) []
    let a := (aReg q (fld w 47 44)).toNat
    let own := fun (kind addr : Nat) => if kind = 1 ∧ addr / 2 ^ 24 % 32 = c.lane then a else 0
    .go (startXfer c .dma q d (own (tdSrcKind d) (tdSrcAddr d)) (own (tdDstKind d) (tdDstAddr d)) n (moveToken w) none)

/-- A SEND word (R253). -/
def issueSend (q : QWord) (c : Core) : Core :=
  let w := q.word
  let src := (aReg q (fld w 50 47)).toNat
  let dst := (aReg q (fld w 46 43)).toNat
  let d := tdOfRows c.lane (fld w 55 51) src dst (fld w 42 31 + 1) (fld w 30 29) (fld w 28 27)
  startXfer c .send q d 0 0 1 (moveToken w) (if src % 128 = 0 ∧ dst % 128 = 0 then none else some (0x0107, 0))

/-- A TAG word (R252). -/
def issueTag (q : QWord) (c : Core) : Core :=
  let w := q.word
  startXfer c (.tagOp (bit w 55)) q [] (fld w 54 50) (((aReg q (fld w 49 46)).toNat / 4096 + fld w 45 34) % 4096)
    (fld w 33 22 + 1) none none

/-- A transfer writes rows of a lane's scratchpad (R189). -/
def targetsLane (lane : Nat) (x : Xfer) : Bool :=
  (match x.kind with | .tagOp _ => false | _ => true) && tdDstKind x.desc == 1 && tdDstAddr x.desc / 2 ^ 24 % 32 == lane

/-- A FLAG word (R189, R252): the flag write waits in the move engine. -/
def issueFlag (q : QWord) (c : Core) : Core :=
  let lane := fld q.word 49 45
  let behind := (c.mv.xfers.filter (targetsLane lane)).map (·.id)
  { c with mv := { c.mv with
    flagWrites := c.mv.flagWrites ++ [⟨c.ctx.getD 0xFF, lane, q.bundle, fld q.word 55 50, behind⟩] } }

/-- The move word at the head of its queue issues. -/
def tryMove (c : Core) : Try :=
  match c.movq with
  | [] => .go c
  | q :: rest => takeMove c q rest fun c1 =>
    match classOf q.word with
    | 0 => issueDma q c1
    | 1 => .go (issueSend q c1)
    | 2 => .go (issueTag q c1)
    | _ => .go (issueFlag q c1)

/-! ### A cycle as a whole -/

/-- An event that takes place once the cycle its key names has come. -/
def whenDue (t : Nat) (key : Core → Option Nat) (f : Core → Try) (c : Core) : Try :=
  if (key c).any fun k => decide (k ≤ atCycle t) then f c else .go c

/-- The work of a cycle that no command names: a row of a tile load or reload, the bias values of a parameter load, and
the entries drains read (R74, R84, R123 to R125), and the next step of a macro (R270). -/
def innerWork (c : Core) (t : Nat) : List (Core → Try) :=
  [whenDue t (fun x => x.mx.loading.bind fun l => if l.got < l.rows then some (atCycle (l.start + l.got)) else none) tryLoadRow,
    whenDue t (fun x => x.vx.bias.map fun b => atCycle b.t) tryBias, whenDue t seqKey trySeq] ++
  (c.vx.drains.filter fun d => decide (d.entries.length < d.m) && d.t + d.entries.length == t).map tryEntry

/-- The words that issue in a cycle: a run word, then a load word (R76), and the heads of the vector and move queues. -/
def wordWork (t : Nat) : List (Core → Try) :=
  [whenDue t (fun x => (nextRunWord x).map fun p => atCycle p.1.cycle) tryRun,
    whenDue t (fun x => (nextLoadWord x).map fun p => atCycle p.1.cycle) tryLoad,
    whenDue t (fun x => x.vq.head?.map fun q => atCycle q.cycle) tryVectorWord,
    whenDue t (fun x => x.movq.head?.map fun q => atCycle q.cycle) tryMove]

/-- The work of a cycle that commands name: a row and the opening of a pass, results to be written, vectors and columns,
and the words that issue; words behind those would issue in a cycle that is theirs already (R196). -/
def namedWork (c : Core) (t : Nat) : List (Core → Try) :=
  [whenDue t (fun x => x.mx.run.bind fun r => if r.opened then some (runKey r) else none) tryRow,
    whenDue t (fun x => x.mx.run.bind fun r => if r.opened then none else some (runKey r)) tryPassOpen] ++
  (c.vx.results.filter fun r => resKey r == atCycle t).map tryWrite ++
  (c.vx.runs.filter fun r => vrunKey r == atCycle t).map tryStep ++ wordWork t ++ wordWork t

/-- The pushes at the end of a cycle of results that are written in the next one (R115). -/
def splitPushes (c : Core) (t : Nat) : List (Core → Try) :=
  (c.vx.results.filter fun r => splitRes r && r.due == t + 1).map tryPush

/-- The entries of drains to a write end that are counted at the end of a cycle (R125). -/
def innerEntries (c : Core) (t : Nat) : List (Core → Try) :=
  (c.vx.drains.filter fun d => isWe d.dst && drainKey d == atEnd t).map tryEntryOut

/-- All pushes at the end of a cycle, which may stop the core in it (R130). -/
def endWork (c : Core) (t : Nat) : List (Core → Try) :=
  splitPushes c t ++ (c.vx.results.filter fun r => !isWe r.dst0 && !isWe r.dst1 && r.due == t + 1).map tryPush ++
    (c.vx.drains.filter fun d => isLb d.dst && drainKey d == atEnd t).map tryEntryOut

/-- What the events of a cycle come to together: the core when none of them waits or stops it, the pages and token ends
waited for, with the first waiting bundle, and the stops, by unit. -/
structure Outlook where
  core : Core
  pages : List (Nat × Bool)
  tokens : List Nat
  bundle : Option Nat
  stops : List (Nat × (Core → Core))

/-- Events tried in order: each sees the effects of those before it that take place. -/
def tryAll : List (Core → Try) → Outlook → Outlook
  | [], o => o
  | f :: fs, o =>
    match f o.core with
    | .go c => tryAll fs { o with core := c }
    | .wait ps ts b => tryAll fs { o with
        pages := o.pages ++ ps
        tokens := o.tokens ++ ts
        bundle := some (o.bundle.getD b) }
    | .stop u g => tryAll fs { o with stops := if o.stops.any (·.1 == u) then o.stops else o.stops ++ [(u, g)] }

/-- Nothing tried yet. -/
def Outlook.start (c : Core) : Outlook := ⟨c, [], [], none, []⟩

/-- The events of the counter's cycle, tried together; the pushes at its end are tried for their faults only. -/
def tryCycle (c : Core) : Outlook :=
  let t := c.ctl.cycle
  let o := tryAll (namedWork c t) (.start c)
  let o1 := tryAll (innerWork o.core t) o
  { tryAll (endWork o1.core t) o1 with core := o1.core }

/-- The core begins to hold at the counter's cycle (R200, R203). The watchdog's count goes on when the cycle before was
held too (R204). -/
def beginHold (c : Core) (pages : List (Nat × Bool)) (tokens : List Nat) (late : Bool) (bundle : Nat) : Core :=
  { c with
    hold := { c.hold with
      pages := pages.eraseDups
      tokens := tokens.eraseDups
      late := late
      watch := if c.hold.cycle = c.ctl.cycle then c.hold.watch else 0
      cycle := c.ctl.cycle
      bundle := bundle }
    sp := { c.sp with used := [] } }

/-- What a cycle's outlook makes of the core: stopped (R211), holding (R200), or going on with `f`. A core that stops or
holds has done nothing of the cycle, and in a cycle held by a late word no check of a word is made. -/
def settleCycle (c : Core) (late : Bool) (o : Outlook) (f : Core → Core) : Core :=
  if !late && !o.stops.isEmpty then o.stops.foldl (fun x s => s.2 x) c
  else if late || !o.pages.isEmpty || !o.tokens.isEmpty then
    beginHold c o.pages o.tokens late (if late then c.ctl.pc else o.bundle.getD c.ctl.pc)
  else f c

/-- What one more event comes to in a cycle that has been cleared. -/
def settleTry (c : Core) (r : Try) : Core :=
  match r with
  | .go x => x
  | .wait ps ts b => beginHold c ps ts false b
  | .stop _ g => g c

/-- The inner work of the counter's cycle. -/
def doInner (c : Core) : Core :=
  if c.regs.stopped || waitHeld c then c
  else settleCycle c false (tryAll (innerWork c c.ctl.cycle) (.start c)) fun _ =>
    (tryAll (innerWork c c.ctl.cycle) (.start c)).core

/-- A cycle entered: when nothing in it waits or stops the core it is cleared, and its inner work done (R200). -/
def clearCycle (c : Core) : Core :=
  if c.ctl.cleared = c.ctl.cycle + 1 then c
  else settleCycle c (lateAt c c.ctl.cycle) (tryCycle c) fun x => doInner { x with ctl := { x.ctl with cleared := x.ctl.cycle + 1 } }

/-- The cycle has been cleared and the core still runs. -/
def clearNow (c : Core) : Bool := !c.regs.stopped && !waitHeld c && c.ctl.cleared == c.ctl.cycle + 1

/-! ### Inner work in time -/

/-- The keys of the inner work a core has still to do. -/
def innerKeys (c : Core) : List Nat :=
  (match c.mx.loading with | some l => if l.got < l.rows then [atCycle (l.start + l.got)] else [] | none => []) ++
  (match c.vx.bias with | some b => [atCycle b.t] | none => []) ++ (seqKey c).toList ++
  (c.vx.drains.filter fun d => decide (d.entries.length < d.m)).map (fun d => atCycle (d.t + d.entries.length)) ++
  (c.vx.drains.filter fun d => isWe d.dst).map drainKey ++
  (c.vx.results.filter splitRes).map fun r => atEnd (r.due - 1)

/-- The least of some keys. -/
def leastKey (ks : List Nat) : Option Nat := ks.min?

/-- The inner work with a key: of a cycle, which the core enters for it, or of a cycle's end. -/
def innerAt (c : Core) (k : Nat) : Core :=
  if k % 2 = 0 then clearCycle (advanceTo c (k / 2))
  else
    let x := if c.regs.stopped then c else advanceTo c (k / 2)
    let work := splitPushes x (k / 2) ++ innerEntries x (k / 2)
    let o := tryAll work (.start x)
    if o.stops.isEmpty then o.core else o.stops.foldl (fun y s => s.2 y) x

/-- The inner work that comes before a key done, as far as the core neither holds nor stops. -/
def catchUp : Nat → Core → Nat → Core
  | 0, c, _ => c
  | n + 1, c, key =>
    match leastKey (innerKeys c) with
    | none => c
    | some k =>
      if key ≤ k || waitHeld c || (decide (0 < c.hold.eccLeft) && decide (c.ctl.cycle < k / 2)) then c
      else
        let c1 := innerAt c k
        if c1.regs.stopped && !c.regs.stopped then c1 else catchUp n c1 key

/-- Enough steps to do all inner work. -/
def innerFuel (c : Core) : Nat :=
  (match c.mx.loading with | some l => l.rows | none => 0) + (c.vx.drains.map fun d => 2 * d.m + 1).sum + c.vx.results.length + macroFuel c + 4

/-- The core with the inner work before a key done. -/
def reach (c : Core) (key : Nat) : Core := catchUp (innerFuel c) c key

/-- The core waits at a bundle that its counter has reached and that is not processed (R199): after the work before it. -/
def beginLate (c : Core) : Core :=
  let o := (nextBundleCycle c).getD 0
  let c1 := reach c (atCycle o)
  if c1.regs.stopped || waitHeld c1 then c1 else clearCycle (advanceTo c1 (max o c1.ctl.cycle))

/-- The core may go on to a key: it runs, no hold stops it, and nothing that a command names comes before. -/
def mayGo (c : Core) (key : Nat) : Bool :=
  c.started && !c.regs.stopped && !waitHeld c && !(decide (0 < c.hold.eccLeft) && decide (c.ctl.cycle < key / 2)) && isNext c key

/-- The core brought to a key, which its answer has reached when it still runs and does not hold; a bundle that is not
processed in time makes it hold (R199, R200). -/
def arrive (c : Core) (key : Nat) : Core :=
  if lateAt c (key / 2) then beginLate c
  else
    let c1 := reach c key
    if c1.regs.stopped || waitHeld c1 || (decide (0 < c1.hold.eccLeft) && decide (c1.ctl.cycle < key / 2)) then c1
    else if key % 2 = 0 then clearCycle (advanceTo c1 (key / 2)) else advanceTo c1 (key / 2)

/-- The core has arrived at a key. -/
def arrived (c : Core) (key : Nat) : Bool :=
  !c.regs.stopped && !waitHeld c && decide (key / 2 ≤ c.ctl.cycle) && (key % 2 == 1 || c.ctl.cleared == c.ctl.cycle + 1)

/-- The cycle ends once nothing is left to happen in it. -/
def finishCycle (c : Core) : Core :=
  if c.regs.stopped then endCycle c
  else if isNext c (atEnd c.ctl.cycle + 1) then endCycle (reach c (atEnd c.ctl.cycle + 1)) else c

/-- An event of a running core with this key: it happens if no hold stops it and nothing comes before it, in a cycle in
which every event may take place; otherwise the core holds or stops (R195, R199, R200, R211). -/
def coreEvent (c : Core) (key : Nat) (f : Core → Try) : Core :=
  if !mayGo c key then c
  else
    let c1 := arrive c key
    if arrived c1 key then finishCycle (doInner { settleTry c1 (f c1) with workEnd := c1.ctl.cycle + 1 }) else c1

/-- An event of work already issued, which also takes place after the core has stopped (R211). -/
def landEvent (c : Core) (key : Nat) (f : Core → Try) (landed : Core → Core) : Core :=
  if !c.regs.stopped then coreEvent c key f
  else if isNext c key then endCycle (landed (reach c key)) else c

/-- The counter of a running core moved to a cycle in which it has nothing to do. -/
def idleTo (c : Core) (t : Nat) : Core := if mayGo c (atCycle t) then arrive c (atCycle t) else c

/-- A hold's waiting cause has ended: when none is left, the events of the held cycle take place (R155, R203, R207). -/
def resume (c : Core) : Core :=
  if waitHeld c || c.regs.stopped then c
  else settleCycle c (lateAt c c.ctl.cycle) (tryCycle c) fun x =>
    finishCycle { (tryCycle x).core with ctl := { (tryCycle x).core.ctl with cleared := x.ctl.cycle + 1 } }

/-! ### Bank cycles left to unscheduled accesses -/

/-- No access has used the bank in the counter's cycle; in a hold for error correction, no more accesses than it has
cycles, with the one before it (R142, R147). -/
def bankFree (c : Core) (b : Nat) : Bool :=
  let busy := c.sp.busy.any fun a => a.bank == b
  decide (look c.sp.used b 0 < c.hold.eccLeft + if busy then 0 else 1)

/-- The core in the first cycle that leaves some banks to unscheduled accesses (R142, R147): the present one, once its
scheduled accesses have taken place, or a later one in which the core has nothing to do, looked for over `n` cycles. Every
bank is free while the core is held by a waiting cause, which lasts as long as its accesses need, or does not run. -/
def atFree : Nat → Core → List Nat → Option Core
  | 0, _, _ => none
  | n + 1, c, banks =>
    let t := c.ctl.cycle
    if !c.started || c.regs.stopped || waitHeld c then some c
    else if !isNext c (atEnd t) then none
    else
      let c1 := reach c (atEnd t)
      if c1.regs.stopped || waitHeld c1 || banks.all (bankFree c1) then some c1
      else if mayGo c1 (atEnd (t + 1)) && !lateAt c1 (t + 1) then atFree n (arrive c1 (atCycle (t + 1))) banks
      else none

/-- The banks have each made an unscheduled access in the present cycle (R142). -/
def useBanks (c : Core) (banks : List Nat) : Core :=
  { c with sp := { c.sp with used := banks.foldl (fun u b => if b < 32 then put u b (look u b 0 + 1) else u) c.sp.used } }

end Sys2Proof.Machine
end

