-- ==== Sys2Proof/Machine/Control.lean ====
section
/-!
DEFINITION. The control core (R187 to R223, R236 to R242): processing of bundles with their slot-0 operation,
the pushes of engine words with copied registers, loops, SYNC and rebasing, holds and their ends.
-/

namespace Sys2Proof.Machine

/-- The engine word of a slot with the register values it copies (R192, R195). -/
def pushWord (t : Ctl) (w : W64) : QWord :=
  { word := w, cycle := t.sectionBase + t.offset + skewOf w, bundle := t.pc, a := t.a, c := t.c, s := t.s }

/-- The queue of slot 1, 2 or 3 is full (R196). -/
def queueFull (c : Core) (slot : Nat) : Bool :=
  match slot with
  | 1 => decide (512 ≤ c.mq.length)
  | 2 => decide (512 ≤ c.vq.length)
  | _ => decide (256 ≤ c.movq.length)

/-- The word of a slot pushed into its queue. -/
def pushSlot (c : Core) (b : BitVec 256) (slot : Nat) : Core :=
  let w := slotOf b slot
  let ws := if validOf w then [pushWord c.ctl w] else []
  let ctl := { c.ctl with pushed := slot + 1 }
  match slot with
  | 1 => { c with ctl := ctl, mq := c.mq ++ ws }
  | 2 => { c with ctl := ctl, vq := c.vq ++ ws }
  | _ => { c with ctl := ctl, movq := c.movq ++ ws }

/-- The bundle's words from a slot on pushed, slot by slot, as far as the queues have room (R192, R198, R238). -/
def pushFrom (b : BitVec 256) : Nat → Nat → Core → Core
  | 0, _, c => c
  | n + 1, slot, c =>
    if validOf (slotOf b slot) && queueFull c slot then c else pushFrom b n (slot + 1) (pushSlot c b slot)

/-- When the control core settles that no further word comes while nothing is in flight, the lane's end does not follow from
the cycle of its last work. -/
def noteIdle (c : Core) : Core := if pipesEmpty c then { c with mv := { c.mv with lastAt := c.workEnd + 1 } } else c

/-- The control core has processed bundle `i`: its stop is reached at the n-th time (R296). -/
def stopCheck (c : Core) (i : Nat) : Core :=
  let w := c.ctl.stopAt
  if bit w 63 && fld w 51 32 == i then
    let n := c.ctl.stopSeen + 1
    let c1 := { c with ctl := { c.ctl with stopSeen := n } }
    if n = max 1 (fld w 31 0) then noteIdle { c1 with regs := { c1.regs with halting := true } } else c1
  else c

/-- The end of a bundle's processing once its words are pushed: comparators, offset, next bundle (R188, R194, R238). -/
def finishBundle (c : Core) (b : BitVec 256) : Core :=
  if c.ctl.pushed < 4 then c
  else
    let i := c.ctl.pc
    let t := evalComparators c.ctl
    stopCheck { c with ctl := { t with
      offset := t.offset + advanceOf (slotOf b 0), pc := t.nextPc, pushed := 0, high := max t.high (i + 1) } } i

/-- The bundle goes on from where its pushes stand (R238): a bundle whose slot-0 operation has not been executed, or has
stopped the core, pushes nothing. -/
def goOn (c : Core) (b : BitVec 256) : Core :=
  if c.ctl.pushed = 0 then c else finishBundle (pushFrom b (4 - c.ctl.pushed) c.ctl.pushed c) b

/-- The slot-0 operation has been executed: the bundle that follows and the loop stack are settled. -/
def begun (c : Core) (next : Nat × List LoopFrame) : Core :=
  { c with ctl := { c.ctl with nextPc := next.1, loops := next.2, pushed := 1 } }

/-- The control core may take a bundle (R198, R241, R297). -/
def canProcess (c : Core) : Bool :=
  c.started && !c.regs.stopped && !c.ctl.ended && !c.ctl.syncWait && !c.regs.halting && c.seq.isNone

/-- The control core takes the bundle at its pc if its opcode is `op`: it executes the slot-0 operation, unless it has
already, and pushes the words (R198, R238). It stops at a bundle whose fetch failed, for which the memory controller
made the log entry (R255). -/
def takeBundle (c : Core) (op : Nat) (f : W64 → Core → Core) : Core :=
  if !canProcess c then c
  else match bundleAt c.ctl c.ctl.pc with
    | none =>
      if c.ctl.fetchFail.contains c.ctl.pc then
        stopCore (report c ⟨1, 6, 0x010A, 0xFF, c.ctl.pc, 0, 0⟩) false
      else c
    | some b =>
      if opOf (slotOf b 0) ≠ op then c
      else if c.ctl.pushed = 0 then goOn (f (slotOf b 0) c) b else goOn c b

/-- A bundle whose slot-0 operation changes the control core only by `f` (R238, R239). -/
def plainBundle (c : Core) (op : Nat) (f : W64 → Ctl → Ctl) : Core :=
  takeBundle c op fun w x =>
    let y := { x with ctl := f w x.ctl }
    begun y (nextBundle y.ctl.loops y.ctl.pc)

/-- LOOP (R190, R191, R240). -/
def loopBundle (c : Core) : Core :=
  takeBundle c 0x10 fun w x =>
    if bit w 45 && decide (declaredMax x (fld w 32 27) < loopCount x.ctl w) then
      ccStop x 0x0109 9 0 (fld w 36 33) x.ctl.pc false
    else begun x (loopNext x.ctl w)

/-- BREAK (R190, R239). -/
def breakBundle (c : Core) : Core := takeBundle c 0x11 fun w x => begun x (breakNext x.ctl w)

/-- SYNC (R198, R208): the control core stops at it. One whose condition holds already is released at its nominal cycle,
which the counter cannot pass before the bundle is reached (R199). -/
def syncBundle (c : Core) : Core :=
  takeBundle c 0x14 fun w x =>
    { x with ctl := { x.ctl with syncWait := true, syncExact := syncHolds x.ctl w }, hold := { x.hold with syncWatch := 0 } }

/-- The condition of the SYNC at the pc has ceased to hold before its nominal cycle, or still holds. -/
def keepExact (c : Core) : Core :=
  match bundleAt c.ctl c.ctl.pc with
  | some b => { c with ctl := { c.ctl with syncExact := c.ctl.syncExact && syncHolds c.ctl (slotOf b 0) } }
  | none => c

/-- A wait is within the watchdog's limit, or the watchdog is suspended (R204, R298). -/
def withinLimit (c : Core) (free : Bool) (n : Nat) : Bool := free || decide (n ≤ wdtLimit c)

/-- SYNC_RELEASE, `waited` cycles after the nominal cycle (R208, R209, R222); `free` says that the watchdog is suspended
(R298). -/
def releaseSync (free : Bool) (waited : Nat) (c0 : Core) : Core :=
  let c := keepExact c0
  let t := c.ctl
  let r := t.sectionBase + t.offset + waited
  match bundleAt t t.pc with
  | none => c
  | some b =>
    let w := slotOf b 0
    if !t.syncWait || c.regs.stopped || !syncHolds t w || decide (r < t.cycle) || (t.syncExact && waited != 0) ||
        t.cleared == r + 1 || (holdCause c != 0 && decide (t.cycle < r)) || !isNext c (atCycle r - 1) ||
        !withinLimit c free (c.hold.syncWatch + waited) then c
    else
      let c1 := reach c (atCycle r)
      if c1.regs.stopped || (holdCause c1 != 0 && decide (c1.ctl.cycle < r)) then c1
      else
        let c2 := advanceTo c1 r
        let c3 := { c2 with
          ctl := { c2.ctl with
            syncWait := false
            syncExact := false
            sectionBase := r
            offset := 0
            flags := syncFlags t w
            tokens := (syncPops t w).foldl (fun ts i => modAt ts i (fun n => n - 1)) t.tokens }
          regs := { c2.regs with syncWaitCycles := addCount c2.regs.syncWaitCycles (waited + c.hold.syncWatch) }
          hold := { c2.hold with syncWatch := 0 } }
        goOn (begun c3 (nextBundle c3.ctl.loops c3.ctl.pc)) b

/-- MACRO (R241, R267): the lane's engines belong to the macro until it completes. -/
def macroBundle (c : Core) : Core :=
  takeBundle c 0x18 fun w x =>
    let t := x.ctl
    { x with seq := some (newMacro w t)
             ctl := { evalComparators t with high := max t.high (t.pc + 1) } }

/-- END (R239, R241). -/
def endBundle (c : Core) : Core :=
  takeBundle c 0x3F fun _ x =>
    stopCheck (noteIdle { x with
      ctl := { evalComparators x.ctl with ended := true, high := max x.ctl.high (x.ctl.pc + 1) } }) x.ctl.pc

/-! ### Start and completion -/

/-- MACRO_START: the first word issues in its cycle, `waited` cycles after the bundle's issue cycle (R277). -/
def startMacro (waited epoch : Nat) (c : Core) : Core :=
  match c.seq with
  | none => c
  | some ms =>
    if ms.started || !pipesEmpty c || c.mx.loading.isSome || ms.cycle + waited != macroFirst c ms then c
    else coreEvent c (atCycle (macroFirst c ms)) (beginMacro epoch)

/-- The macro completes at the counter's cycle, which begins a new section (R278). -/
def endMacro (c : Core) (epoch : Nat) : Core :=
  let y := afterMacro c epoch
  let i := y.ctl.pc
  let n := nextBundle y.ctl.loops i
  stopCheck { y with
    seq := none
    regs := { y.regs with seqActive := false }
    workEnd := y.ctl.cycle
    ctl := { y.ctl with sectionBase := y.ctl.cycle, offset := 0, pc := n.1, loops := n.2 } } i

/-- MACRO_COMPLETE `ran` cycles after the first word (R278): its work is done, with its least time; a macro without work
completes at once (R268). -/
def completeMacro (ran epoch : Nat) (c : Core) : Core :=
  match c.seq with
  | none => c
  | some ms =>
    let t := ms.start + ran
    if !ms.started || !mayGo c (atCycle t) then c
    else
      let c1 := arrive c (atCycle t)
      if !arrived c1 (atCycle t) then c1
      else match c1.seq with
        | some m => if m.done && decide (m.least ≤ t) && (!m.idle || ran == 0) then finishCycle (endMacro c1 epoch) else c
        | none => c

/-- The held cycles of a waiting cause end: they are at least one, and as many as any bank has served requests in them
(R142, R147). -/
def holdLasts (c : Core) (held : Nat) : Bool :=
  decide (1 ≤ c.hold.watch + held) && c.sp.used.all fun u => decide (u.2 ≤ c.hold.watch + held)

/-- LATE_WORD_HOLD_END after `held` more held cycles (R199): of a hold whose bundle has been processed the end, and of one
that nothing has met yet, because no word is there to issue, the cycles so far. -/
def endLate (free : Bool) (held : Nat) (c : Core) : Core :=
  let o := (nextBundleCycle c).getD 0
  if c.regs.stopped then c
  else if c.hold.late then
    if !lateAt c c.ctl.cycle && holdLasts c held && withinLimit c free (c.hold.watch + held) then
      let c1 := countHeld c held
      { c1 with hold := { c1.hold with late := false }, sp := { c1.sp with used := [] } }
    else c
  else if (nextBundleCycle c).isSome && !waitHeld c && isNext c (atCycle o) && decide (1 ≤ held) then
    let c1 := beginLate c
    if c1.hold.late && withinLimit c1 free (c1.hold.watch + held) then countHeld c1 held else c1
  else c

/-- TOKEN_WAIT_END after `held` more held cycles, once a token has arrived at every end waited for (R207): the words held
issue when nothing else holds the core. -/
def endTokenWait (free : Bool) (held : Nat) (c : Core) : Core :=
  if c.hold.tokens.isEmpty || c.regs.stopped || !(c.hold.tokens.all fun tk => decide (0 < c.ctl.tokens.getD tk 0)) ||
      !holdLasts c held || !withinLimit c free (c.hold.watch + held) then c
  else
    let c1 := countHeld c held
    resume { c1 with hold := { c1.hold with tokens := [] }, sp := { c1.sp with used := [] } }

/-- TAG_WAIT_END after `held` more held cycles, once every page permits the access, or is POISON and faults it (R154, R155):
the accesses take place when nothing else holds the core. -/
def endTagWait (free : Bool) (held : Nat) (c : Core) : Core :=
  let ok := fun (p : Nat × Bool) => tagPermits p.2 (tagOf c.sp p.1) || tagState (tagOf c.sp p.1) == 3
  if c.hold.pages.isEmpty || c.regs.stopped || !(c.hold.pages.all ok) ||
      !holdLasts c held || !withinLimit c free (c.hold.watch + held) then c
  else
    let c1 := countHeld c held
    resume { c1 with hold := { c1.hold with pages := [] }, sp := { c1.sp with used := [] } }

/-- ECC_HOLD_END: the fixed cycles have run (R165, R203). -/
def endEccHold (free : Bool) (c : Core) : Core :=
  let c0 := if c.hold.cycle = c.ctl.cycle + 1 then c else { c with hold := { c.hold with watch := 0 } }
  if waitHeld c || c.hold.eccLeft = 0 || c.regs.stopped || !withinLimit c free (c0.hold.watch + c.hold.eccLeft) then c
  else
    let c1 := countHeld c0 c.hold.eccLeft
    { c1 with
      hold := { c1.hold with eccLeft := 0, cycle := c.ctl.cycle + 1 }
      sp := { c1.sp with used := (c1.sp.used.map fun u => (u.1, u.2 - c.hold.eccLeft)).filter fun u => u.2 != 0 } }

end Sys2Proof.Machine
end

