-- ==== Sys2Proof/Machine/Image.lean ====
section
/-!
DEFINITION. A Twill image as firmware and hardware read it: header, section directory, lane directory,
manifests, constant pools and weight references (R224 to R232, R617).
-/

namespace Sys2Proof.Machine

/-- The lane mask of an image (R224). -/
def imgLaneMask (img : Bytes) : Nat := rdLe img 8 4

/-- Lane `l` is present. -/
def lanePresent (img : Bytes) (l : Nat) : Bool := (imgLaneMask img).testBit l && decide (l < 32)

/-- The present lanes, ascending. -/
def presentLanes (img : Bytes) : List Nat := (List.range 32).filter (lanePresent img)

/-- Size of the HBM work area an image addresses. -/
def imgWorkBytes (img : Bytes) : Nat := rdLe img 0x10 8

/-- Total size of an image. -/
def imgBytes (img : Bytes) : Nat := rdLe img 0x18 8

/-- Section-directory entry `i` (R224). -/
def imgDir (img : Bytes) (i : Nat) : Bytes := slice img (0x40 + 16 * i) 16

/-- The section of a type, as count and offset. -/
def imgSection (img : Bytes) (ty : Nat) : Option (Nat × Nat) :=
  (((List.range 8).map (imgDir img)).find? fun e => rdLe e 0 2 == ty).map fun e => (rdLe e 4 4, rdLe e 8 8)

/-- The lane-directory entry of a lane (R225). -/
def laneEntry (img : Bytes) (l : Nat) : Bytes :=
  match imgSection img 1 with
  | some s => slice img (s.2 + 64 * l) 64
  | none => []

def leCode (e : Bytes) : Nat := rdLe e 0 8
def leBundles (e : Bytes) : Nat := rdLe e 8 4
def lePagesLow (e : Bytes) : Nat := rdLe e 0x0C 2
def lePagesHigh (e : Bytes) : Nat := rdLe e 0x0E 2
def leLoopOff (e : Bytes) : Nat := rdLe e 0x10 8
def leLoopCount (e : Bytes) : Nat := rdLe e 0x18 2
def leXferCount (e : Bytes) : Nat := rdLe e 0x1A 2
def leManCount (e : Bytes) : Nat := rdLe e 0x1C 2
def leXferOff (e : Bytes) : Nat := rdLe e 0x20 8
def lePoolOff (e : Bytes) : Nat := rdLe e 0x28 8
def lePoolBytes (e : Bytes) : Nat := rdLe e 0x30 4
def leManOff (e : Bytes) : Nat := rdLe e 0x38 8

/-- Bundle `i` of a lane in an image. -/
def imgBundle (img : Bytes) (e : Bytes) (i : Nat) : BitVec 256 := BitVec.ofNat 256 (rdLe img (leCode e + 32 * i) 32)

/-- The loop descriptors of a lane (R256). -/
def imgLoops (img e : Bytes) : List Bytes :=
  (List.range (leLoopCount e)).map fun j => slice img (leLoopOff e + 64 * j) 64

/-- The transfer descriptors of a lane (R233). -/
def imgXfers (img e : Bytes) : List Bytes :=
  (List.range (leXferCount e)).map fun j => slice img (leXferOff e + 64 * j) 64

/-- The manifest of a lane as slot, kind and maximum (R231). -/
def imgManifest (img e : Bytes) : List (Nat × Nat × Nat) :=
  (List.range (leManCount e)).map fun j =>
    let m := slice img (leManOff e + 8 * j) 8
    (rdLe m 4 1, rdLe m 5 1, rdLe m 0 4)

/-- Codebooks 0 to 60 as the loader fills them (R228). -/
def imgBooks (img : Bytes) : List Bytes :=
  (List.range 61).map fun j =>
    match imgSection img 2 with
    | some s => if j < s.1 then slice img (s.2 + 16 * j) 16 else List.replicate 16 0
    | none => List.replicate 16 0

/-- The items of a constant pool as address, length and offset of the data (R229). -/
def poolItems (pool : Bytes) : Nat → Nat → List (Nat × Nat × Nat)
  | 0, _ => []
  | fuel + 1, off =>
    if pool.length < off + 16 then []
    else
      let n := rdLe pool (off + 4) 4
      (rdLe pool off 4, n, off + 16) :: poolItems pool fuel (off + 16 + 16 * ceilDiv n 16)

/-- The constant pool of a lane. -/
def imgPool (img e : Bytes) : Bytes := slice img (lePoolOff e) (lePoolBytes e)

/-- The items of a lane's constant pool. -/
def imgItems (img e : Bytes) : List (Nat × Nat × Nat) :=
  poolItems (imgPool img e) ((lePoolBytes e) / 16 + 1) 0

/-- The weight references of an image (R232). -/
def imgRefs (img : Bytes) : List Bytes :=
  match imgSection img 3 with
  | some s => (List.range s.1).map fun i => slice img (s.2 + 32 * i) 32
  | none => []

def wrTensor (r : Bytes) : Nat := rdLe r 0 2
def wrLane (r : Bytes) : Nat := rdLe r 2 1
def wrResidence (r : Bytes) : Nat := rdLe r 3 1
def wrAddress (r : Bytes) : Nat := rdLe r 4 4
def wrBytes (r : Bytes) : Nat := rdLe r 8 8
def wrWidth (r : Bytes) : Nat := rdLe r 0x10 1

/-- The pages a byte range of a scratchpad touches. -/
def rangePages (a n : Nat) : List Nat :=
  if n = 0 then [] else (List.range (ceilDiv (a % 4096 + n) 4096)).map fun i => pageOf ((a + 4096 * i) % 16777216)

end Sys2Proof.Machine
end

