-- ==== Sys2Proof/Machine/Cores.lean ====
section
/-!
DEFINITION. The cores within the block: contexts and their cores, the errors a core reports reaching the log
and the batch (R591, R594), device-fatal errors (R588), the end of a bisection batch (R299), and the shared
steps that hold ends, timeouts and core resets use.
-/

namespace Sys2Proof.Machine

/-- Core `k`. -/
def coreAt (s : State) (k : Nat) : Core := s.cores.getD k Core.reset

/-- The state with core `k` replaced. -/
def setCore (s : State) (k : Nat) (c : Core) : State := { s with cores := s.cores.set k c }

/-- The state with core `k` mapped. -/
def modCore (s : State) (k : Nat) (f : Core → Core) : State := { s with cores := modAt s.cores k f }

/-- Context `i`. -/
def ctxAt (s : State) (i : Nat) : Ctx := s.host.ctxs.getD i Ctx.reset

/-- The state with context `i` mapped. -/
def modCtx (s : State) (i : Nat) (f : Ctx → Ctx) : State :=
  { s with host := { s.host with ctxs := modAt s.host.ctxs i f } }

/-- The state with the running batch of context `i` mapped. -/
def modBatch (s : State) (i : Nat) (f : Batch → Batch) : State := modCtx s i fun x => { x with batch := x.batch.map f }

/-- The lane of a context placed on a core (R227). -/
def laneOn (x : Ctx) (k : Nat) : Option Nat := (x.placed.find? (fun p => p.2 == k)).map (·.1)

/-- The core of a context's lane (R227). -/
def coreOf (x : Ctx) (lane : Nat) : Option Nat := (x.placed.find? (fun p => p.1 == lane)).map (·.2)

/-- The cores a context is placed on. -/
def ctxCores (x : Ctx) : List Nat := x.placed.map (·.2)

/-- The pages a context owns on a core, as its low and high counts (R160, R617). -/
def pagesOn (x : Ctx) (k : Nat) : Option (Nat × Nat) :=
  match laneOn x k, x.image with
  | some l, some img => some (lePagesLow (laneEntry img l), lePagesHigh (laneEntry img l))
  | _, _ => none

/-- Context `i` owns a page of core `k` (R160). -/
def ctxOwns (s : State) (i k page : Nat) : Bool :=
  match pagesOn (ctxAt s i) k with
  | some p => ownsPage p.1 p.2 page
  | none => false

/-- A new epoch of free values (assumption 2). -/
def nextEpoch (s : State) : State := { s with freeCtr := s.freeCtr + 1 }

/-- An entry naming a context, with the ring and tag of the batch that runs in it (R591). -/
def ctxEntry (s : State) (i : Nat) (e : LogEntry) : LogEntry :=
  match (ctxAt s i).batch with
  | some b => { e with ctx := i, ring := (b.ring.map (·.1)).getD 0xFF, tag := b.tag }
  | none => { e with ctx := i }

/-- The running batch of a context has failed, and an entry was logged for it (R594). -/
def noteBatch (s : State) (i seq : Nat) : State :=
  modBatch s i fun b => { b with failing := true, logged := some (match b.logged with | some m => min m seq | none => seq) }

/-- An entry of a context logged; one of class 1 fails its running batch (R587, R594). -/
def logCtx (s : State) (i : Nat) (e : LogEntry) : State :=
  let r := logPut s (ctxEntry s i e)
  if e.cls = 0 then r.1 else noteBatch r.1 i r.2

/-- What a core reported enters the log, and its batch fails on a fault (R211, R594). -/
def settle (s : State) (k : Nat) : State :=
  let c := coreAt s k
  match c.reports with
  | [] => s
  | rs => rs.foldl (fun x r =>
      logCtx x (c.ctx.getD 0xFF) { logEntry r.cls r.unit r.code 0 with
        core := k, inst := r.inst, bundle := r.bundle, address := r.address, detail := r.detail })
    (setCore s k { c with reports := [] })

/-- A step of core `k`, with what it reports. -/
def onCore (s : State) (k : Nat) (f : Core → Core) : State := settle (modCore s k f) k

/-- The status and value of a finished entry of ring `q` (R465, R467). -/
def finishEntry (s : State) (q idx status value : Nat) : State :=
  { s with host := { s.host with rings := modAt s.host.rings q fun r =>
      { r with entries := r.entries.map fun e => if e.index = idx then { e with stage := .done status value } else e } } }

/-- An entry that has not finished yet. -/
def entryOpen (e : RingEntry) : Bool := match e.stage with | .done _ _ => false | _ => true

/-- An uncorrected-uncontained error, in the order of R588: the log entry, the fatal bits, every core stopped,
the stream engine dropping, every begun entry completed with E_BATCH_FAILED, dispatch stopped; and the AER
report of R597. -/
def deviceFatal (s : State) (e : LogEntry) : State :=
  let r := logPut s { e with cls := 2 }
  let n := r.2
  let s1 := raiseAlert { r.1 with mg := { r.1.mg with fatal := true } } 0x80
  { s1 with
    cores := s1.cores.map fun c => stopCore c false
    net := { s1.net with dropping := true }
    host := { s1.host with
      rings := if s1.host.fwReady then s1.host.rings.map fun q => { q with
          entries := q.entries.map fun x => if entryOpen x then { x with stage := .done 0x0011 n } else x }
        else s1.host.rings
      dispatch := false
      aer := some (BitVec.ofNat 32 n) } }

/-- The batch of a context ends under R299: the E_BISECT_STOP entry is written, and the batch fails with
STOPPED. -/
def endStopped (s : State) (i : Nat) : State :=
  match (ctxAt s i).batch with
  | none => s
  | some b =>
    let mask := (b.lanesHalted.map fun l => 2 ^ l).sum
    let r := logPut s (ctxEntry s i { logEntry 0 0x0C 0x0506 1 with detail := mask })
    modBatch (noteBatch r.1 i r.2) i fun x => { x with stopEnd := true }

/-- Every lane of a context's batch has ended or halted, one has halted, and keep is 0 (R299). -/
def stopCheckCtx (s : State) (i : Nat) : State :=
  match (ctxAt s i).batch with
  | none => s
  | some b =>
    if (ctxAt s i).placed.all (fun p => b.lanesEnded.contains p.1 || b.lanesHalted.contains p.1) &&
        !b.lanesHalted.isEmpty && !s.host.dbgKeep && !b.failing then endStopped s i
    else s

/-- The same for every context, when keep becomes 0 (R299). -/
def stopChecks (s : State) : State := (List.range 16).foldl stopCheckCtx s

/-- A lane of the core's batch is halted at a stop: the watchdogs of the context's cores are suspended
(R298). -/
def wdtSuspended (s : State) (k : Nat) : Bool :=
  match (coreAt s k).ctx with
  | some i => match (ctxAt s i).batch with
    | some b => !b.lanesHalted.isEmpty
    | none => false
  | none => false

/-- Free values in the lanes that rows in flight would have written (R211). -/
def abandonRows (c : Core) (epoch : Nat) : Core :=
  { c with mx := c.mx.flight.foldl (fun m f =>
      if f.mBit then
        let old := accLanes m f.entry
        { m with acc := put m.acc f.entry ((List.range 128).map fun n =>
            if maskBit (f.nFirst, f.nCount) n then (Config.freeLane epoch f.entry n).toInt else old.getD n 0) }
      else m) c.mx }

/-- Free values in what a result that is abandoned would have written (R211). -/
def abandonRes (epoch : Nat) (r : VRes) (c : Core) : Core :=
  putResult { r with bytes := (List.range (128 * r.rows)).map (Config.freeByte (epoch + 1 + r.iss)) } c

/-- Free values in the rows that the entries a drain has read, and not yet output, would have written (R211). -/
def abandonDrain (epoch : Nat) (d : DrainState) (c : Core) : Core :=
  if isWe d.dst then
    ((List.range d.entries.length).filter fun i => decide (d.i ≤ i)).foldl (fun x i =>
      abandonRes epoch (entryRes { d with i := i } []) x) c
  else c

/-- Everything frozen in the pipelines of a core is abandoned (R211). -/
def abandonAll (c : Core) (epoch : Nat) : Core :=
  let c1 := c.vx.results.foldl (fun x r => abandonRes epoch r x) (abandonRows c epoch)
  c.vx.drains.foldl (fun x d => abandonDrain epoch d x) c1

/-- The stop of a hold timeout; the held cycles have been counted. -/
def timeoutStop (c : Core) (epoch cause bundle : Nat) : Core :=
  ccStop (abandonAll { c with hold := { c.hold with pages := [], tokens := [], late := false, eccLeft := 0 } } epoch)
    0x0108 8 0 cause bundle true

/-- The core as the watchdog finds it: a bundle that is late holds it even when no word is there to meet it (R199). -/
def foundLate (c : Core) : Core :=
  match nextBundleCycle c with
  | some o => if !waitHeld c && c.hold.eccLeft == 0 && isNext c (atCycle o) then beginLate c else c
  | none => c

/-- The hold watchdog of a core expires, on a hold or on a SYNC wait (R204, R211, R217). -/
def holdTimeoutCore (c0 : Core) (epoch : Nat) : Core :=
  let c := foundLate c0
  let lim := wdtLimit c
  let nominal := c.ctl.sectionBase + c.ctl.offset
  let holdLeft := lim + 1 - c.hold.watch
  let syncLeft := lim + 1 - (c.hold.syncWatch + (c.ctl.cycle - nominal))
  let run := if c.hold.cycle = c.ctl.cycle + 1 then c.hold.watch else 0
  if !c.started || c.regs.stopped then c
  else if waitHeld c && (!c.ctl.syncWait || decide (c.ctl.cycle < nominal) || decide (holdLeft ≤ syncLeft)) then
    timeoutStop (countHeld c holdLeft) epoch (holdCause c) c.hold.bundle
  else if waitHeld c then timeoutStop (countHeld c syncLeft) epoch 6 c.ctl.pc
  else if 0 < c.hold.eccLeft then
    (if lim < run + c.hold.eccLeft then timeoutStop (countHeld c (lim + 1 - run)) epoch 4 c.hold.bundle else c)
  else if c.ctl.syncWait then
    let t := max c.ctl.cycle nominal + syncLeft
    if !isNext (keepExact c) (atCycle t) then c
    else
      let c1 := reach c (atCycle t)
      if c1.regs.stopped || holdCause c1 != 0 then c1 else timeoutStop (advanceTo c1 t) epoch 6 c.ctl.pc
  else c

/-! ### Accesses of agents that are no cores -/

/-- An uncorrectable error or a POISON page met by an unscheduled access: logged for the requester's context, whose batch
fails (R167). -/
def logPoison (s : State) (i k page bank : Nat) : State :=
  logCtx s i { logEntry 1 3 (if tagClassW (tagOf (coreAt s k).sp page) then 0x0105 else 0x0106) 0 with
    core := k, inst := bank, address := page }

/-- An access of `n` bytes of core `k` by an agent that is no core, for context `i`, as a mesh inbound source (R12, R144,
R148, R154, R160, R166, R167): none while a page does not permit it or no bank cycle is left to it; else the state, with the
bytes of a read, or none where it receives an error response. -/
def outsideAccess (s : State) (k i a n : Nat) (write : Bool) (data : Bytes) : Option (State × Option Bytes) :=
  let sp := (coreAt s k).sp
  let rows := accRows (a - a % 128) (ceilDiv (a % 128 + n) 128)
  let pages := accPages rows
  match pages.find? (fun p => !ctxOwns s i k p) with
  | some p => some (logCtx s i { logEntry 1 3 0x0107 0 with core := k, address := p }, none)
  | none =>
    match rows.find? (fun r => tagState (tagOf sp r.1) == 3) with
    | some r => some (logPoison s i k r.1 r.2, none)
    | none =>
      if !pages.all (fun p => tagPermits write (tagOf sp p)) then none
      else match atFree 64 (coreAt s k) (rows.map (·.2)) with
        | none => none
        | some c =>
          let c1 := useBanks c (rows.map (·.2))
          let checked := if write && a % 128 == 0 && n % 128 == 0 then [] else rows
          let s1 := settle (setCore s k (noteChecks c1 checked 0xFFFFFFFF false)) k
          match (checkRows c1.sp checked).2 with
          | r :: _ => some (logPoison s1 i k r.1 r.2, none)
          | [] =>
            if write then
              some (modCore s1 k fun d => { d with sp := dropCorr (spWriteRange d.sp a data) rows }, some [])
            else some (s1, some (spRead (coreAt s1 k).sp a n))

end Sys2Proof.Machine
end

