-- ==== Sys2Proof/Machine/Transform.lean ====
section
/-!
DEFINITION. Arrival transforms (R315 to R320) and arrival quantisation (R66 to R69), as functions of the
source bytes. A transform answers its output or the detail of E_WEIGHT_FORMAT (R320).
-/

namespace Sys2Proof.Machine

/-- Transform byte bit 7 (R315). -/
def tfPwf (t : Nat) : Bool := t.testBit 7

/-- Transform byte bit 6 (R315). -/
def tfCol (t : Nat) : Bool := t.testBit 6

/-- Transform shape (R315). -/
def tfShape (t : Nat) : Nat := t % 16

/-- A transform byte R315 permits: no reserved bit or shape, col_major with shapes 5 and 6 only. -/
def tfLegal (t : Nat) : Bool :=
  nfld t 5 4 == 0 && decide (tfShape t ≤ 6) && (!tfCol t || decide (5 ≤ tfShape t))

/-- The detail of a transform byte that is not permitted (R308, R315, R320). -/
def tfFault (t : Nat) : Option Nat :=
  if tfLegal t then none
  else if 6 < tfShape t ∨ (tfCol t ∧ tfShape t < 5) then some 5 else some 6

/-! ### Packed weight format -/

/-- The tokens of a packed payload (R319); none when it ends inside a token. -/
def pwfTokens : Nat → Bytes → Option Bytes
  | 0, _ => none
  | _ + 1, [] => some []
  | fuel + 1, b :: rest =>
    let n := b.toNat % 64
    let next := fun (out : Bytes) (bs : Bytes) => (pwfTokens fuel bs).map fun r => out ++ r
    match b.toNat / 64 with
    | 0 => next (List.replicate (n + 1) 0) rest
    | 1 => if rest.length < n + 1 then none else next (rest.take (n + 1)) (rest.drop (n + 1))
    | 2 =>
      if rest.length < n + 1 then none
      else
        let nib := fun (v : Nat) => BitVec.ofNat 8 (code 8 (sgn 4 v))
        next ((rest.take (n + 1)).flatMap fun x => [nib (x.toNat % 16), nib (x.toNat / 16)]) (rest.drop (n + 1))
    | _ => next (List.replicate (64 * (n + 1)) 0) rest

def pwfStored (h : Nat) : Bool := h.testBit 25
def pwfPayload (h : Nat) : Nat := nfld h 24 12
def pwfOut (h : Nat) : Nat := nfld h 11 0 + 1

/-- A header that breaks R319 in itself. -/
def pwfBad (h : Nat) : Bool :=
  nfld h 31 26 != 0 || (pwfStored h && pwfPayload h != pwfOut h) || decide (4096 < pwfPayload h)

/-- A whole packed stream decoded (R319, R320). -/
def pwfDecode : Nat → Bytes → Except Nat Bytes
  | 0, _ => .error 3
  | _ + 1, [] => .ok []
  | fuel + 1, bs =>
    let h := rdLe bs 0 4
    let p := pwfPayload h
    let rest := bs.drop (4 + p)
    if bs.length < 4 ∨ pwfBad h ∨ (pwfOut h ≠ 4096 ∧ rest ≠ []) then .error 2
    else if bs.length < 4 + p then .error 3
    else
      match (if pwfStored h then some (slice bs 4 p) else pwfTokens (p + 1) (slice bs 4 p)) with
      | none => .error 3
      | some out =>
        if out.length ≠ pwfOut h then .error 3
        else match pwfDecode fuel rest with
          | .ok r => .ok (out ++ r)
          | .error d => .error d

/-- Source bytes of a packed stream of `want` decoded bytes, as far as the bytes read so far show: how many
more are needed, 0 when the stream is whole or its next header is bad. -/
def pwfNeed (want : Nat) (bs : Bytes) : Nat → Nat → Nat → Nat
  | 0, _, _ => 0
  | fuel + 1, pos, out =>
    if want ≤ out then pos - bs.length
    else if bs.length < pos + 4 then pos + 4 - bs.length
    else
      let h := rdLe bs pos 4
      if pwfBad h then 0 else pwfNeed want bs fuel (pos + 4 + pwfPayload h) (out + pwfOut h)

/-! ### Shaping -/

/-- Code width in bits of shapes 1 to 3; 8 for bytes and 16 for BF16 sources. -/
def shapeBits (shape : Nat) : Nat :=
  match shape with
  | 1 => 2
  | 2 => 3
  | 3 => 4
  | 4 => 8
  | _ => 16

/-- The record's code_width of a shape (R47, R325). -/
def shapeWidth (shape : Nat) : Nat :=
  match shape with
  | 1 => 0
  | 2 => 1
  | 3 => 2
  | 5 => 2
  | _ => 3

/-- Length of the source of a shaping transform (R316, R317). -/
def shapeSource (t k n : Nat) : Nat :=
  let sh := tfShape t
  if sh ≤ 3 then k * ceilDiv (n * shapeBits sh) 8 + ceilDiv k 32 * ceilDiv n 128
  else if sh = 4 then k * n + ceilDiv k 32 * ceilDiv n 128
  else 2 * k * n

/-- Length of the output of a shaping transform (R316). -/
def shapeOut (t k n : Nat) : Nat :=
  let tiles := ceilDiv k 128 * ceilDiv n 128
  tiles * tileBytes (shapeWidth (tfShape t)) + 128 * ceilDiv tiles 16

/-- The codes of one tile of `b` bits, packed by rows (R38). -/
def packTile (b : Nat) (codeOf : Nat → Nat → Nat) : Bytes :=
  (List.range 128).flatMap fun k =>
    toLe (16 * b) ((List.range 128).foldl (fun acc n => acc + codeOf k n * 2 ^ (n * b)) 0)

/-- The two planes of a byte-mode tile (R40). -/
def packPlanes (w : Nat → Nat → Int) : Bytes :=
  packTile 4 (fun k n => code 8 (w k n) / 16) ++ packTile 4 (fun k n => code 8 (w k n) % 16)

/-- A tile scale record (R47). -/
def tileRecord (groups : List Nat) (expFloor width book : Nat) : Bytes :=
  (List.range 4).flatMap (fun g => toLe 1 (groups.getD g 0)) ++ toLe 1 expFloor ++ toLe 1 width ++ toLe 1 book ++ [0]

/-- The largest exponent of group codes that are not 0x00 (R68). -/
def maxExp (codes : List Nat) : Nat := codes.foldl (fun e c => if c = 0 then e else max e (c / 8)) 0

/-- The output of a shaping transform from the code or weight and the group code at each place (R316). -/
def shapeTiles (t k n book : Nat) (tile : Nat → Nat → Bytes) (group : Nat → Nat → Nat) : Bytes :=
  let kt := ceilDiv k 128
  let nt := ceilDiv n 128
  let order := (List.range nt).flatMap fun b => (List.range kt).map fun a => (a, b)
  let floor := fun (b : Nat) => maxExp ((List.range (ceilDiv k 32)).map fun g => group g b)
  let recs := order.flatMap fun p =>
    tileRecord ((List.range 4).map fun g => if 4 * p.1 + g < ceilDiv k 32 then group (4 * p.1 + g) p.2 else 0)
      (floor p.2) (shapeWidth (tfShape t)) book
  order.flatMap (fun p => tile p.1 p.2) ++ recs ++ List.replicate (128 * ceilDiv (kt * nt) 16 - recs.length) 0

/-- A re-lay of codes or INT8 weights (shapes 1 to 4). -/
def relay (t k n book : Nat) (src : Bytes) : Bytes :=
  let sh := tfShape t
  let b := shapeBits sh
  let row := ceilDiv (n * b) 8
  let at2 := fun (kk nn : Nat) =>
    if kk < k ∧ nn < n then ((rdLe src (kk * row + nn * b / 8) 2) >>> (nn * b % 8)) % 2 ^ b else 0
  let group := fun (g nb : Nat) => rdLe src (k * row + g * ceilDiv n 128 + nb) 1
  let tile := fun (kt nb : Nat) =>
    if sh = 4 then packPlanes fun kk nn => sgn 8 (at2 (128 * kt + kk) (128 * nb + nn))
    else packTile b fun kk nn => at2 (128 * kt + kk) (128 * nb + nn)
  shapeTiles t k n (if sh = 4 then 0 else book) tile group

/-! ### Quantising -/

/-- A BF16 infinity or NaN (R69). -/
def bfBad (h : Nat) : Bool := nfld h 14 7 == 255

/-- The magnitude of a finite BF16 value, times 2^133. DESIGN CHOICE (assumption 56): a subnormal keeps its exact value
here, and is not taken as zero. -/
def bfMag (h : Nat) : Nat :=
  if nfld h 14 7 = 0 then nfld h 6 0 else (128 + nfld h 6 0) * 2 ^ (nfld h 14 7 - 1)

/-- The value of an S8 code, times 2^133 (R46). -/
def s8Mag (c : Nat) : Nat := (8 + c % 8) * 2 ^ (c / 8 + 110)

/-- The S8 code chosen for a group whose largest magnitude is `m`: the smallest not below m / lim (R66, R67). -/
def chooseS8 (m lim : Nat) : Nat :=
  if m = 0 then 0
  else (((List.range 255).map (· + 1)).find? fun c => decide (m ≤ lim * s8Mag c)).getD 255

/-- One weight quantised under a group code (R66, R67). -/
def quantOne (h c lim : Nat) : Int :=
  if c = 0 then 0
  else
    let q := min (rneDiv (bfMag h) (s8Mag c)) lim
    if h.testBit 15 then -(q : Int) else q

/-- BF16 quantised to 4-bit tiles or byte-mode tiles (shapes 5 and 6). -/
def quantise (t k n : Nat) (src : Bytes) : Except Nat Bytes :=
  let sh := tfShape t
  let lim := if sh = 5 then 7 else 127
  let at2 := fun (kk nn : Nat) =>
    if kk < k ∧ nn < n then rdLe src (2 * (if tfCol t then nn * k + kk else kk * n + nn)) 2 else 0
  if ((List.range (k * n)).any fun i => bfBad (rdLe src (2 * i) 2)) then .error 1
  else
    let group := fun (g nb : Nat) =>
      chooseS8 ((List.range 32).foldl (fun m i =>
        (List.range 128).foldl (fun m' j => max m' (bfMag (at2 (32 * g + i) (128 * nb + j)))) m) 0) lim
    let tile := fun (kt nb : Nat) =>
      let codes := (List.range 4).map fun g => group (4 * kt + g) nb
      let q := fun (kk nn : Nat) => quantOne (at2 (128 * kt + kk) (128 * nb + nn)) (codes.getD (kk / 32) 0) lim
      if sh = 5 then packTile 4 fun kk nn => code 4 (q kk nn) else packPlanes q
    .ok (shapeTiles t k n (if sh = 5 then 61 else 0) tile group)

/-- A dimension above the limit of R318. -/
def shapeTooBig (t k n : Nat) : Bool := if tfCol t then decide (2048 < k) else decide (8192 < n)

/-- What the blocks of a packed stream that have wholly arrived decode to, or the fault of the first bad one (R319, R320). -/
def pwfPrefix : Nat → Bytes → Except Nat Bytes
  | 0, _ => .ok []
  | fuel + 1, bs =>
    let h := rdLe bs 0 4
    let p := pwfPayload h
    let rest := bs.drop (4 + p)
    if bs.length < 4 then .ok []
    else if pwfBad h ∨ (pwfOut h ≠ 4096 ∧ rest ≠ []) then .error 2
    else if bs.length < 4 + p then .ok []
    else
      match (if pwfStored h then some (slice bs 4 p) else pwfTokens (p + 1) (slice bs 4 p)) with
      | none => .error 3
      | some out => if out.length ≠ pwfOut h then .error 3 else (pwfPrefix fuel rest).map fun r => out ++ r

/-- The detail of what a transform finds bad as soon as it meets it (R320): in its byte, its dimensions, or the part of its
source that has arrived. -/
def metBad (t k n : Nat) (src : Bytes) : Option Nat :=
  match tfFault t with
  | some d => some d
  | none =>
    if tfShape t ≠ 0 ∧ shapeTooBig t k n then some 4
    else
      match (if tfPwf t then pwfPrefix (src.length + 1) src else .ok src) with
      | .error d => some d
      | .ok s => if 5 ≤ tfShape t ∧ ((List.range (s.length / 2)).any fun i => bfBad (rdLe s (2 * i) 2)) then some 1 else none

/-- A transform on its whole source: `k` and `n` for a shaping one, `want` the length the output must have
(R315 to R320). -/
def transform (t k n book want : Nat) (src : Bytes) : Except Nat Bytes :=
  match metBad t k n [] with
  | some d => .error d
  | none =>
    match (if tfPwf t then pwfDecode (src.length + 1) src else .ok src) with
    | .error d => .error d
    | .ok s =>
      if tfShape t = 0 then (if s.length = want then .ok s else .error 6)
      else if s.length ≠ shapeSource t k n ∨ want ≠ shapeOut t k n then .error 6
      else if tfShape t ≤ 4 then .ok (relay t k n book s)
      else quantise t k n s

end Sys2Proof.Machine
end

