-- ==== Sys2Proof/Machine/Memory.lean ====
section
/-!
DEFINITION. Device memory and the objects that transfers reach in it: HBM, host memory, the work area, batch
arguments, stream frames and weight tensors (R25, R233, R436, R470).
-/

namespace Sys2Proof.Machine

/-- A pseudo-channel front end with nothing queued (R342). -/
def PseudoChan.reset : PseudoChan := ⟨[], [], [], [], false⟩

/-- The pseudo-channel of a 32-byte unit (R341). -/
def pcOf (unit : Nat) : Nat := unit / 8 % 64

/-- A pseudo-channel front end. -/
def chanAt (s : State) (pc : Nat) : PseudoChan := look s.hbm.chans pc PseudoChan.reset

/-- A byte accepted for HBM and not written to a stack yet: in the ingest buffer or a write queue (R344, R346,
R349). -/
def queuedByte (s : State) (a : Nat) : Option Byte :=
  match s.net.ingest.reverse.findSome? (fun p => if p.addr ≤ a then p.bytes[a - p.addr]? else none) with
  | some b => some b
  | none => match (chanAt s (pcOf (a / 32))).writes.find? (fun w => w.unit == a / 32) with
    | some w => w.data.getD (a % 32) none
    | none => none

/-- Bytes of HBM as the last accepted writes leave them (R346; assumption 5 for bytes never written). -/
def hbmRead (s : State) (a n : Nat) : Bytes :=
  (List.range n).map fun i => match queuedByte s (a + i) with
    | some b => b
    | none => memByte s.hbm.cells (fun _ => 0) (a + i)

/-- The 32-byte units of a range. -/
def unitsOf (a n : Nat) : List Nat := if n = 0 then [] else (List.range ((a + n - 1) / 32 + 1 - a / 32)).map (a / 32 + ·)

/-- A range that every access of which receives an error response: training has not ended well, or a
pseudo-channel has failed (R357, R358). -/
def hbmDown (s : State) (a n : Nat) : Bool :=
  s.hbm.trained != 3 || s.hbm.chans.any fun p => p.2.failed && (unitsOf a n).any fun u => pcOf u == p.1

/-- A read of the range receives an error response: a unit still reports an uncorrectable error (R354). -/
def hbmBad (s : State) (a n : Nat) : Bool :=
  hbmDown s a n || s.hbm.bad.any fun u => decide (u * 32 < a + n) && decide (a < u * 32 + 32)

/-- A queued write with the bytes of a later write at `a` put over its own. -/
def overWrite (a : Nat) (bs : Bytes) (w : WriteUnit) : WriteUnit :=
  { w with data := w.data.zipIdx.map fun p =>
      if a ≤ w.unit * 32 + p.2 then (match bs[w.unit * 32 + p.2 - a]? with | some b => p.1.map (fun _ => b) | none => p.1) else p.1 }

/-- Ingest bytes with those of a later write at `a` put over them. -/
def overIngest (a : Nat) (bs : Bytes) (g : Ingest) : Ingest :=
  { g with bytes := g.bytes.zipIdx.map fun p =>
      if a ≤ g.addr + p.2 then (match bs[g.addr + p.2 - a]? with | some b => b | none => p.1) else p.1 }

/-- HBM written; units written whole no longer report an error (R354). -/
def hbmWrite (s : State) (a : Nat) (bs : Bytes) : State :=
  { s with
    hbm := { s.hbm with
      cells := memWrite s.hbm.cells zeroDflt a bs
      chans := s.hbm.chans.map fun p => (p.1, { p.2 with writes := p.2.writes.map (overWrite a bs) })
      bad := s.hbm.bad.filter fun u => !(decide (a ≤ u * 32) && decide (u * 32 + 32 ≤ a + bs.length)) }
    net := { s.net with ingest := s.net.ingest.map (overIngest a bs) } }

/-- The end of HBM (R25). -/
def hbmEnd : Nat := 0x000C00000000

/-- The start of the firmware reserve (R461). -/
def fwReserve : Nat := 0x000BF0000000

/-- A range lies in HBM outside the firmware reserve (R470). -/
def inUserHbm (a n : Nat) : Bool := decide (a + n ≤ fwReserve)

/-- An address names host memory (R470). -/
def isHost (a : Nat) : Bool := decide (2 ^ 63 ≤ a)

/-- Bytes of host memory; those the device has not written are the host's own. -/
def hostRead (s : State) (a n : Nat) : Bytes := memRead s.host.hostMem Config.hostByte (a % 2 ^ 63) n

/-- Host memory written through the PCIe host DMA, or dropped when the driver is lost or Bus Master Enable is 0
(R470, R484). -/
def hostWrite (s : State) (a : Nat) (bs : Bytes) : State :=
  if s.host.busMaster && s.host.attached then
    { s with host := { s.host with hostMem := memWrite s.host.hostMem (fun _ => none) (a % 2 ^ 63) bs } }
  else s

/-- The stream with an identifier. -/
def streamOf (s : State) (sid : Nat) : Option Stream := s.net.streams.find? fun x => x.sid == sid

/-! ### Stream entries (R433) -/

def seFlags (e : Bytes) : Nat := rdLe e 0 1
def seCtx (e : Bytes) : Nat := rdLe e 1 1
def seType (e : Bytes) : Nat := rdLe e 2 1
def seRing (e : Bytes) : Nat := rdLe e 3 1
def seFormat (e : Bytes) : Nat := rdLe e 4 2
def seRank (e : Bytes) : Nat := rdLe e 6 1
def seBase (e : Bytes) : Nat := rdLe e 8 8
def seSlotBytes (e : Bytes) : Nat := rdLe e 0x10 4
def seSlots (e : Bytes) : Nat := rdLe e 0x14 2
def seReassembly (e : Bytes) : Nat := rdLe e 0x16 2
def seSrcAddr (e : Bytes) : Nat := rdBe e 0x18 16
def seSrcPort (e : Bytes) : Nat := rdLe e 0x28 2
def seReturnPort (e : Bytes) : Nat := rdLe e 0x2A 2

/-- The HBM address of the slot of a frame (R430, R434). -/
def slotAddr (e : Bytes) (seq : W32) : Nat := seBase e + seq.toNat % max 1 (seSlots e) * seSlotBytes e

/-- The frames of a batch that one rank admitted, in order. -/
def rankFrames (b : Batch) (r : Nat) : List BatchFrame := b.frames.filter fun f => f.rank == r

/-- The batch record of a stream batch: frame number 0xFFFF (R436). -/
def batchRecord (b : Batch) : Bytes :=
  (List.range 64).flatMap fun r =>
    toLe 2 (rankFrames b r).length ++ toLe 2 0 ++ toLe 4 (((rankFrames b r).head?.map fun f => f.seq.toNat).getD 0)

/-- Bytes of a frame of a stream batch (R436); none for an error response. -/
def frameRead (s : State) (b : Batch) (f off n : Nat) : Option Bytes :=
  if f = 0xFFFF then (if off + n ≤ 512 then some (slice (batchRecord b) off n) else none)
  else if b.per = 0 ∨ b.ranks * b.per ≤ f then none
  else match (rankFrames b (f / b.per))[f % b.per]? with
    | none => some (List.replicate n 0)
    | some fr =>
      let a := slotAddr fr.entry fr.seq + off
      if off + n ≤ seSlotBytes fr.entry ∧ !hbmBad s a n then some (hbmRead s a n) else none

/-- The slot a batch latched. -/
def latchedSlot (x : Ctx) : Slot := if x.latched = some 1 then x.slotB else x.slotA

/-- The staged copy of a tensor: its HBM address and bytes (R311). -/
def stagedTensor (sl : Slot) (t : Nat) : Option (Nat × Nat) :=
  (sl.staged.find? fun e => e.1 == t).map fun e => (e.2.1, e.2.2.1)

/-- The object a side of a transfer reaches outside scratchpads, as an address and a size: the work area, a
batch argument or a weight tensor (R233). -/
def sideObject (s : State) (i kind index : Nat) : Option (Nat × Nat) :=
  let x := ctxAt s i
  match kind with
  | 0 => x.image.map fun img => (x.workBase, imgWorkBytes img)
  | 2 => x.batch.bind fun b => b.args[index]?
  | 4 =>
    match x.image with
    | some img => (imgRefs img)[index]?.bind fun r => stagedTensor (latchedSlot x) (wrTensor r)
    | none => none
  | _ => none

/-- The HBM address past the device's 48 GiB at which an access of a side outside scratchpads ends, if it does: its requester is
faulted with E_ADDRESS (R25). -/
def sideOutside (s : State) (i kind index : Nat) (off : Int) (n : Nat) : Option Nat :=
  match (if off < 0 ∨ kind = 3 then none else sideObject s i kind index) with
  | some o =>
    let a := o.1 + off.toNat
    if !isHost a && decide (off.toNat + n ≤ o.2) && decide (hbmEnd < a + n) then some a else none
  | none => none

/-- Bytes read from a side outside scratchpads; none for an error response (R293, R470). -/
def sideRead (s : State) (i kind index : Nat) (off : Int) (n : Nat) : Option Bytes :=
  if off < 0 then none
  else if kind = 3 then (ctxAt s i).batch.bind fun b => frameRead s b index off.toNat n
  else
    match sideObject s i kind index with
    | none => none
    | some o =>
      let a := o.1 + off.toNat
      if o.2 < off.toNat + n then none
      else if isHost a then (if s.host.busMaster then some (hostRead s a n) else none)
      else if hbmEnd < a + n ∨ hbmBad s a n then none
      else some (hbmRead s a n)

/-- Bytes written to a side outside scratchpads; none for an error response. -/
def sideWrite (s : State) (i kind index : Nat) (off : Int) (bs : Bytes) : Option State :=
  if off < 0 then none
  else
    match (if kind = 0 ∨ kind = 2 then sideObject s i kind index else none) with
    | none => none
    | some o =>
      let a := o.1 + off.toNat
      if o.2 < off.toNat + bs.length then none
      else if isHost a then some (hostWrite s a bs)
      else if hbmEnd < a + bs.length ∨ hbmDown s a bs.length then none
      else some (hbmWrite s a bs)

end Sys2Proof.Machine
end

