-- ==== Sys2Proof/Machine/Moves.lean ====
section
/-!
DEFINITION. The move engine (R197, R233 to R235, R251 to R253): transfers and their accesses, sends, tag
operations, remote flags, tokens (R205, R206) and failed transfers (R593). A transfer makes its accesses one
at a time in the order of R235; those of scratchpads wait as unscheduled requests, all others take place at
once (assumption 20).
-/

namespace Sys2Proof.Machine

/-- The transfer of core `k` with an identifier. -/
def xferOf (s : State) (k id : Nat) : Option Xfer := (coreAt s k).mv.xfers.find? fun x => x.id == id

/-- A transfer of core `k` replaced. -/
def putXfer (s : State) (k : Nat) (x : Xfer) : State :=
  modCore s k fun c => { c with mv := { c.mv with xfers := c.mv.xfers.map fun y => if y.id = x.id then x else y } }

/-- An error response stops a transfer (R593). -/
def failXfer (s : State) (k : Nat) (x : Xfer) (errCode detail : Nat) : State :=
  putXfer s k { x with failed := some (errCode, detail), busy := false }

/-- Rows and columns of a shaping transfer (R316). -/
def xferDims (d : Bytes) : Nat × Nat :=
  if tfCol (tdTransform d) then (tdBlockBytes d, tdBlocks d) else (tdBlocks d, tdBlockBytes d)

/-- The source of the transfer is one stream per repeat. -/
def srcContig (d : Bytes) : Bool := tdTransform d != 0

/-- The destination of the transfer is one stream per repeat (R316). -/
def dstContig (d : Bytes) : Bool := tfShape (tdTransform d) != 0

/-- Bytes of a repeat of a transfer that only copies. -/
def copyBytes (d : Bytes) : Nat := tdBlockBytes d * tdBlocks d

/-- Bytes a repeat of a transforming transfer must produce. -/
def outBytes (d : Bytes) : Nat :=
  if dstContig d then shapeOut (tdTransform d) (xferDims d).1 (xferDims d).2 else copyBytes d

/-- Decoded bytes a repeat of a transforming transfer takes. -/
def decodedBytes (d : Bytes) : Nat :=
  if dstContig d then shapeSource (tdTransform d) (xferDims d).1 (xferDims d).2 else copyBytes d

/-- Source bytes still to be read before a repeat can be transformed. -/
def srcNeed (d buf : Bytes) : Nat :=
  if tfPwf (tdTransform d) then pwfNeed (decodedBytes d) buf (buf.length + 2) 0 0
  else decodedBytes d - buf.length

/-- Where byte `p` of a repeat lies within it (R235). -/
def posOff (contig : Bool) (block : Nat) (stride : Int) (p : Nat) : Int :=
  if contig then p else (p / max 1 block : Nat) * stride + (p % max 1 block : Nat)

/-- The source address of byte `p` of repeat `r`; core-local for a scratchpad. -/
def srcAt (x : Xfer) (r p : Nat) : Int :=
  let d := x.desc
  let o := (r : Int) * tdSrcRepStride d + posOff (srcContig d) (tdBlockBytes d) (tdSrcBlockStride d) p
  if tdSrcKind d = 1 then addr24 ((tdSrcAddr d % 2 ^ 24 + x.srcBase : Nat) + o) else (tdSrcAddr d : Int) + o

/-- The destination address of byte `p` of repeat `r`. -/
def dstAt (x : Xfer) (r p : Nat) : Int :=
  let d := x.desc
  let o := (r : Int) * tdDstRepStride d + posOff (dstContig d) (tdBlockBytes d) (tdDstBlockStride d) p
  if tdDstKind d = 1 then addr24 ((tdDstAddr d % 2 ^ 24 + x.dstBase : Nat) + o) else (tdDstAddr d : Int) + o

/-- The length of the access at an address with `left` bytes left in its block: within one row of a scratchpad
(R235). -/
def pieceLen (kind : Nat) (a : Int) (left : Nat) : Nat := min left (if kind = 1 then 128 - a.toNat % 128 else 128)

/-- Whether the access at `a` carries its marker: `next` is the address of the side's next access (R234). -/
def markAt (mode : Nat) (a : Int) (next : Option Int) : Bool :=
  mode == 2 || (mode == 1 && (match next with | some n => pageOf n.toNat != pageOf a.toNat | none => true))

/-- A scratchpad access of a transfer of core `k`: to its own core's move engine source, or as a packet over the
mesh (R14, R147, R160, R227). -/
def issueAccess (s : State) (k : Nat) (x : Xfer) (lane addr len : Nat) (write : Bool) (data : Bytes)
    (mark tagOp : Bool) : State :=
  match coreOf (ctxAt s x.ctx) lane with
  | none => failXfer (logCtx s x.ctx { logEntry 1 5 0x0107 0 with core := k, bundle := x.bundle, address := addr })
      k x 0x010B 0
  | some t =>
    let r : Req :=
      { source := if t = k ∧ x.kind ≠ .send then 0 else 1, ctx := x.ctx, addr := addr, len := len, write := write, data := data
        mark := mark, tagOp := tagOp, since := (coreAt s t).ctl.cycle, ready := none, core := k, id := x.id }
    let s1 := putXfer s k { x with busy := true }
    if t = k ∧ x.kind ≠ .send then
      if ctxOwns s x.ctx t (pageOf addr) then
        modCore s1 t fun c => { c with sp := { c.sp with reqs := c.sp.reqs ++ [r] } }
      else failXfer (logCtx s x.ctx { logEntry 1 3 0x0107 0 with core := k, bundle := x.bundle, address := pageOf addr })
          k x 0x010B 0
    else { s1 with mesh := s1.mesh ++ [⟨k, t, r⟩] }

/-- The address of the source access after one of `n` bytes, when the repeat goes on (`more`) or another one follows. -/
def nextRead (x : Xfer) (n : Nat) (more : Bool) : Option Int :=
  if more then some (srcAt x x.rep (x.rd + n)) else if x.rep + 1 < x.reps then some (srcAt x (x.rep + 1) 0) else none

/-- Whether a read that a scratchpad has served carries its marker. The end of a PWF stream shows only in the bytes read, so
the page-exit marker of its last access is placed then (R234, R316). -/
def markServed (s : State) (r : Req) (data : Bytes) : Bool :=
  r.mark || match (if r.write then none else xferOf s r.core r.id) with
    | some x => tfPwf (tdTransform x.desc) && tdSrcMode x.desc == 1 &&
        markAt 1 r.addr (nextRead x r.len (decide (0 < srcNeed x.desc (x.buf ++ data))))
    | none => false

/-- An access of a transfer outside scratchpads receives an error response; one outside the device address map has faulted the
context with E_ADDRESS too (R25, R593). -/
def failSide (s : State) (k : Nat) (x : Xfer) (kind index : Nat) (off : Int) (n : Nat) : State :=
  failXfer (match sideOutside s x.ctx kind index off n with
    | some a => logCtx s x.ctx { logEntry 1 5 0x0107 0 with core := k, bundle := x.bundle, address := a }
    | none => s) k x 0x010B 0

/-- The next read of a transfer, at most `left` bytes. -/
def readPiece (s : State) (k : Nat) (x : Xfer) (left : Nat) : State × Bool :=
  let d := x.desc
  let a := srcAt x x.rep x.rd
  let n := pieceLen (tdSrcKind d) a left
  if tdSrcKind d = 1 then
    let more := if srcContig d then decide (n < srcNeed d x.buf) else decide (x.rd + n < copyBytes d)
    let mark := markAt (tdSrcMode d) a (nextRead x n more) && !(tfPwf (tdTransform d) && tdSrcMode d == 1)
    (issueAccess s k x (tdSrcAddr d / 2 ^ 24 % 32) a.toNat n false [] mark false, false)
  else
    match sideRead s x.ctx (tdSrcKind d) (tdSrcIndex d) a n with
    | some bs => (putXfer s k { x with rd := x.rd + n, buf := x.buf ++ bs }, true)
    | none => (failSide s k x (tdSrcKind d) (tdSrcIndex d) a n, false)

/-- The next write of a transfer: `n` bytes from its buffer; `total` is what the repeat writes in all. -/
def writePiece (s : State) (k : Nat) (x : Xfer) (n total : Nat) : State × Bool :=
  let d := x.desc
  let a := dstAt x x.rep x.wr
  let bs := x.buf.take n
  if tdDstKind d = 1 then
    let next := if x.wr + n < total then some (dstAt x x.rep (x.wr + n)) else if x.rep + 1 < x.reps then some (dstAt x (x.rep + 1) 0) else none
    (issueAccess s k x (tdDstAddr d / 2 ^ 24 % 32) a.toNat n true bs (markAt (tdDstMode d) a next) false, false)
  else
    match sideWrite s x.ctx (tdDstKind d) (tdDstIndex d) a bs with
    | some s1 => (putXfer s1 k { x with wr := x.wr + n, buf := x.buf.drop n }, true)
    | none => (failSide s k x (tdDstKind d) (tdDstIndex d) a n, false)

/-- Bytes left in the block at position `p`. -/
def leftIn (contig : Bool) (block total p : Nat) : Nat := if contig then total - p else min (block - p % max 1 block) (total - p)

/-- One access or repeat step of a transfer: the state, and whether it can go on at once. -/
def pumpStep (s : State) (k : Nat) (x : Xfer) : State × Bool :=
  let d := x.desc
  if x.busy || x.failed.isSome || decide (x.reps ≤ x.rep) then (s, false)
  else match x.kind with
    | .tagOp release =>
      (issueAccess s k x x.srcBase (4096 * ((x.dstBase + x.rep) % 4096)) 0 (!release) [] true true, false)
    | _ =>
      let again := { x with rep := x.rep + 1, rd := 0, wr := 0, buf := [], staged := false }
      if tdTransform d = 0 then
        let l := copyBytes d
        let n := pieceLen (tdDstKind d) (dstAt x x.rep x.wr) (leftIn false (tdBlockBytes d) l x.wr)
        if l ≤ x.wr then (putXfer s k again, true)
        else if n ≤ x.buf.length then writePiece s k x n l
        else readPiece s k x (leftIn false (tdBlockBytes d) l x.rd)
      else if x.staged then
        let total := x.wr + x.buf.length
        if x.buf.isEmpty then (putXfer s k again, true)
        else writePiece s k x
          (pieceLen (tdDstKind d) (dstAt x x.rep x.wr) (leftIn (dstContig d) (tdBlockBytes d) total x.wr)) total
      else match metBad (tdTransform d) (xferDims d).1 (xferDims d).2 x.buf with
        | some e => (failXfer s k x 0x010C e, false)
        | none =>
          if 0 < srcNeed d x.buf then readPiece s k x (srcNeed d x.buf)
          else match transform (tdTransform d) (xferDims d).1 (xferDims d).2 (tdDstIndex d % 64) (outBytes d) x.buf with
            | .ok out => (putXfer s k { x with buf := out, staged := true, wr := 0 }, true)
            | .error e => (failXfer s k x 0x010C e, false)

/-- A transfer goes on until it waits, fails or ends. -/
def pump : Nat → State → Nat → Nat → State
  | 0, s, _, _ => s
  | fuel + 1, s, k, id =>
    match xferOf s k id with
    | none => s
    | some x =>
      let r := pumpStep s k x
      if r.2 then pump fuel r.1 k id else r.1

/-- Enough steps for a transfer to run to its next wait. -/
def pumpFuel (x : Xfer) : Nat := (x.reps + 1) * (2 * (outBytes x.desc + copyBytes x.desc + decodedBytes x.desc) + 8)

/-- A transfer of core `k` goes on. -/
def pumpOne (s : State) (k id : Nat) : State :=
  match xferOf s k id with
  | some x => pump (pumpFuel x) s k id
  | none => s

/-- Every transfer of core `k` that can go on does. -/
def pumpCore (s : State) (k : Nat) : State :=
  (coreAt s k).mv.xfers.foldl (fun t x => if x.busy || x.failed.isSome then t else pumpOne t k x.id) s

/-- The answer to an access of a transfer: the bytes of a read, the completion of a write, or an error response
(R593). -/
def replyXfer (s : State) (k id : Nat) (write : Bool) (len : Nat) (data : Option Bytes) : State :=
  match xferOf s k id with
  | none => s
  | some x =>
    match data with
    | none => failXfer s k x 0x010B 0
    | some bs =>
      match x.kind with
      | .tagOp _ => pumpOne (putXfer s k { x with busy := false, rep := x.rep + 1 }) k id
      | _ =>
        if write then pumpOne (putXfer s k { x with busy := false, wr := x.wr + len, buf := x.buf.drop len }) k id
        else pumpOne (putXfer s k { x with busy := false, rd := x.rd + len, buf := x.buf ++ bs }) k id

/-! ### Move words -/

/-- A token sent by core `k` to a token end of a lane of a context (R206, R227). -/
def sendToken (s : State) (k i bundle : Nat) (tok : Option (Nat × Nat)) : State :=
  match tok with
  | none => s
  | some p =>
    match coreOf (ctxAt s i) p.1 with
    | some t => modCore s t fun c => { c with tokensWaiting := c.tokensWaiting ++ [(p.2, k)] }
    | none => logCtx s i { logEntry 1 5 0x0107 0 with core := k, bundle := bundle }

/-- A transfer has moved everything and none of its accesses is under way. -/
def xferDone (x : Xfer) : Bool := decide (x.reps ≤ x.rep) && !x.busy && x.failed.isNone

/-- The `i`-th transfer of core `k` completes: its token is on its way (R206). -/
def completeXfer (s : State) (k i : Nat) : State :=
  match (coreAt s k).mv.xfers[i]? with
  | none => s
  | some x =>
    if xferDone x then
      sendToken (modCore s k fun c => { c with mv := { c.mv with xfers := c.mv.xfers.eraseIdx i, lastAt := c.workEnd + 1 } })
        k x.ctx x.bundle x.token
    else s

/-- A step of core `k` in which move words may issue: transfers of no repeats complete at once (R251), and the others go on
as far as they can. -/
def moveStep (s : State) (k : Nat) (f : Core → Core) : State :=
  let s1 := onCore s k f
  let none' := (coreAt s1 k).mv.xfers.zipIdx.filter fun x => x.1.reps == 0 && x.1.failed.isNone && decide ((coreAt s k).mv.nextId ≤ x.1.id)
  pumpCore (none'.foldr (fun x t => completeXfer t k x.2) s1) k

/-- The word of operation `op` at the head of the move queue issues at its cycle. -/
def moveEvent (op : Nat) (c : Core) : Core :=
  match c.movq with
  | q :: _ => if classOf q.word = op then coreEvent c (atCycle q.cycle) tryMove else c
  | [] => c

/-- The `i`-th transfer of core `k` that received an error response fails its batch (R593). -/
def failTransfer (s : State) (k i : Nat) : State :=
  match (coreAt s k).mv.xfers[i]? with
  | none => s
  | some x =>
    match x.failed with
    | none => s
    | some f =>
      let s1 := modCore s k fun c => { c with mv := { c.mv with xfers := c.mv.xfers.eraseIdx i } }
      logCtx s1 x.ctx { logEntry 1 5 f.1 0 with core := k, bundle := x.bundle, detail := f.2 }

/-- The `i`-th flag write of core `k` is delivered once the earlier writes have taken place; one for a core that
runs another context is discarded (R189). -/
def deliverFlag (s : State) (k i : Nat) : State :=
  let c := coreAt s k
  match c.mv.flagWrites[i]? with
  | none => s
  | some fw =>
    let bad := fun (t : State) => logCtx t fw.ctx { logEntry 1 5 0x0107 0 with core := k, bundle := fw.bundle }
    if c.mv.xfers.any (fun x => fw.behind.contains x.id && !xferDone x) then s
    else
      let s1 := modCore s k fun d => { d with mv := { d.mv with flagWrites := d.mv.flagWrites.eraseIdx i } }
      match coreOf (ctxAt s fw.ctx) fw.lane with
      | none => bad s1
      | some t =>
        if (coreAt s t).ctx = some fw.ctx then
          modCore s1 t fun d => { d with ctl := { d.ctl with flags := setFlagBit d.ctl.flags fw.flag true } }
        else bad s1

/-- A token waiting for token end `tk` of a core arrives, unless the end holds 255 (R205). -/
def deliverToken (tk : Nat) (c : Core) : Core :=
  match c.tokensWaiting.findIdx? (fun p => p.1 == tk) with
  | some i =>
    if c.ctl.tokens.getD tk 0 < 255 then
      { c with tokensWaiting := c.tokensWaiting.eraseIdx i, ctl := { c.ctl with tokens := modAt c.ctl.tokens tk (· + 1) } }
    else c
  | none => c

/-! ### The meanings -/

/-- DMA (R251). -/
def execDma (k : Nat) (s : State) : Res := .next (moveStep s k (moveEvent 0))

/-- SEND (R253). -/
def execSend (k : Nat) (s : State) : Res := .next (moveStep s k (moveEvent 1))

/-- TAG (R252). -/
def execTag (k : Nat) (s : State) : Res := .next (moveStep s k (moveEvent 2))

/-- FLAG_WORD (R189, R252). -/
def execFlagWord (k : Nat) (s : State) : Res := .next (moveStep s k (moveEvent 3))

/-- FLAG_DELIVERY (R189). -/
def execFlagDelivery (k i : Nat) (s : State) : Res := .next (deliverFlag s k i)

/-- TOKEN_DELIVERY (R205, R206). -/
def execTokenDelivery (k tk : Nat) (s : State) : Res := .next (modCore s k (deliverToken tk))

/-- TRANSFER_COMPLETE (R206). -/
def execTransferComplete (k i : Nat) (s : State) : Res := .next (completeXfer s k i)

/-- TRANSFER_FAIL (R593). -/
def execTransferFail (k i : Nat) (s : State) : Res := .next (failTransfer s k i)

end Sys2Proof.Machine
end

