-- ==== Sys2Proof/Machine/Lane.lean ====
section
/-!
DEFINITION. The meanings of the control operations (R239 to R241), SYNC (R208, R209), macros (R267 to R279), and the ends of
core holds (R155, R165, R199, R204, R207).
-/

namespace Sys2Proof.Machine

/-- NOP (R239). -/
def execNop (k : Nat) (s : State) : Res := .next (onCore s k fun c => plainBundle c 0x00 (fun _ t => t))

/-- SETA (R239). -/
def execSeta (k : Nat) (s : State) : Res := .next (onCore s k fun c => plainBundle c 0x01 ctlSeta)

/-- SETI (R239). -/
def execSeti (k : Nat) (s : State) : Res := .next (onCore s k fun c => plainBundle c 0x02 ctlSeti)

/-- SETC (R239). -/
def execSetc (k : Nat) (s : State) : Res := .next (onCore s k fun c => plainBundle c 0x03 ctlSetc)

/-- SETS (R239). -/
def execSets (k : Nat) (s : State) : Res := .next (onCore s k fun c => plainBundle c 0x04 ctlSets)

/-- ADDA (R239). -/
def execAdda (k : Nat) (s : State) : Res := .next (onCore s k fun c => plainBundle c 0x05 ctlAdda)

/-- STEPA (R239). -/
def execStepa (k : Nat) (s : State) : Res := .next (onCore s k fun c => plainBundle c 0x06 ctlStepa)

/-- ALU (R239). -/
def execAlu (k : Nat) (s : State) : Res := .next (onCore s k fun c => plainBundle c 0x07 ctlAlu)

/-- MOVX (R239). -/
def execMovx (k : Nat) (s : State) : Res := .next (onCore s k fun c => plainBundle c 0x08 ctlMovx)

/-- CMP (R188). -/
def execCmp (k : Nat) (s : State) : Res := .next (onCore s k fun c => plainBundle c 0x12 ctlCmp)

/-- FLAG (R239). -/
def execFlagOp (k : Nat) (s : State) : Res := .next (onCore s k fun c => plainBundle c 0x13 ctlFlag)

/-- LOOP (R190, R240). -/
def execLoop (k : Nat) (s : State) : Res := .next (onCore s k loopBundle)

/-- BREAK (R190, R239). -/
def execBrk (k : Nat) (s : State) : Res := .next (onCore s k breakBundle)

/-- SYNC (R198, R208). -/
def execSync (k : Nat) (s : State) : Res := .next (onCore s k syncBundle)

/-- SYNC_RELEASE (R208, R209). -/
def execSyncRelease (k waited : Nat) (s : State) : Res := .next (onCore s k (releaseSync (wdtSuspended s k) waited))

/-- MACRO (R241, R267). -/
def execSeqMacro (k : Nat) (s : State) : Res := .next (onCore s k macroBundle)

/-- MACRO_START (R277). -/
def execSeqStart (k waited : Nat) (s : State) : Res := .next (nextEpoch (onCore s k (startMacro waited s.freeCtr)))

/-- MACRO_COMPLETE (R278): the token leaves when the macro has completed. -/
def execSeqComplete (k ran : Nat) (s : State) : Res :=
  .next (
    let s1 := nextEpoch (nextEpoch (onCore s k (completeMacro ran s.freeCtr)))
    match (coreAt s k).seq with
    | some ms => if (coreAt s1 k).seq.isNone && !(coreAt s1 k).regs.stopped then
        sendToken s1 k ((coreAt s k).ctx.getD 0xFF) ms.bundle (macroToken ms) else s1
    | none => s1)

/-- END (R241). -/
def execEndOp (k : Nat) (s : State) : Res := .next (onCore s k endBundle)

/-- LATE_WORD_HOLD_END (R199). -/
def execLateWordHoldEnd (k held : Nat) (s : State) : Res := .next (onCore s k (endLate (wdtSuspended s k) held))

/-- TOKEN_WAIT_END (R207). -/
def execTokenWaitEnd (k held : Nat) (s : State) : Res := .next (moveStep s k (endTokenWait (wdtSuspended s k) held))

/-- TAG_WAIT_END (R155). -/
def execTagWaitEnd (k held : Nat) (flips : Flips) (s : State) : Res :=
  .next (moveStep s k fun c => endTagWait (wdtSuspended s k) held (flipCore flips c))

/-- ECC_HOLD_END (R165, R203). -/
def execEccHoldEnd (k : Nat) (s : State) : Res := .next (onCore s k (endEccHold (wdtSuspended s k)))

/-- HOLD_TIMEOUT (R204, R211), unless the watchdogs of the context are suspended (R298). -/
def execHoldTimeout (k : Nat) (s : State) : Res :=
  .next (if wdtSuspended s k then s else nextEpoch (onCore s k fun c => holdTimeoutCore c s.freeCtr))

end Sys2Proof.Machine
end

