-- ==== Sys2Proof/Machine/Engine.lean ====
section
/-!
DEFINITION. The meanings of the matrix and vector engines' words and events: each takes place at its cycle in
the order of its core (R195, R199, R200, R211). The bits a command names have changed wrongly before it (R163).
-/

namespace Sys2Proof.Machine

/-- A step of core `k` after bits of its scratchpad have changed wrongly. -/
def flipStep (s : State) (k : Nat) (flips : Flips) (f : Core → Core) : State := onCore s k fun c => f (flipCore flips c)

/-- The next load word at its issue cycle. -/
def loadEvent (c : Core) : Core :=
  match nextLoadWord c with
  | some (q, _) => coreEvent c (atCycle q.cycle) tryLoad
  | none => c

/-- LOAD (R74). -/
def execLoad (k : Nat) (flips : Flips) (s : State) : Res := .next (flipStep s k flips loadEvent)

/-- The end of the tile load or plane reload in progress. -/
def loadedEvent (c : Core) : Core :=
  match c.mx.loading with
  | some l => coreEvent c (loadKey l) fun x => .go (completeLoad x)
  | none => c

/-- TILE_LOAD_COMPLETE (R75, R84). -/
def execTileLoadComplete (k : Nat) (flips : Flips) (s : State) : Res := .next (flipStep s k flips loadedEvent)

/-- The next run word at its issue cycle. -/
def runEvent (c : Core) : Core :=
  match nextRunWord c with
  | some (q, _) => coreEvent c (atCycle q.cycle) tryRun
  | none => c

/-- RUN (R80, R81). -/
def execRun (k : Nat) (s : State) : Res := .next (onCore s k runEvent)

/-- The opening of the running word's next pass, or its next row. -/
def passEvent (opened : Bool) (c : Core) : Core :=
  match c.mx.run with
  | some r => if r.opened = opened then coreEvent c (runKey r) (if opened then tryRow else tryPassOpen) else c
  | none => c

/-- PASS_OPEN (R81, R84). -/
def execPassOpen (k : Nat) (flips : Flips) (s : State) : Res := .next (flipStep s k flips (passEvent false))

/-- ROW_ISSUE (R83, R97). -/
def execRowIssue (k : Nat) (flips : Flips) (s : State) : Res := .next (flipStep s k flips (passEvent true))

/-- The commit of the oldest row in flight. -/
def commitEvent (c : Core) : Core :=
  match c.mx.flight with
  | f :: _ => landEvent c (atEnd f.commit) (fun x => .go (runCommit x)) runCommit
  | [] => c

/-- ROW_COMMIT (R97, R211). -/
def execRowCommit (k : Nat) (s : State) : Res := .next (onCore s k commitEvent)

/-- A vector word of a class at the head of its queue, at its issue cycle. -/
def headEvent (cls : Nat) (c : Core) : Core :=
  match vecHead c cls with
  | some (q, _) => coreEvent c (atCycle q.cycle) tryVectorWord
  | none => c

/-- The next vector or column of running word `j` of a class, or the first of the word at the head of the queue (R115). -/
def vectorEvent (cls j : Nat) (c : Core) : Core :=
  match c.vx.runs[j]? with
  | some r => if classOf r.word.word = cls then coreEvent c (vrunKey r) (tryStep r) else c
  | none => headEvent cls c

/-- FMA (R115). -/
def execFma (k j : Nat) (flips : Flips) (s : State) : Res := .next (flipStep s k flips (vectorEvent 0 j))

/-- FUNC (R116). -/
def execFunc (k j : Nat) (flips : Flips) (s : State) : Res := .next (flipStep s k flips (vectorEvent 1 j))

/-- REDUCE (R117). -/
def execReduce (k j : Nat) (flips : Flips) (s : State) : Res := .next (flipStep s k flips (vectorEvent 2 j))

/-- TFILL (R121). -/
def execTfill (k j : Nat) (flips : Flips) (s : State) : Res := .next (flipStep s k flips (vectorEvent 3 j))

/-- TREAD (R121). -/
def execTread (k j : Nat) (s : State) : Res := .next (onCore s k (vectorEvent 4 j))

/-- PLOAD (R123). -/
def execPload (k : Nat) (flips : Flips) (s : State) : Res := .next (flipStep s k flips (headEvent 5))

/-- DRAIN (R124, R213, R248). -/
def execDrain (k : Nat) (flips : Flips) (s : State) : Res := .next (flipStep s k flips (headEvent 6))

/-- BIND (R249). -/
def execBind (k : Nat) (s : State) : Res := .next (onCore s k (headEvent 7))

/-- A result in flight lands. -/
def resultEvent (r : VRes) (c : Core) : Core :=
  landEvent c (resKey r) (tryResult r) fun x => if isWe r.dst0 || isWe r.dst1 then landWrite (leftRes r) x else landed (tryPush r) x

/-- VECTOR_RESULT (R115, R211). -/
def execVectorResult (k : Nat) (flips : Flips) (s : State) : Res :=
  .next (flipStep s k flips fun c =>
    match firstResult false c.vx.results with
    | some r => resultEvent r c
    | none => c)

/-- The write of the entry counted last, if one waits. -/
def tryCounted (c : Core) : Try :=
  match firstResult true c.vx.results with
  | some r => tryWrite r c
  | none => .go c

/-- See `tryCounted`, once the core has stopped. -/
def landCounted (c : Core) : Core :=
  match firstResult true c.vx.results with
  | some r => landWrite r c
  | none => c

/-- The next entry of a drain is output: written in the cycle after it is counted, or counted and pushed. -/
def outputEvent (d : DrainState) (c : Core) : Core :=
  if isWe d.dst then landEvent c (drainOutKey d) tryCounted landCounted
  else landEvent c (drainOutKey d) (tryEntryOut d) (landed (tryEntryOut d))

/-- The entry of a drain that is output next: one counted already, or the next of a drain. -/
def entryEvent (c : Core) : Core :=
  match firstResult true c.vx.results, firstDrain c.vx.drains with
  | some r, some d => if resKey r ≤ drainOutKey d then resultEvent r c else outputEvent d c
  | some r, none => resultEvent r c
  | none, some d => outputEvent d c
  | none, none => c

/-- DRAIN_ENTRY_OUTPUT (R125, R211). -/
def execDrainEntryOutput (k : Nat) (flips : Flips) (s : State) : Res := .next (flipStep s k flips entryEvent)

/-- VX_STAT_CTRL_CLOSE (R132, R136): the work before it has taken place. -/
def execVxStatClose (k : Nat) (s : State) : Res :=
  .next (onCore s k fun c =>
    let x := reach c (atEnd c.ctl.cycle)
    { x with vx := closeWindow x.vx })

end Sys2Proof.Machine
end

