-- ==== Sys2Proof/Machine/Scratch.lean ====
section
/-!
DEFINITION. The scratchpad's unscheduled side (R142, R143, R147 to R149, R152, R154, R156, R160, R165 to R169, R173) and the
registers that reach its page tags (R180, R181).
-/

namespace Sys2Proof.Machine

/-! ### What a bank serves next -/

/-- The bank an unscheduled request takes; 32 for a tag operation, which takes none (R159). -/
def reqBank (r : Req) : Nat := if r.tagOp then 32 else bankOf r.addr

/-- An access an unscheduled source has ready for a bank: a request by its place in the list, a corrected row to be written
back, or a page to be zeroed (R144). -/
inductive BankJob where
  | request (i : Nat)
  | writeBack (w : WriteBack)
  | zero (j : ZeroJob)
deriving DecidableEq, Repr

/-- The oldest ready request of a source for a bank. -/
def readyOf (sp : Sp) (b source : Nat) : Option BankJob :=
  (sp.reqs.findIdx? fun r => r.source == source && reqBank r == b && reqReady sp r).map .request

/-- The page of a zeroing job lets the maintenance source write it, or answers it with an error (R154, R173). -/
def zeroReady (sp : Sp) (j : ZeroJob) (b : Nat) : Bool :=
  decide (b < 32) && !j.banks.contains b && tagState (tagOf sp j.page) != 1

/-- The oldest ready access of the maintenance source for a bank (R148, R165, R173). -/
def maintOf (sp : Sp) (b : Nat) : Option BankJob :=
  match sp.corr.find? (fun w => w.bank == b), sp.zeroing.find? (fun j => zeroReady sp j b) with
  | some w, some j => some (if w.since ≤ j.since then .writeBack w else .zero j)
  | some w, none => some (.writeBack w)
  | none, some j => some (.zero j)
  | none, none => none

/-- The ready access of a source for a bank: 0 the move engine, 1 the mesh inbound, 2 maintenance (R148). -/
def jobOf (sp : Sp) (b source : Nat) : Option BankJob := if source = 2 then maintOf sp b else readyOf sp b source

/-- The sources of a bank in the order it serves them: round robin after the one it served last (R148). -/
def turnOrder (sp : Sp) (b : Nat) : List Nat := (List.range 4).map fun i => (look sp.turns b 3 + 1 + i) % 4

/-- What a bank serves next, with its source (R148). -/
def pickJob (sp : Sp) (b : Nat) : Option (Nat × BankJob) :=
  (turnOrder sp b).findSome? fun src => if src = 3 then none else (jobOf sp b src).map fun j => (src, j)

/-- It is the scrubber's turn at a bank: no source before it has a ready access (R148). -/
def scrubTurn (sp : Sp) (b : Nat) : Bool := ((turnOrder sp b).takeWhile (· != 3)).all fun src => (jobOf sp b src).isNone

/-- A bank has served a source in the present cycle (R142, R148). -/
def noteServed (c : Core) (b source : Nat) : Core :=
  useBanks { c with sp := { c.sp with turns := put c.sp.turns b source } } [b]

/-! ### Serving -/

/-- The error that an unscheduled access meets in a POISON or failing page: logged for the requester's context,
whose batch fails, and answered with an error response (R167). -/
def poisonReply (s : State) (k : Nat) (r : Req) : State :=
  replyXfer (logPoison s r.ctx k (pageOf r.addr) (bankOf r.addr)) r.core r.id r.write r.len none

/-- A permitted access takes place: data, marker and answer (R143, R152, R153). -/
def performReq (s : State) (k : Nat) (r : Req) : State :=
  let c := coreAt s k
  let data := spRead c.sp r.addr r.len
  let sp1 := if r.write && !r.tagOp then spWrite (dropCorr c.sp [(pageOf r.addr, bankOf r.addr)]) r.addr r.data else c.sp
  let sp2 := if markServed s r data then
      mapTags sp1 (if r.write then commitTag else releaseTag) [pageOf r.addr]
    else sp1
  replyXfer (setCore s k { c with sp := sp2 }) r.core r.id r.write r.len (some (if r.write then [] else data))

/-- Core `k` serves the request at a place of its list; a read, and the merge of a narrow write, is checked for errors
(R143, R166, R167). -/
def serveReq (s : State) (k i : Nat) : State :=
  let c := coreAt s k
  match c.sp.reqs[i]? with
  | none => s
  | some r =>
    let row := (pageOf r.addr, bankOf r.addr)
    let c1 := noteServed { c with sp := { c.sp with reqs := c.sp.reqs.eraseIdx i } } (reqBank r) r.source
    let rows := if !r.tagOp && (!r.write || decide (r.len < 128)) then [row] else []
    if tagState (tagOf c.sp row.1) = 3 then poisonReply (setCore s k c1) k r
    else
      let s1 := settle (setCore s k (noteChecks c1 rows 0xFFFFFFFF false)) k
      if (checkRows c1.sp rows).2.isEmpty then performReq s1 k r else poisonReply s1 k r

/-- A corrected row is rewritten with its own data, or the write-back of a POISON page is dropped; no tag changes either
way (R165). -/
def writeBackRow (c : Core) (w : WriteBack) : Core :=
  let sp := { c.sp with corr := c.sp.corr.erase w }
  { c with sp := if tagState (tagOf sp w.page) = 3 then sp else recode sp (rowNo w.page w.bank) }

/-- A page zeroed by the maintenance source: zero data, tag 0x00 (R153, R173). -/
def zeroPage (sp : Sp) (page : Nat) : Sp :=
  let sp1 := setTag (spZeroPage sp page) page 0
  { sp1 with zeroing := sp1.zeroing.filter (·.page != page), corr := sp1.corr.filter (·.page != page) }

/-- A row of a page written with zero data and class A check bits (R173). -/
def zeroRow (sp : Sp) (page bank : Nat) : Sp :=
  let sp1 := spWrite sp (rowAddr page bank) (List.replicate 128 0)
  { sp1 with coded := sp1.coded.filter (· != rowNo page bank), corr := sp1.corr.filter fun w => !(w.page == page && w.bank == bank) }

/-- The maintenance source writes the rows of a page in some banks, which ends its job when none is left (R173). A page
that has become POISON answers with an error, which ends the job (R154; DEDUCED, assumption 66). -/
def zeroBanks (c : Core) (j : ZeroJob) (banks : List Nat) : Core :=
  let all := j.banks ++ banks
  let sp :=
    if tagState (tagOf c.sp j.page) = 3 then { c.sp with zeroing := c.sp.zeroing.erase j }
    else if (List.range 32).all all.contains then zeroPage c.sp j.page
    else banks.foldl (fun s b => zeroRow s j.page b)
      { c.sp with zeroing := c.sp.zeroing.map fun x => if x.page = j.page then { x with banks := all } else x }
  banks.foldl (fun x b => noteServed x b 2) { c with sp := sp }

/-- A bank serves an access. -/
def serveJob (s : State) (k b : Nat) (job : BankJob) : State :=
  match job with
  | .request i => serveReq s k i
  | .writeBack w => modCore s k fun c => noteServed (writeBackRow c w) b 2
  | .zero j => modCore s k fun c => zeroBanks c j [b]

/-- Core `k` in the first cycle that leaves some banks to unscheduled accesses, with what it reports on the way. -/
def freeState (s : State) (k : Nat) (banks : List Nat) : Option State :=
  (atFree 64 (coreAt s k) banks).map fun c => settle (setCore s k c) k

/-- The bank serves the access it has next, when that is one asked for, in a cycle left to it. -/
def serveNext (s : State) (k b : Nat) (want : BankJob → Bool) : State :=
  match pickJob (coreAt s k).sp b, freeState s k [b] with
  | some p, some s1 => if want p.2 && pickJob (coreAt s1 k).sp b == some p then serveJob s1 k b p.2 else s1
  | _, _ => s

/-- UNSCHEDULED_ACCESS (R148). -/
def execUnscheduledAccess (k b : Nat) (flips : Flips) (s : State) : Res :=
  .next (serveNext (modCore s k (flipCore flips)) k b fun _ => true)

/-- The packets on their way to core `k`, with their places in the mesh. -/
def inboundOf (s : State) (k : Nat) : List (MeshPkt × Nat) := s.mesh.zipIdx.filter fun p => p.1.dst == k

/-- MESH_INBOUND_ACCESS (R15, R160): packets of one source arrive in order; one for a page its context does not
own is answered with an error. -/
def execMeshInboundAccess (k i : Nat) (s : State) : Res :=
  .next (match (inboundOf s k)[i]? with
    | none => s
    | some (p, place) =>
      if ((inboundOf s k).take i).any fun q => q.1.src == p.src then s
      else
        let s1 := { s with mesh := s.mesh.eraseIdx place }
        let r := { p.req with since := (coreAt s k).ctl.cycle, ready := none }
        if ctxOwns s r.ctx k (pageOf r.addr) then
          modCore s1 k fun c => { c with sp := { c.sp with reqs := c.sp.reqs ++ [r] } }
        else
          replyXfer (logCtx s1 r.ctx { logEntry 1 3 0x0107 0 with core := k, address := pageOf r.addr })
            r.core r.id r.write r.len none)

/-- CORRECTION_WRITE_BACK (R165): the oldest corrected row of the bank, at the maintenance source's turn. -/
def execCorrectionWriteBack (k b : Nat) (s : State) : Res :=
  .next (serveNext s k b fun j => match j with | .writeBack _ => true | _ => false)

/-! ### The starvation breaker -/

/-- The accesses a bank has ready, each with the counter's value when it became so (R149). -/
def readyJobs (sp : Sp) (b : Nat) : List (Nat × BankJob) :=
  (sp.reqs.zipIdx.filterMap fun r =>
    if reqBank r.1 == b && reqReady sp r.1 then r.1.ready.map fun t => (t, .request r.2) else none) ++
  (match maintOf sp b with
   | some (.writeBack w) => [(w.since, .writeBack w)]
   | some (.zero j) => [(j.since, .zero j)]
   | _ => [])

/-- The oldest access a bank has ready. -/
def oldestJob (sp : Sp) (b : Nat) : Option (Nat × BankJob) :=
  (readyJobs sp b).foldl (fun best p => match best with
    | some q => if p.1 < q.1 then some p else some q
    | none => some p) none

/-- The banks whose oldest ready access has waited 1,024 cycles since it became ready and since the breaker last served
the bank (R149). -/
def starvedBanks (c : Core) : List Nat :=
  (List.range 32).filter fun b =>
    match oldestJob c.sp b with
    | some p => decide (max p.1 (look c.sp.waits b 0) + 1024 ≤ c.ctl.cycle)
    | none => false

/-- The breaker holds the core for one cycle: it is counted, in a SYNC wait as well (R149, R204, R222). -/
def breakerHold (c : Core) : Core :=
  { c with
    sp := { c.sp with breakerCount := addCount c.sp.breakerCount 1 }
    hold := { c.hold with syncWatch :=
      if c.ctl.syncWait && decide (c.ctl.sectionBase + c.ctl.offset ≤ c.ctl.cycle) then c.hold.syncWatch + 1 else c.hold.syncWatch } }

/-- A starved bank serves its oldest ready access, and its count starts again. -/
def serveStarved (s : State) (k b : Nat) : State :=
  let s1 := modCore s k fun c => { c with sp := { c.sp with waits := put c.sp.waits b c.ctl.cycle } }
  match oldestJob (coreAt s1 k).sp b with
  | some p => serveJob s1 k b p.2
  | none => s1

/-- STARVATION_BREAKER (R149, R203): in a cycle no other cause holds, every starved bank serves its oldest ready
access. The held cycle leaves the counter's own cycle as it was. -/
def execStarvationBreaker (k : Nat) (s : State) : Res :=
  .next (
    let c := coreAt s k
    if holdCause c ≠ 0 ∨ !c.started ∨ c.regs.stopped ∨ starvedBanks c = [] then s
    else
      let s1 := (starvedBanks c).foldl (fun t b => serveStarved t k b) (modCore s k breakerHold)
      modCore s1 k fun x => { x with sp := { x.sp with used := c.sp.used } })

/-! ### The scrubber and the maintenance source -/

/-- The context that owns a page of core `k`. -/
def pageOwner (s : State) (k page : Nat) : Nat := ((List.range 16).find? fun i => ctxOwns s i k page).getD 0xFF

/-- CLK_CORE runs: outside Voile and Felt, and while either is entered up to the step that stops it (R169, R547). -/
def coreClock (s : State) : Bool :=
  match s.pw.phase with
  | .active => true
  | .entering felt ap => felt && decide (ap < 5) || decide (ap < 2)
  | _ => false

/-- The scrubber's row moves on (R169, R185). -/
def nextScrub (c : Core) : Core :=
  { c with sp := { c.sp with
    scrubRow := c.sp.scrubRow + 1
    scrubPasses := if c.sp.scrubRow = 4095 then c.sp.scrubPasses + 1 else c.sp.scrubPasses
    scrubDone := [] } }

/-- The scrubber has read a bank of its present step, whose last one moves the row on. -/
def scrubbed (c : Core) (b : Nat) : Core :=
  if (List.range 32).all (b :: c.sp.scrubDone).contains then nextScrub c
  else { c with sp := { c.sp with scrubDone := b :: c.sp.scrubDone } }

/-- The scrubber's access of a bank at row `scrubRow`: the row is checked, a corrected one is queued for write-back, and an
uncorrectable one makes the page POISON (R165, R167, R169). The row of a page that is not class W and FULL is skipped. -/
def scrubOnce (s : State) (k b : Nat) : State :=
  let c := coreAt s k
  let page := c.sp.scrubRow.toNat
  let t := tagOf c.sp page
  if !c.sp.scrubOn then s
  else if !(tagClassW t && tagState t == 1) then setCore s k (nextScrub c)
  else if decide (32 ≤ b) || c.sp.scrubDone.contains b || !scrubTurn c.sp b then s
  else match freeState s k [b] with
    | none => s
    | some s1 =>
      let d := noteServed (scrubbed (coreAt s1 k) b) b 3
      let s2 := settle (setCore s1 k (noteChecks d [(page, b)] 0xFFFFFFFF true)) k
      (checkRows d.sp [(page, b)]).2.foldl (fun x r =>
        logAdd x { logEntry 1 3 0x0105 0 with ctx := pageOwner s k page, core := k, inst := r.2, address := page }) s2

/-- SCRUB_STEP (R169): only while CLK_CORE runs in the core. -/
def execScrubStep (k b : Nat) (flips : Flips) (s : State) : Res :=
  .next (
    let s1 := modCore s k (flipCore flips)
    if coreClock s ∧ k < s.cores.length then scrubOnce s1 k b else s1)

/-- PAGE_ZERO (R173): of a page that waits to be zeroed, the rows in the banks whose turn it is. -/
def execPageZero (k page : Nat) (s : State) : Res :=
  .next (match (coreAt s k).sp.zeroing.find? (fun j => j.page == page) with
    | none => s
    | some j =>
      let banks := (List.range 32).filter fun b => pickJob (coreAt s k).sp b == some (2, .zero j)
      match (if banks.isEmpty then none else freeState s k banks) with
      | none => s
      | some s1 => modCore s1 k fun c => zeroBanks c j banks)

/-- SP_TAG_DATA_WRITE (R180, R181): ignored unless scheduler firmware makes it. -/
def execSpTagDataWrite (k : Nat) (path : RegPath) (v : W32) (s : State) : Res :=
  .next (if path = .firmware then
      modCore s k fun c =>
        { c with sp := { setTag c.sp c.sp.tagIndex.toNat (v.setWidth 8 &&& 0x3F) with tagIndex := c.sp.tagIndex + 1 } }
    else s)

/-- SP_TAG_DATA_READ (R180): the tag of the indexed page; the index moves on. -/
def execSpTagDataRead (k : Nat) (s : State) : Res :=
  .next (
    let c := coreAt s k
    { modCore s k (fun x => { x with sp := { x.sp with tagIndex := x.sp.tagIndex + 1 } }) with
      readOut := (tagOf c.sp c.sp.tagIndex.toNat).setWidth 64 })

end Sys2Proof.Machine
end

