-- ==== Sys2Proof/Machine/Streams.lean ====
section
/-!
DEFINITION. Sensor streams (R424 to R439): the checks of a packet, frames and their slots, gaps, credits, the
dispatcher that forms batches, the ingest buffer with panic (R349, R350), and result frames.
-/

namespace Sys2Proof.Machine

/-- Sequence `a` is after `b` (R426). -/
def seqAfter (a b : W32) : Bool := decide (1 ≤ (a - b).toNat) && decide ((a - b).toNat < 2 ^ 31)

/-- A stream replaced. -/
def putStream (s : State) (st : Stream) : State :=
  { s with net := { s.net with streams := s.net.streams.map fun x => if x.sid = st.sid then st else x } }

/-- The entry is valid (R433). -/
def streamValid (st : Stream) : Bool := seFlags st.entry % 2 == 1

/-- The earliest of some sequences, all of them after `last` (R426). -/
def earliest (last : W32) (qs : List W32) : Option W32 :=
  qs.foldl (fun m q => match m with
    | none => some q
    | some x => if (q - last).toNat < (x - last).toNat then some q else some x) none

/-- The earliest sequence that holds a slot, else the one after the last admitted or gap frame (R430). -/
def lowestOf (st : Stream) : W32 :=
  match st.frames.filter (fun f => !f.past) with
  | [] => st.last + 1
  | f :: fs => fs.foldl (fun m g => if seqAfter m g.seq then g.seq else m) f.seq

/-- The limit: lowest + S (R430). -/
def limitOf (st : Stream) : W32 := lowestOf st + BitVec.ofNat 32 (seSlots st.entry)

/-- A count of ST_DROP_* or ST_RESULT_DROPPED raised (R456). -/
def countDrop (s : State) (i : Nat) : State :=
  { s with net := { s.net with drops := modAt s.net.drops i fun v => BitVec.ofNat 32 (satAdd 32 v.toNat 1) } }

/-- The port at a number. -/
def portAt (s : State) (p : Nat) : Port := s.net.ports.getD p Port.reset

/-- The priority a frame leaves on, as its PCP gives it (R416, R472). PFC frames have none. -/
def framePrio (s : State) (f : OutFrame) : Option Nat :=
  let ofQp := fun (n : Nat) => (s.net.qps.find? fun x => x.num == n).map fun x => rdLe x.params 7 1 % 8
  match f with
  | .credit _ _ _ _ _ pcp => some pcp
  | .result _ _ _ _ _ _ _ _ _ pcp => some pcp
  | .cnp n => ofQp n
  | .ack n _ => ofQp n
  | .seqNak n _ => ofQp n
  | .accessNak n _ => ofQp n
  | .operationNak n _ => ofQp n
  | .rnrNak n _ => ofQp n
  | .readResponse n _ _ => ofQp n
  | .readRequest n _ _ _ _ => ofQp n
  | .rdmaWrite n _ _ _ => ofQp n
  | .rdmaSend n _ _ => ofQp n
  | .pfc _ _ _ => none
  | .egressTime _ => none
  | .toFirmware _ _ => none

/-- A frame sent through a port: dropped while its link is down (R439, R446), kept while its priority is paused
(R418). -/
def sendFrame (s : State) (port : Nat) (f : OutFrame) : State :=
  let p := portAt s port
  if !p.linkUp then s
  else match (framePrio s f).filter fun i => p.paused.toNat.testBit i with
    | some i => { s with net := { s.net with ports := s.net.ports.set port { p with held := p.held ++ [(i, f)] } } }
    | none => { s with net := { s.net with out := s.net.out ++ [f] } }

/-- Where the stream's credit and result frames go. -/
def pathOf (st : Stream) : NetPath := ⟨st.port, st.retMac, st.retVlan, st.retAddr, st.retPort⟩

/-- A credit frame (R431); none while a device-fatal error lasts (R588), and none before the stream has a base. -/
def sendCredit (s : State) (sid : Nat) : State :=
  match streamOf s sid with
  | some st =>
    if s.net.dropping || !st.based then s
    else sendFrame s st.port (.credit (pathOf st) sid (lowestOf st) (limitOf st) s.net.ptp s.net.creditPcp.toNat)
  | none => s

/-- The level of the ingest buffer set; panic begins above 3 MiB and ends below 2 MiB (R350, R361, R362). -/
def setLevel (s : State) (n : Nat) : State :=
  let h := s.hbm
  if h.rtLevel < n ∧ 3145728 < n ∧ !h.panic then
    { s with hbm := { h with rtLevel := n, panic := true, panicCount := BitVec.ofNat 32 (satAdd 32 h.panicCount.toNat 1) } }
  else if n < h.rtLevel ∧ n < 2097152 then { s with hbm := { h with rtLevel := n, panic := false } }
  else { s with hbm := { h with rtLevel := n } }

/-- The bytes of ingest entries that count in the level. -/
def levelOf (l : List Ingest) : Nat := (l.map fun g => if g.counted then g.bytes.length else 0).sum

/-- The ingest buffer replaced, with its level. -/
def setIngest (s : State) (l : List Ingest) : State := setLevel { s with net := { s.net with ingest := l } } (levelOf l)

/-! ### The dispatcher -/

/-- Ranks of a context's batches (R454). -/
def batchRanks (s : State) (c : Nat) : Nat := fld (s.net.ctxBatch.getD c 0) 37 32 + 1

/-- per_stream in effect (R454). -/
def batchPer (s : State) (c : Nat) : Nat :=
  let n := fld (s.net.ctxBatch.getD c 0) 8 0 + 1
  if 4096 < batchRanks s c * n then 4096 / batchRanks s c else n

/-- The open batch of a context. -/
def openOf (s : State) (c : Nat) : StreamBatch := look s.net.openB c ⟨[], false⟩

/-- The closed batches of a context, oldest first. -/
def closedOf (s : State) (c : Nat) : List StreamBatch := (s.net.closedB.filter fun p => p.1 == c).map (·.2)

/-- Frames of a stream in a batch. -/
def countIn (b : StreamBatch) (sid : Nat) : Nat := (b.frames.filter fun f => f.sid == sid).length

/-- The open batch closes when a stream has filled its share or the deadline has passed, while the queue of closed
batches is not full (R435, R437). -/
def closeIfDue (s : State) (c : Nat) : State :=
  let b := openOf s c
  if (b.due || b.frames.any fun f => decide (batchPer s c ≤ countIn b f.sid)) && !b.frames.isEmpty &&
      decide ((closedOf s c).length < 8) then
    { s with net := { s.net with openB := del s.net.openB c, closedB := s.net.closedB ++ [(c, { b with due := false })] } }
  else s

/-- Gap sequences that no held frame precedes are passed (R428, R430). -/
def passGaps : Nat → Stream → Stream
  | 0, st => st
  | n + 1, st =>
    match earliest st.last (st.gaps.filter fun g => seqAfter g st.last) with
    | none => { st with gaps := [] }
    | some g =>
      if st.frames.any (fun f => !f.admitted && seqAfter g f.seq) then st
      else passGaps n { st with last := g, gaps := st.gaps.filter (· != g) }

/-- The next frame of a stream to admit: the earliest held and not admitted, once it is accepted (R435). -/
def nextFrame (st : Stream) : Option HeldFrame :=
  match earliest st.last ((st.frames.filter fun f => !f.admitted).map (·.seq)) with
  | some q => st.frames.find? fun f => f.seq == q && f.accepted
  | none => none

/-- One frame admitted to the open batch of a context, if a stream has one whose share is not full (R435). -/
def admitOne (s : State) (c : Nat) : Option State :=
  let can := s.net.streams.findSome? fun st =>
    if seCtx st.entry = c ∧ streamValid st ∧ countIn (openOf s c) st.sid < batchPer s c ∧ st.based then
      (nextFrame st).map fun f => (st, f)
    else none
  can.map fun p =>
    let st1 := { p.1 with
      last := p.2.seq
      gaps := p.1.gaps.filter fun g => seqAfter g p.2.seq
      frames := p.1.frames.map fun f => if f.seq = p.2.seq then { f with admitted := true } else f }
    let b := openOf s c
    let b1 : StreamBatch := { b with
      frames := b.frames ++ [⟨seRank p.1.entry, p.1.sid, p.2.seq, p.2.timestamp, p.1.entry, none⟩] }
    putStream { s with net := { s.net with openB := put s.net.openB c b1 } } (passGaps (st1.gaps.length + 1) st1)

/-- The dispatcher closes and admits for a context until neither is possible (R435). -/
def dispatchFuel : Nat → State → Nat → State
  | 0, s, c => closeIfDue s c
  | n + 1, s, c =>
    let s1 := closeIfDue s c
    match admitOne s1 c with
    | some s2 => dispatchFuel n s2 c
    | none => s1

/-- The dispatcher at work for a context. -/
def dispatch (s : State) (c : Nat) : State :=
  dispatchFuel ((s.net.streams.map fun st => st.frames.length).sum + 1) s c

/-- A change of a stream that may raise its limit: a credit frame follows when the last accepted frame asked for
credit, and the dispatcher goes on (R431). -/
def afterRelease (s0 s : State) (sid : Nat) : State :=
  match streamOf s0 sid, streamOf s sid with
  | some a, some b =>
    let s1 := if b.based && 0 < b.creditReq && seqAfter (limitOf b) (limitOf a) then sendCredit s sid else s
    dispatch s1 (seCtx b.entry)
  | _, _ => s

/-- A frame that is not admitted becomes a gap: it holds no slot and its fragments are discarded (R428, R429,
R430). -/
def gapFrame (s : State) (sid : Nat) (q : W32) : State :=
  match streamOf s sid with
  | none => s
  | some st =>
    if st.frames.any (fun f => f.seq == q && f.admitted) || !(st.based && seqAfter q st.last) then
      (if st.based then s else
        setIngest (putStream s { st with frames := st.frames.filter fun f => f.seq != q })
          (s.net.ingest.filter fun g => !(g.sid == sid && g.seq == q)))
    else
      let st1 : Stream :=
        { st with
          frames := st.frames.filter fun f => f.seq != q
          gaps := q :: st.gaps.filter (· != q) }
      let s1 := putStream s (passGaps (st1.gaps.length + 1) st1)
      afterRelease s (setIngest s1 (s1.net.ingest.filter fun g => !(g.sid == sid && g.seq == q))) sid

/-- A frame damaged by a dropped real-time write (R356, R434): it becomes a gap; one admitted to a batch that has
not started leaves that batch. -/
def damageFrame (s : State) (sid : Nat) (q : W32) : State :=
  match streamOf s sid with
  | none => s
  | some st =>
    let keep := fun (b : StreamBatch) => { b with frames := b.frames.filter fun f => !(f.sid == sid && f.seq == q) }
    let waiting := fun (p : Nat × StreamBatch) => p.2.frames.any fun f => f.sid == sid && f.seq == q
    if (s.net.openB ++ s.net.closedB).any waiting then
      let s1 := { s with net := { s.net with
        openB := s.net.openB.map fun p => (p.1, keep p.2)
        closedB := s.net.closedB.map fun p => (p.1, keep p.2) } }
      afterRelease s (setIngest (putStream s1 { st with frames := st.frames.filter fun f => f.seq != q })
        (s1.net.ingest.filter fun g => !(g.sid == sid && g.seq == q))) sid
    else gapFrame s sid q

/-! ### Packets -/

/-- The receive-buffer occupancy of a priority (R419): XOFF above 64 KiB and XON below 32 KiB on a lossless
priority. -/
def setOccupancy (s : State) (port prio occ : Nat) : State :=
  let p := portAt s port
  let p1 := { p with occupancy := p.occupancy.set prio occ }
  let has := p.xoffSent.toNat.testBit prio
  let store := fun (q : Port) => { s with net := { s.net with ports := s.net.ports.set port q } }
  if !s.net.lossless.toNat.testBit prio then store p1
  else if !has && decide (65536 < occ) then
    sendFrame (store { p1 with xoffSent := p.xoffSent ||| BitVec.ofNat 8 (2 ^ prio) }) port (.pfc port prio 0xFFFF)
  else if has && decide (occ < 32768) then
    sendFrame (store { p1 with xoffSent := p.xoffSent &&& ~~~ BitVec.ofNat 8 (2 ^ prio) }) port (.pfc port prio 0)
  else store p1

/-- A received frame finds no room on a priority that is not lossless (R417, R419). -/
def bufferFull (s : State) (port prio occ : Nat) : Bool :=
  !s.net.lossless.toNat.testBit prio && decide (524288 < (((portAt s port).occupancy.set prio 0).sum + occ))

/-- The device receives on a port: its link is up, outside Felt and its entry and exit (R440, R441). -/
def receives (s : State) (port : Nat) : Bool :=
  (portAt s port).linkUp && (match s.pw.phase with
    | .active => true
    | .voile => true
    | .entering _ _ => true
    | _ => false)

/-- Check 1 (R428): version, type, reserved bits, payload length; credit and result packets are malformed. -/
def malformed (p : SspPacket) : Bool :=
  p.version != 1 || decide (3 < p.ptype) || p.reservedBits || p.payloadBytes + 40 != p.udpBytes ||
    (p.ptype == 3 && p.format != 1 && p.format != 2)

/-- Check 2 (R428): the stream of the packet, whose entry's filter it passes. -/
def boundStream (s : State) (p : SspPacket) : Option Stream :=
  (streamOf s p.stream).filter fun st => streamValid st &&
    (!(seFlags st.entry).testBit 2 ||
      (p.srcAddr == seSrcAddr st.entry && (seSrcPort st.entry == 0 || p.srcPort == seSrcPort st.entry)))

/-- Where a fragment's payload lies in its frame (R427). -/
def fragOffset (p : SspPacket) : Nat := if p.last then p.frameBytes - p.payloadBytes else p.frag * p.payloadBytes

/-- Checks 3 and 4 (R428). -/
def badData (p : SspPacket) (e : Bytes) : Bool :=
  p.ptype != seType e || (seFormat e != 0xFFFF && p.format.toNat != seFormat e) ||
    decide (seSlotBytes e < p.frameBytes + 64) || decide (p.frameBytes < p.payloadBytes) ||
    decide (p.frameBytes < fragOffset p + p.payloadBytes)

/-- Every fragment has arrived and their bytes cover the frame exactly (R427). -/
def frameComplete (f : HeldFrame) : Bool :=
  match f.lastFrag with
  | none => false
  | some l =>
    (List.range (l + 1)).all (fun i => f.frags.any fun g => g.1 == i) && f.frags.length == l + 1 &&
      (f.frags.map (·.2)).sum == f.frameBytes &&
      (f.frags.filter fun g => g.1 != l).all fun g => g.2 == (look f.frags 0 0)

/-- The slot header of a frame (R434); its arrival time is that of its first packet (assumption 30). -/
def slotHeader (p : SspPacket) : Bytes :=
  toLe 4 p.seq.toNat ++ toLe 4 p.frameBytes ++ toLe 8 p.timestamp.toNat ++ toLe 8 p.arrival.toNat ++
    toLe 2 p.stream ++ toLe 2 p.format.toNat ++ toLe 1 p.port ++ List.replicate 35 0

/-- The return path and credit request of an accepted packet (R416, R431). -/
def noteSource (st : Stream) (p : SspPacket) : Stream :=
  { st with retAddr := p.srcAddr, retPort := p.srcPort, retMac := p.srcMac, retVlan := p.vlan, port := p.port }

/-- A frame as a base at `q` leaves it: one before the base no longer counts as the earliest that holds a slot (R430). -/
def passBase (q : W32) (f : HeldFrame) : HeldFrame := { f with past := f.past || !(f.seq == q || seqAfter f.seq q) }

/-- A stream's base set: the sequence before it counts as passed, and frames held before it are released
(R430). -/
def setBase (st : Stream) (q : W32) : Stream :=
  { st with
    based := true
    last := q - 1
    gaps := []
    frames := (st.frames.filter fun f => f.admitted || f.seq == q || seqAfter f.seq q).map (passBase q) }

/-- A data packet that passed every check enters the ingest buffer (R428, R429, R434). -/
def takeFragment (s : State) (st : Stream) (p : SspPacket) : State :=
  let a := slotAddr st.entry p.seq
  let old := st.frames.find? fun f => f.seq == p.seq
  let f0 : HeldFrame := old.getD
    { seq := p.seq, frags := [], lastFrag := none, frameBytes := p.frameBytes, timestamp := p.timestamp
      accepted := false, admitted := false, past := false }
  if f0.frags.any fun g => g.1 == p.frag then s
  else
    let f1 := { f0 with frags := f0.frags ++ [(p.frag, p.payloadBytes)], lastFrag := if p.last then some p.frag else f0.lastFrag }
    let done := frameComplete f1
    let f2 := { f1 with accepted := done }
    let st0 := noteSource st p
    let st1 := { st0 with frames := if old.isSome then st0.frames.map fun f => if f.seq = p.seq then f2 else f else st0.frames ++ [f2] }
    let st2 := if done then { (if st1.based then st1 else setBase st1 p.seq) with creditReq := p.creditRequest } else st1
    let head : List Ingest := if old.isSome then [] else [⟨p.stream, p.seq, a, slotHeader p, false⟩]
    let body : List Ingest := if p.payload.isEmpty then [] else [⟨p.stream, p.seq, a + 64 + fragOffset p, p.payload, true⟩]
    let s1 := setIngest (putStream s st2) (s.net.ingest ++ head ++ body)
    if done then dispatch (sendCredit s1 p.stream) (seCtx st.entry) else s1

/-- A slot of the stream is held by another frame (R430); possible only before it has a base. -/
def slotTaken (st : Stream) (q : W32) : Bool :=
  st.frames.any fun f => f.seq != q && f.seq.toNat % max 1 (seSlots st.entry) == q.toNat % max 1 (seSlots st.entry)

/-- A control packet (R427): CREDIT_PROBE sets the base of a stream that has none, RESET_SEQUENCE sets it anew and
releases the frames held and not admitted; a credit frame answers. -/
def controlPacket (s : State) (st : Stream) (p : SspPacket) : State :=
  let st0 := noteSource st p
  if p.format = 1 then
    let st1 := if st0.based then st0 else setBase st0 p.seq
    dispatch (sendCredit (putStream s st1) p.stream) (seCtx st.entry)
  else
    let st1 := { st0 with based := true, last := p.seq - 1, gaps := [], frames := (st0.frames.filter (·.admitted)).map (passBase p.seq) }
    let held := fun (g : Ingest) => g.sid == p.stream && !(st1.frames.any fun f => f.seq == g.seq)
    dispatch (sendCredit (setIngest (putStream s st1) (s.net.ingest.filter fun g => !held g)) p.stream) (seCtx st.entry)

/-- A data packet of a stream against checks 3 to 7 (R428). A packet dropped for its data or for want of room makes
its frame a gap, if the frame lies before the limit (assumption 31). -/
def dataPacket (s : State) (st : Stream) (p : SspPacket) : State :=
  if badData p st.entry then
    (if st.based && !seqAfter (limitOf st) p.seq then countDrop s 0 else gapFrame (countDrop s 0) p.stream p.seq)
  else if (st.based && !seqAfter (limitOf st) p.seq) || slotTaken st p.seq then countDrop s 2
  else if st.based && (!seqAfter p.seq st.last || st.gaps.contains p.seq) then countDrop s 3
  else if 4194304 < s.hbm.rtLevel + p.payload.length then gapFrame (countDrop s 4) p.stream p.seq
  else takeFragment s st p

/-- A Spexa Stream Protocol packet (R428). Data frames are dropped from step 3 of a Felt entry on, and counted (R547), and
after a device-fatal error (R588). -/
def streamPacket (s : State) (p : SspPacket) : State :=
  if !receives s p.port || !s.net.stEnable || p.udpPort != s.net.udpPort.toNat then s
  else if bufferFull s p.port p.prio p.occ then s
  else
    let s := setOccupancy s p.port p.prio p.occ
    if s.net.dropping && p.ptype != 3 then (match s.pw.phase with | .entering true _ => countDrop s 4 | _ => s)
    else if malformed p then countDrop s 0
    else match boundStream s p with
      | none => countDrop s 1
      | some st => if p.ptype = 3 then controlPacket s st p else dataPacket s st p

/-! ### The end of a batch -/

/-- The frames of a batch hold their slots no longer (R430, R437); those of an earlier binding hold none of the stream's. -/
def releaseFrames (s : State) (c : Nat) (all : List BatchFrame) : State :=
  let frames := all.filter fun f => f.path.isNone
  let sids := (frames.map (·.sid)).eraseDups
  let s1 := sids.foldl (fun t sid =>
    match streamOf t sid with
    | some st => putStream t { st with frames := st.frames.filter fun f =>
        !(f.admitted && frames.any fun g => g.sid == sid && g.seq == f.seq) }
    | none => t) s
  dispatch (sids.foldl (fun t sid => afterRelease s t sid) s1) c

/-- The largest payload of an unfragmented result frame on a path (R415, R425, R438). -/
def resultCap (p : NetPath) : Nat :=
  9216 - 18 - (if p.vlan = 0 then 0 else 4) - (if p.addr / 2 ^ 32 = 0xFFFF then 20 else 40) - 40

/-- A result frame cut into fragments with L = 9,088, the largest multiple of 64 that fits (R427, R438). -/
def resultFrames (dest : NetPath) (sid : Nat) (q : W32) (ts : W64) (format : Nat) (payload : Bytes) (pcp : Nat) :
    List OutFrame :=
  if payload.length ≤ resultCap dest then [.result dest sid q ts format 0 true payload.length payload pcp]
  else
    let n := ceilDiv payload.length 9088
    (List.range n).map fun i => .result dest sid q ts format i (decide (i + 1 = n)) payload.length (slice payload (9088 * i) 9088) pcp

/-- A result sent to the network, or dropped and counted while the port is down (R438, R439). -/
def sendResult (s : State) (f : BatchFrame) (path : NetPath) (format : Nat) (payload : Bytes) : State :=
  let dest := { path with udp := if seReturnPort f.entry = 0 then path.udp else seReturnPort f.entry }
  if (portAt s path.port).linkUp then
    { s with net := { s.net with
      out := s.net.out ++ resultFrames dest f.sid f.seq f.timestamp format payload s.net.resultPcp.toNat } }
  else countDrop s 6

/-- The completion ring has room (R467). -/
def cqRoom (r : Ring) : Bool := (r.cqTail.toNat + 1) % 2 ^ r.sizeInUse != r.cqHead.toNat

/-- A completion entry's 16 bytes (R466). -/
def cqEntry (r : Ring) (tag status sqHead value info : Nat) : Bytes :=
  toLe 4 tag ++ toLe 2 status ++ toLe 2 sqHead ++ toLe 4 value ++ toLe 2 info ++ [0, if r.phase then 1 else 0]

/-- A completion entry written at the completion tail of ring `q` (R466, R467). -/
def writeCq (s : State) (q : Nat) (tag status sqHead value info : Nat) : State :=
  let r := s.host.rings.getD q Ring.reset
  let s1 := hbmWrite s (r.cqBase.toNat + 16 * r.cqTail.toNat) (cqEntry r tag status sqHead value info)
  let wrap := r.cqTail.toNat + 1 = 2 ^ r.sizeInUse
  { s1 with host := { s1.host with rings := modAt s1.host.rings q fun x =>
      { x with
        cqTail := if wrap then 0 else x.cqTail + 1
        phase := if wrap then !x.phase else x.phase
        unsignalled := x.unsignalled + 1 } } }

/-- A result as a completion of a host ring, or dropped and counted (R468, R485). -/
def ringResult (s : State) (f : BatchFrame) (payload : Bytes) : State :=
  let i := seRing f.entry
  let r := s.host.rings.getD i Ring.reset
  if (r.state = .active ∨ r.state = .blocked ∨ r.state = .stopped) ∧ cqRoom r then
    let s1 := hbmWrite s (r.resBase.toNat + 4096 * r.cqTail.toNat) (payload.take 4032)
    writeCq s1 i (2 ^ 31 + f.sid) 0x0002 0xFFFF f.seq.toNat payload.length
  else countDrop s 6

/-- The result of one admitted frame of a batch (R438): its record in the work area. -/
def frameResult (s : State) (c : Nat) (b : Batch) (f : BatchFrame) : State :=
  let reg := s.net.ctxResult.getD c 0
  let size := fld reg 63 48
  let n := f.rank * b.per + ((rankFrames b f.rank).findIdx fun g => g == f)
  let a := (ctxAt s c).workBase + fld reg 47 0 + n * size
  let len := leNat (hbmRead s a 2)
  let payload := hbmRead s (a + 64) len
  if size = 0 ∨ len = 0 ∨ hbmBad s a (64 + len) then s
  else if (seFlags f.entry).testBit 1 then ringResult s f payload
  else match f.path.or ((streamOf s f.sid).map pathOf) with
    | some path => sendResult s f path (leNat (hbmRead s (a + 2) 2)) payload
    | none => s

/-- The results of a completed stream batch, each stream's in sequence order (R438, R439). -/
def sendResults (s : State) (c : Nat) (b : Batch) : State := b.frames.foldl (fun t f => frameResult t c b f) s

/-! ### The meanings -/

/-- STREAM_PACKET (R428). -/
def execStreamPacket (p : SspPacket) (s : State) : Res := .next (streamPacket s p)

/-- CREDIT_PROBE (R427). -/
def execCreditProbe (p : SspPacket) (s : State) : Res :=
  .next (if p.ptype = 3 ∧ p.format = 1 then streamPacket s p else s)

/-- RESET_SEQUENCE (R427). -/
def execResetSequence (p : SspPacket) (s : State) : Res :=
  .next (if p.ptype = 3 ∧ p.format = 2 then streamPacket s p else s)

/-- REASSEMBLY_TIMEOUT (R429). -/
def execReassemblyTimeout (sid : Nat) (seq : W32) (s : State) : Res :=
  .next (match streamOf s sid with
    | some st =>
      if st.frames.any fun f => f.seq == seq && !f.accepted then gapFrame (countDrop s 5) sid seq else s
    | none => s)

/-- BATCH_DEADLINE (R435): the open batch is due. -/
def execBatchDeadline (c : Nat) (s : State) : Res :=
  .next (
    let b := openOf s c
    if b.frames.isEmpty then s
    else dispatch { s with net := { s.net with openB := put s.net.openB c { b with due := true } } } c)

end Sys2Proof.Machine
end

