-- ==== Sys2Proof/Machine/Hbm.lean ====
section
/-!
DEFINITION. The HBM controller (R339 to R369): requests and their units, write merging and forwarding, drains,
error checks, refresh, self-refresh, command/address parity and training. Reads keep the data the writes accepted
before them leave (R346), so a unit's order does not depend on when it is served.
-/

namespace Sys2Proof.Machine

/-- A front end mapped. -/
def modChan (s : State) (pc : Nat) (f : PseudoChan → PseudoChan) : State :=
  { s with hbm := { s.hbm with chans := put s.hbm.chans pc (f (chanAt s pc)) } }

/-- The stack of a pseudo-channel (R18): stack 0 has PC_00 to PC_31. -/
def stackOf (pc : Nat) : Nat := pc / 32 % 2

/-- The bank of a unit within its pseudo-channel: stack ID, bank and bank group (R341). -/
def hbmBankOf (unit : Nat) : Nat := unit * 32 / 65536 % 32

/-- The stack is active. -/
def stackActive (s : State) (stack : Nat) : Bool := s.hbm.srState.getD stack 0 == 0

/-- The stream a real-time requester stands for: requester 0x1000 + stream (R348). -/
def rtRequester (sid : Nat) : Nat := 0x1000 + sid

/-- Unit `u` of a request has completed (R342); when none is left the requester receives its response. -/
def unitDone (s : State) (requester tag u : Nat) (error : Bool) (data : Bytes) : State :=
  match s.hbm.opens.find? fun o => o.requester == requester && o.tag == tag && o.left.contains u with
  | none => s
  | some o =>
    let o1 : HbmOpen :=
      { o with
        left := o.left.filter (· != u)
        error := o.error || error
        got := put o.got u data }
    let s1 := { s with hbm := { s.hbm with opens := s.hbm.opens.map fun x => if x = o then o1 else x } }
    if o1.left.isEmpty then
      let bytes := (unitsOf o.addr o.len).flatMap fun v => look o1.got v []
      let r : MemResp :=
        { requester := requester, tag := tag, error := o1.error
          data := if o1.error || o.write then [] else slice bytes (o.addr % 32) o.len }
      { s1 with hbm := { s1.hbm with opens := s1.hbm.opens.filter (· != o1), resps := s1.hbm.resps ++ [r] } }
    else s1

/-- Owners of an entry answered. -/
def ownersDone (s : State) (u : Nat) (owners : List (Nat × Nat)) (error : Bool) : State :=
  owners.foldl (fun t o =>
    if 0x1000 ≤ o.1 then (if error then damageFrame t (o.1 - 0x1000) (BitVec.ofNat 32 o.2) else t)
    else unitDone t o.1 o.2 u error []) s

/-- MC_ECC_CORRECTED and MC_ERR_LAST for a corrected unit (R354, R364, R367). -/
def hbmCorrected (s : State) (u : Nat) : State :=
  let n := s.hbm.eccCorrected.toNat
  let n' := if stackOf (pcOf u) = 1 then satAdd 32 (n / 2 ^ 32) 1 * 2 ^ 32 + n % 2 ^ 32
    else n / 2 ^ 32 * 2 ^ 32 + satAdd 32 (n % 2 ^ 32) 1
  logAdd { s with hbm := { s.hbm with
      eccCorrected := BitVec.ofNat 64 n'
      errLast := BitVec.ofNat 64 (pcOf u * 2 ^ 54 + u * 32) } }
    { logEntry 0 6 0x0201 0 with inst := pcOf u, address := u * 32 }

/-- MC_ECC_UNCORRECTED and MC_ERR_LAST for a unit found uncorrectable (R354, R365, R367). -/
def hbmUncorrected (s : State) (u : Nat) (realtime : Bool) : State :=
  let n := s.hbm.eccUncorrected.toNat
  let n' := if stackOf (pcOf u) = 1 then satAdd 16 (n / 2 ^ 16) 1 * 2 ^ 16 + n % 2 ^ 16
    else n / 2 ^ 16 * 2 ^ 16 + satAdd 16 (n % 2 ^ 16) 1
  logAdd { s with hbm := { s.hbm with
      eccUncorrected := BitVec.ofNat 32 n'
      errLast := BitVec.ofNat 64 (2 ^ 63 + (if realtime then 2 ^ 60 else 0) + pcOf u * 2 ^ 54 + u * 32) } }
    { logEntry 1 6 0x0202 0 with inst := pcOf u, address := u * 32 }

/-! ### Requests -/

/-- The bytes a write at `a` gives unit `u`. -/
def unitMask (a : Nat) (bs : Bytes) (u : Nat) : List (Option Byte) :=
  (List.range 32).map fun i => if a ≤ u * 32 + i then bs[u * 32 + i - a]? else none

/-- Later bytes put over an entry's (R343). -/
def mergeUnit (old new : List (Option Byte)) : List (Option Byte) :=
  (List.range 32).map fun i => match new.getD i none with
    | some b => some b
    | none => old.getD i none

/-- A write unit accepted: merged into the unit's entry, which keeps its place, or queued (R343, R346). -/
def acceptWrite (s : State) (a : Nat) (bs : Bytes) (requester tag : Nat) (realtime : Bool) (u : Nat) : State :=
  let m := unitMask a bs u
  modChan s (pcOf u) fun ch =>
    if ch.writes.any fun w => w.unit == u then
      { ch with writes := ch.writes.map fun w => if w.unit = u then
          { w with
            data := mergeUnit w.data m
            owners := w.owners ++ [(requester, tag)]
            realtime := w.realtime || realtime } else w }
    else { ch with writes := ch.writes ++ [⟨u, m, [(requester, tag)], realtime⟩] }

/-- A read unit accepted (R344): forwarded, or queued, waiting when the queue holds some of its bytes. -/
def acceptRead (s : State) (requester tag u : Nat) : State :=
  let ch := chanAt s (pcOf u)
  match ch.writes.find? fun w => w.unit == u with
  | some w =>
    if w.data.all (·.isSome) then unitDone s requester tag u false (w.data.map fun b => b.getD 0)
    else modChan s (pcOf u) fun c => { c with reads := c.reads ++ [⟨u, requester, tag, true, hbmRead s (u * 32) 32, 0⟩] }
  | none =>
    modChan s (pcOf u) fun c => { c with reads := c.reads ++ [⟨u, requester, tag, false, hbmRead s (u * 32) 32, 0⟩] }

/-- The front ends have room for a request's units: 64 reads, 128 write entries (R342, R343). -/
def hbmRoom (s : State) (write : Bool) (units : List Nat) : Bool :=
  (units.map pcOf).eraseDups.all fun pc =>
    let ch := chanAt s pc
    let mine := units.filter fun u => pcOf u == pc
    if write then decide (ch.writes.length + (mine.filter fun u => !(ch.writes.any fun w => w.unit == u)).length ≤ 128)
    else decide (ch.reads.length + mine.length ≤ 64)

/-- A bulk request receives an error response; one outside the device address map faults its requester with E_ADDRESS (R25).
DESIGN CHOICE: a requester that the request does not tie to a context has an entry of the HBM controller's (assumption 60). -/
def refuseBulk (s : State) (r : HbmReq) (len : Nat) : State :=
  let s1 := if hbmEnd < r.addr + len then (logPut s { logEntry 1 6 0x0107 0 with address := r.addr }).1 else s
  { s1 with hbm := { s1.hbm with resps := s1.hbm.resps ++ [⟨r.requester, r.tag, true, []⟩] } }

/-- A bulk request (R342, R346, R348): its units are accepted, or receive an error response where HBM accepts none
(R357, R358). -/
def bulkRequest (s : State) (r : HbmReq) : State :=
  let len := if r.write then r.data.length else r.len
  let units := unitsOf r.addr len
  let fresh := !(s.hbm.opens.any fun o => o.requester == r.requester && o.tag == r.tag)
  if !fresh || units.isEmpty || decide (0x1000 ≤ r.requester) then s
  else if decide (hbmEnd < r.addr + len) || hbmDown s r.addr len then refuseBulk s r len
  else if !hbmRoom s r.write units then s
  else
    let s1 := { s with hbm := { s.hbm with opens := s.hbm.opens ++
      [⟨r.requester, r.tag, r.write, r.addr, len, units, false, []⟩] } }
    units.foldl (fun t u => if r.write then acceptWrite t r.addr r.data r.requester r.tag false u
      else acceptRead t r.requester r.tag u) s1

/-- The next real-time write (R348, R349): bytes from the front of the ingest buffer, within one 256-byte
interleave unit. -/
def realtimeRequest (s : State) : State :=
  match s.net.ingest with
  | [] => s
  | g :: rest =>
    let n := min g.bytes.length (256 - g.addr % 256)
    let left := { g with addr := g.addr + n, bytes := g.bytes.drop n }
    let bs := g.bytes.take n
    let units := unitsOf g.addr n
    if hbmDown s g.addr n then
      damageFrame (setIngest s rest) g.sid g.seq
    else if !stackActive s (stackOf (pcOf (g.addr / 32))) || !hbmRoom s true units then s
    else
      let s1 := units.foldl (fun t u => acceptWrite t g.addr bs (rtRequester g.sid) g.seq.toNat true u) s
      setIngest s1 (if left.bytes.isEmpty then rest else left :: rest)

/-! ### Service -/

/-- A stack serves nothing in self-refresh or while it leaves it (R352), or once its pseudo-channel has failed. -/
def pcServes (s : State) (pc : Nat) : Bool := stackActive s (stackOf pc) && !(chanAt s pc).failed && s.hbm.trained == 3

/-- The `i`-th read of a pseudo-channel returns (R344, R353, R354). -/
def readReturn (s : State) (pc i : Nat) (ecc : Ecc) : State :=
  match (chanAt s pc).reads[i]? with
  | none => s
  | some r =>
    if r.waits || !pcServes s pc then s
    else
      let s1 := modChan s pc fun c => { c with reads := c.reads.eraseIdx i }
      let ecc := if s.hbm.bad.contains r.unit then Ecc.uncorrectable 0 [] else ecc
      match ecc with
      | .clean => unitDone s1 r.requester r.tag r.unit false r.data
      | .corrected _ => unitDone (hbmCorrected s1 r.unit) r.requester r.tag r.unit false r.data
      | .uncorrectable _ _ => unitDone (hbmUncorrected s1 r.unit false) r.requester r.tag r.unit true []

/-- An entry may drain now (R344, R346, R347, R350): more than 96 entries wait, or no read that could be served
does, or a read waits for this entry; reads of its unit accepted before it have returned; and panic serves
real-time entries first. -/
def mayDrain (s : State) (ch : PseudoChan) (w : WriteUnit) : Bool :=
  (decide (96 < ch.writes.length) || !(ch.reads.any fun r => !r.waits) || ch.reads.any fun r => r.waits && r.unit == w.unit) &&
    !(ch.reads.any fun r => !r.waits && r.unit == w.unit) &&
    (!s.hbm.panic || w.realtime || !(ch.writes.any (·.realtime)))

/-- A unit of HBM with an entry's bytes written into it. -/
def storeUnit (s : State) (w : WriteUnit) : State :=
  let old := memRead s.hbm.cells (fun _ => 0) (w.unit * 32) 32
  { s with hbm := { s.hbm with
    cells := memWrite s.hbm.cells zeroDflt (w.unit * 32) (w.data.zipIdx.map fun p => p.1.getD (old.getD p.2 0))
    bad := s.hbm.bad.filter (· != w.unit) } }

/-- The `i`-th write entry of a pseudo-channel is written to the stack (R345, R347, R354). -/
def writeDrain (s : State) (pc i : Nat) (ecc : Ecc) : State :=
  let ch := chanAt s pc
  match ch.writes[i]? with
  | none => s
  | some w =>
    if !pcServes s pc || !mayDrain s ch w then s
    else
      let old := memRead s.hbm.cells (fun _ => 0) (w.unit * 32) 32
      let cmd : RetryCmd := ⟨w, 0, old, s.hbm.bad.contains w.unit⟩
      let s1 := modChan s pc fun c => { c with
        writes := c.writes.eraseIdx i
        reads := c.reads.map fun r => if r.unit = w.unit then { r with waits := false } else r
        retry := (c.retry ++ [cmd]).drop (c.retry.length + 1 - 32) }
      let whole := w.data.all (·.isSome)
      let ecc := if s.hbm.bad.contains w.unit then Ecc.uncorrectable 0 [] else ecc
      match (if whole then Ecc.clean else ecc) with
      | .clean => ownersDone (storeUnit s1 w) w.unit w.owners false
      | .corrected _ => ownersDone (hbmCorrected (storeUnit s1 w) w.unit) w.unit w.owners false
      | .uncorrectable _ _ =>
        let s2 := { s1 with hbm := { s1.hbm with bad := w.unit :: s1.hbm.bad.filter (· != w.unit) } }
        ownersDone (hbmUncorrected s2 w.unit w.realtime) w.unit w.owners true

/-- A request waits for a stack. -/
def stackWanted (s : State) (stack : Nat) : Bool :=
  s.hbm.chans.any (fun p => stackOf p.1 == stack && !(p.2.reads.isEmpty && p.2.writes.isEmpty)) ||
    (match s.net.ingest with | g :: _ => stackOf (pcOf (g.addr / 32)) == stack | [] => false)

/-- A stack's self-refresh state set. -/
def setStack (s : State) (stack v : Nat) : State := { s with hbm := { s.hbm with srState := s.hbm.srState.set stack v } }

/-! ### Command/address parity -/

/-- Everything queued for a failed pseudo-channel receives an error response (R357). -/
def failChan (s : State) (pc : Nat) : State :=
  let ch := chanAt s pc
  let s1 := modChan s pc fun _ => { PseudoChan.reset with failed := true }
  let s2 := ch.reads.foldl (fun t r => unitDone t r.requester r.tag r.unit true []) s1
  ch.writes.foldl (fun t w => ownersDone t w.unit w.owners true) s2

/-- The commands inside their alert window (R355): the last `n` writes of the retry buffer. -/
def windowOf (ch : PseudoChan) (n : Nat) : List RetryCmd := ch.retry.drop (ch.retry.length - n)

/-- The commands treated as not executed: their units as before, newest first (R355). -/
def undoCmds (s : State) (cmds : List RetryCmd) : State :=
  cmds.reverse.foldl (fun t c => { t with hbm := { t.hbm with
    cells := memWrite t.hbm.cells zeroDflt (c.entry.unit * 32) c.old
    bad := if c.oldBad then c.entry.unit :: t.hbm.bad.filter (· != c.entry.unit)
      else t.hbm.bad.filter (· != c.entry.unit) } }) s

/-- The bulk commands replayed in their order, real-time ones dropped with their frames damaged (R355, R356). A
replayed read-modify-write of a unit that reports uncorrectable is again not made. -/
def replayCmds (s : State) (cmds : List RetryCmd) : State :=
  cmds.foldl (fun t c =>
    if c.entry.realtime then
      ownersDone { t with hbm := { t.hbm with
        caDropped := BitVec.ofNat 16 (satAdd 16 t.hbm.caDropped.toNat 1) } } c.entry.unit c.entry.owners true
    else if t.hbm.bad.contains c.entry.unit && !(c.entry.data.all (·.isSome)) then t
    else storeUnit t c.entry) s

/-- CA_PARITY_ALERT (R355 to R357, R366, R367). -/
def parityAlert (s : State) (pc n m : Nat) : State :=
  let ch := chanAt s pc
  let cmds := windowOf ch n
  let drops := cmds.any fun c => c.entry.realtime
  let ready := (ch.reads.filter fun r => !r.waits).take m
  let tired := cmds.any (fun c => !c.entry.realtime && decide (4 ≤ c.alerts)) || ready.any fun r => decide (4 ≤ r.alerts)
  let s1 := { s with hbm := { s.hbm with caAlerts := BitVec.ofNat 16 (satAdd 16 s.hbm.caAlerts.toNat 1) } }
  if cmds.isEmpty && ready.isEmpty || ch.failed || s.hbm.trained != 3 then s
  else if tired then
    let u := match cmds.find? fun c => !c.entry.realtime && decide (4 ≤ c.alerts) with
      | some c => c.entry.unit
      | none => ((ready.find? fun r => decide (4 ≤ r.alerts)).map (·.unit)).getD 0
    let s2 := failChan s1 pc
    deviceFatal { s2 with hbm := { s2.hbm with
        fatal := true
        failedPc := BitVec.ofNat 6 pc
        errLast := BitVec.ofNat 64 (2 ^ 63 + 2 * 2 ^ 61 + pc * 2 ^ 54 + u * 32) } }
      { logEntry 2 6 0x0204 0 with inst := pc, address := u * 32 }
  else
    let s2 := logAdd { s1 with hbm := { s1.hbm with
        errLast := BitVec.ofNat 64 ((if drops then 2 ^ 63 + 2 ^ 60 else 0) + 2 ^ 61 + pc * 2 ^ 54) } }
      { logEntry (if drops then 1 else 0) 6 0x0203 0 with inst := pc }
    let s3 := replayCmds (undoCmds s2 cmds) cmds
    modChan s3 pc fun c => { c with
      retry := (cmds.filter fun x => !x.entry.realtime).map fun x => { x with alerts := x.alerts + 1 }
      reads := c.reads.map fun r => if ready.contains r then { r with alerts := r.alerts + 1 } else r }

/-! ### Refresh and training -/

/-- A bank has a waiting request. -/
def bankWanted (ch : PseudoChan) (b : Nat) : Bool :=
  ch.reads.any (fun r => hbmBankOf r.unit == b) || ch.writes.any fun w => hbmBankOf w.unit == b

/-- The refresh interval of a bank expires (R351): a wanted bank's refresh is postponed, and forced at the eighth
postponement. -/
def refreshBank (s : State) (pc b : Nat) : State :=
  if !stackActive s (stackOf pc) then s
  else modChan s pc fun ch =>
    let n := look ch.postponed b 0
    if bankWanted ch b && decide (n < 8) then { ch with postponed := put ch.postponed b (n + 1) }
    else { ch with postponed := del ch.postponed b }

/-- Training ends (R340, R358, R367, R368): `known` says that the stacks' identities are in firmware's table. -/
def train (s : State) (known : Bool) (windows : List Nat) : State :=
  let low := windows.foldl min 255
  let bad := windows.findIdx? fun w => decide (w < 12)
  let h := s.hbm
  if h.trainDone || !s.pw.pllLocked then s
  else if known && bad.isNone then
    { s with hbm := { h with trainDone := true, trained := 3, minWindow := BitVec.ofNat 8 low } }
  else
    let lane := bad.getD 0
    let ok := fun (stack : Nat) => known && ((windows.drop (128 * stack)).take 128).all fun w => decide (12 ≤ w)
    deviceFatal { s with hbm := { h with
        trainDone := true
        trainFailed := true
        fatal := true
        trained := BitVec.ofNat 2 ((if ok 0 then 1 else 0) + if ok 1 then 2 else 0)
        minWindow := BitVec.ofNat 8 low
        failLane := BitVec.ofNat 8 lane
        errLast := BitVec.ofNat 64 (2 ^ 63 + 3 * 2 ^ 61) } }
      (logEntry 2 6 0x0205 0)

/-! ### The meanings -/

/-- HBM_REQUEST (R342 to R346, R348, R349): a real-time request takes its bytes from the ingest buffer. -/
def execHbmRequest (r : HbmReq) (s : State) : Res := .next (if r.realtime then realtimeRequest s else bulkRequest s r)

/-- HBM_READ_COMPLETE (R354). -/
def execHbmReadComplete (pc i : Nat) (ecc : Ecc) (s : State) : Res := .next (readReturn s pc i ecc)

/-- HBM_WRITE_DRAIN (R345, R347). -/
def execHbmWriteDrain (pc i : Nat) (ecc : Ecc) (s : State) : Res := .next (writeDrain s pc i ecc)

/-- REFRESH (R351). -/
def execRefresh (pc b : Nat) (s : State) : Res := .next (refreshBank s pc b)

/-- SELF_REFRESH_ENTRY (R352): an idle stack, when MC_SR_CTRL.enable is 1. -/
def execSelfRefreshEntry (stack : Nat) (s : State) : Res :=
  .next (if s.hbm.srEnable && stackActive s stack && !stackWanted s stack && s.hbm.trained == 3 then setStack s stack 1 else s)

/-- SELF_REFRESH_EXIT (R352): it begins with the first request; in Felt a stack stays in self-refresh. -/
def execSelfRefreshExit (stack : Nat) (s : State) : Res :=
  .next (if s.hbm.srState.getD stack 0 == 1 && stackWanted s stack && (s.pw.phase == .active || s.pw.phase == .voile) then
    setStack s stack 2 else s)

/-- SELF_REFRESH_EXIT_COMPLETE (R352). -/
def execSelfRefreshExitComplete (stack : Nat) (s : State) : Res :=
  .next (if s.hbm.srState.getD stack 0 == 2 then setStack s stack 0 else s)

/-- CA_PARITY_ALERT (R355). -/
def execCaParityAlert (pc writes reads : Nat) (s : State) : Res := .next (parityAlert s pc writes reads)

/-- HBM_TRAINING (R358). -/
def execHbmTraining (known : Bool) (windows : List Nat) (s : State) : Res := .next (train s known windows)

end Sys2Proof.Machine
end

