-- ==== Sys2Proof/Machine/Placement.lean ====
section
/-!
DEFINITION. Contexts on cores: pinned pages (R157, R168, R172, R173, R230), placement (R227, R257, R481, R617),
weight slots and their residence (R310, R311, R321 to R325, R329, R330), and the batches of a context from their
start to their end (R223, R482, R594).
-/

namespace Sys2Proof.Machine

/-! ### Pages -/

/-- A page of a lane of a context lies in a pipeline-link range (R335, R473). -/
def linkPage (s : State) (i lane page : Nat) : Bool :=
  s.net.links.any fun l => l.ctx == i && l.lane == lane && decide ((page + 4096 - l.first) % 4096 < l.pages)

/-- The pages of context `i` on core `k`. -/
def ctxPages (s : State) (i k : Nat) : List Nat :=
  match pagesOn (ctxAt s i) k with
  | some p => ownedPages p.1 p.2
  | none => []

/-- Pages set LOCKED and left to the maintenance source to zero; unscheduled requests waiting on them are discarded
with an error response (R156, R173). -/
def lockPages (s : State) (k : Nat) (pages : List Nat) : State :=
  let gone := (coreAt s k).sp.reqs.filter fun r => pages.contains (pageOf r.addr)
  let s1 := modCore s k fun c =>
    { c with sp := { mapTags c.sp (fun t => tagWith t 2) pages with
        reqs := c.sp.reqs.filter fun r => !pages.contains (pageOf r.addr)
        zeroing := c.sp.zeroing.filter (fun j => !pages.contains j.page) ++ pages.eraseDups.map fun p => ⟨p, [], c.ctl.cycle⟩ } }
  gone.foldl (fun t r => replyXfer t r.core r.id r.write r.len none) s1

/-- Data written into whole pages by firmware, which sets them LOCKED, writes them as class W and leaves them FULL and pinned
(R157, R164, R168, R230, R323). A write-back or zeroing that waits for them is dropped. DESIGN CHOICE (assumption 59): `gen`
stays as it was. -/
def writePinned (s : State) (k a : Nat) (bs : Bytes) : State :=
  if bs.isEmpty then s
  else modCore s k fun c =>
    let pages := rangePages a bs.length
    let sp := spWriteRange (mapTags c.sp (fun t => BitVec.ofNat 8 (nfld t.toNat 4 3 * 8 + 0x26)) pages) a bs
    { c with sp := { mapTags sp (fun t => tagWith t 1) pages with
        errPages := sp.errPages.filter fun p => !pages.contains p
        zeroing := sp.zeroing.filter fun j => !pages.contains j.page
        corr := sp.corr.filter fun w => !pages.contains w.page } }

/-- Every page of a range is FULL, class W and pinned. -/
def rangePinned (s : State) (k a n : Nat) : Bool :=
  (rangePages a n).all fun p => (tagOf (coreAt s k).sp p).toNat &&& 0x27 == 0x25

/-! ### Weight slots -/

/-- Slot 0 (A) or 1 (B) of a context. -/
def slotOfCtx (x : Ctx) (i : Nat) : Slot := if i = 1 then x.slotB else x.slotA

/-- A slot of a context mapped. -/
def modSlot (s : State) (c i : Nat) (f : Slot → Slot) : State :=
  modCtx s c fun x => if i = 1 then { x with slotB := f x.slotB } else { x with slotA := f x.slotA }

/-- Field accessors of a weight-set descriptor and its tensor entries (R308). -/
def wsTensors (d : Bytes) : Nat := rdLe d 6 2
def wsSetId (d : Bytes) : Nat := rdLe d 8 8
def wsNoEvict (d : Bytes) : Bool := (rdLe d 0x10 4) % 2 == 1
def wsStage (d : Bytes) : Nat := rdLe d 0x14 1
def wsUp (d : Bytes) : Nat := rdLe d 0x16 2
def wsDown (d : Bytes) : Nat := rdLe d 0x18 2
def wsEntry (d : Bytes) (i : Nat) : Bytes := slice d (64 + 64 * i) 64
def teKind (e : Bytes) : Nat := rdLe e 0 1
def teTransform (e : Bytes) : Nat := rdLe e 1 1
def teStage (e : Bytes) : Nat := rdLe e 2 1
def teBook (e : Bytes) : Nat := rdLe e 3 1
def teRkey (e : Bytes) : Nat := rdLe e 4 4
def teSrc (e : Bytes) : Nat := rdLe e 8 8
def teSrcBytes (e : Bytes) : Nat := rdLe e 0x10 8
def teOutBytes (e : Bytes) : Nat := rdLe e 0x18 8
def teK (e : Bytes) : Nat := rdLe e 0x20 4
def teN (e : Bytes) : Nat := rdLe e 0x24 4
def teQp (e : Bytes) : Nat := rdLe e 0x28 2

/-- A tensor is kept on this chip (R309). -/
def teKept (d : Bytes) (i : Nat) : Bool := decide (i < wsTensors d) && teStage (wsEntry d i) == wsStage d

/-- The code width a tensor's shape gives it, if any (R325). -/
def teWidth (e : Bytes) : Option Nat :=
  match teTransform e % 16 with
  | 1 => some 0
  | 2 => some 1
  | 3 => some 2
  | 5 => some 2
  | 4 => some 3
  | 6 => some 3
  | _ => none

/-- A weight reference finds its tensor in a set (R325). -/
def refMatches (d : Bytes) (r : Bytes) : Bool :=
  let e := wsEntry d (wrTensor r)
  teKept d (wrTensor r) && teOutBytes e == wrBytes r &&
    (wrWidth r == 0xFF || (match teWidth e with | some w => wrWidth r == w | none => true))

/-- The tensor index of the first reference of a context's program that a slot does not match (R325). -/
def slotMismatch (x : Ctx) (sl : Slot) : Option Nat :=
  match x.image with
  | none => none
  | some img => ((imgRefs img).find? fun r => sl.state == .free || !refMatches sl.desc r).map wrTensor

/-- The residence-0 references of a context's program, with the core that holds each (R232). -/
def pinnedRefs (x : Ctx) : List (Nat × Bytes) :=
  match x.image with
  | none => []
  | some img => (imgRefs img).filterMap fun r => if wrResidence r = 0 then (coreOf x (wrLane r)).map fun k => (k, r) else none

/-- The pinned pages of a context's weights set LOCKED to be zeroed, on one core or on all (R173, R324, R327). -/
def freePinned (s : State) (c : Nat) (only : Option Nat) : State :=
  (pinnedRefs (ctxAt s c)).foldl (fun t p =>
    if only.getD p.1 = p.1 then
      lockPages t p.1 ((rangePages (wrAddress p.2) (wrBytes p.2)).filter fun g => tagPinned (tagOf (coreAt t p.1).sp g))
    else t) s

/-- A slot freed with its staged copy (R324); its pinned pages are zeroed unless they are about to be overwritten. -/
def freeSlot (s : State) (c i : Nat) (pages : Bool) : State :=
  let had := (slotOfCtx (ctxAt s c) i).inPages
  modSlot (if pages && had then freePinned s c none else s) c i fun _ => Slot.reset

/-- A slot whose references are gone leaves RETIRING (R324). -/
def retireNow (s : State) (c i : Nat) : State :=
  let sl := slotOfCtx (ctxAt s c) i
  if sl.state = .retiring ∧ sl.refs = 0 then freeSlot s c i true else s

/-- The reference that a reload whose staged copies are fetched again holds (R321). -/
def reloadRef (sl : Slot) : Nat := if sl.reload.isEmpty then 0 else 1

/-- A reference to a slot is dropped (R321). -/
def dropRef (s : State) (c i : Nat) : State := modSlot s c i fun sl => { sl with refs := sl.refs - 1 }

/-- The pinned contents of context `c` on core `k`: constant-pool items of the lane there (R230), and the
residence-0 tensors of its resident set, as addresses with their bytes. -/
def poolData (x : Ctx) (k : Nat) : List (Nat × Bytes) :=
  match x.image, laneOn x k with
  | some img, some l =>
    let e := laneEntry img l
    (imgItems img e).map fun it => (it.1, slice (imgPool img e) it.2.2 it.2.1)
  | _, _ => []

/-- The slot whose tensors fill the pinned pages. -/
def residentSlot (x : Ctx) : Option Nat := if x.slotA.inPages then some 0 else if x.slotB.inPages then some 1 else none

/-- Where the staged copy of a referenced tensor lies in a slot. -/
def stagedOf (sl : Slot) (r : Bytes) : Nat := ((stagedTensor sl (wrTensor r)).map (·.1)).getD 0

/-- The tensors a core needs whose staged copies return an error response (R330). -/
def stagedBad (s : State) (c i : Nat) (only : Option Nat) : List Nat :=
  ((pinnedRefs (ctxAt s c)).filter fun p =>
    only.getD p.1 == p.1 && hbmBad s (stagedOf (slotOfCtx (ctxAt s c) i) p.2) (wrBytes p.2)).map fun p => wrTensor p.2

/-- The set is fetched again, so far as the given tensors go, for a reload that holds a reference meanwhile (R321, R330). -/
def refetchFor (s : State) (c i : Nat) (ts : List Nat) : State :=
  modSlot s c i fun z => { z with
    state := .refetching
    reload := ts.eraseDups
    refs := z.refs + 1 - reloadRef z }

/-- The pinned tensors of a slot written into their pages, on one core or on all (R323, R330). -/
def fillPinned (s : State) (c i : Nat) (only : Option Nat) : State :=
  (pinnedRefs (ctxAt s c)).foldl (fun t p =>
    if only.getD p.1 = p.1 then
      writePinned t p.1 (wrAddress p.2) (hbmRead t (stagedOf (slotOfCtx (ctxAt t c) i) p.2) (wrBytes p.2))
    else t) s

/-- The constant pools of a context written, on one core (R230). -/
def fillPool (s : State) (c k : Nat) : State := (poolData (ctxAt s c) k).foldl (fun t p => writePinned t k p.1 p.2) s

/-- Every pinned page of context `c` on core `k` holds what it should (R168, R330). -/
def pinnedOk (s : State) (c k : Nat) : Bool :=
  (poolData (ctxAt s c) k).all (fun p => rangePinned s k p.1 p.2.length) &&
    ((residentSlot (ctxAt s c)).isNone ||
      ((pinnedRefs (ctxAt s c)).filter fun p => p.1 == k).all fun p => rangePinned s k (wrAddress p.2) (wrBytes p.2))

/-! ### Placement -/

/-- A batch of a context has started and not ended on core `k`. -/
def coreRuns (s : State) (k : Nat) : Bool := s.host.ctxs.any fun x => x.batch.isSome && (ctxCores x).contains k

/-- A core takes part in batches: it exists and is in service (R598, R607). -/
def inService (s : State) (k : Nat) : Bool := decide (k < s.cores.length) && !s.log.coreService.toNat.testBit k

/-- A context with a bound stream (R480, R481). -/
def hasStreams (s : State) (c : Nat) : Bool := s.net.streams.any fun st => streamValid st && seCtx st.entry == c

/-- A context has nothing running or queued and may leave its cores (R481). -/
def ctxIdle (s : State) (c : Nat) : Bool :=
  let x := ctxAt s c
  x.batch.isNone && x.queue.isEmpty && (closedOf s c).isEmpty && !(x.cls == 0 && hasStreams s c)

/-- The program bank of a context filled from its image for a lane (R228, R231, R256, R257). -/
def bankFor (img : Bytes) (c l : Nat) : ProgBank :=
  let e := laneEntry img l
  { ctx := c, loops := imgLoops img e, xfers := imgXfers img e, books := imgBooks img, manifest := imgManifest img e }

/-- A RESIDENT slot of a context whose pages are gone is READY. -/
def unresident (x : Ctx) : Ctx :=
  let f := fun (sl : Slot) => { sl with
    inPages := false
    state := if sl.state = .resident then .ready else sl.state }
  { x with slotA := f x.slotA, slotB := f x.slotB }

/-- A context leaves its cores (R173, R257, R481): its pages are zeroed before another context has them. -/
def unplace (s : State) (c : Nat) : State :=
  let s1 := (ctxCores (ctxAt s c)).foldl (fun t k =>
    modCore (lockPages t k (ctxPages s c k)) k fun d => { d with banks := d.banks.filter fun b => b.ctx != c }) s
  modCtx s1 c fun x => { unresident x with placed := [] }

/-- The program of a context loaded into a core that runs one of its lanes (R228 to R231, R256, R257, R284). -/
def loadBank (s : State) (c k l : Nat) : State :=
  match (ctxAt s c).image with
  | none => s
  | some img =>
    fillPool (modCore s k fun d => { d with banks := d.banks.filter (fun b => b.ctx != c) ++ [bankFor img c l] }) c k

/-- A slot is a candidate for eviction (R327). -/
def evictable (x : Ctx) (i : Nat) : Bool :=
  let sl := slotOfCtx x i
  x.ptr == i && sl.refs == 0 && !wsNoEvict sl.desc && (sl.state == .ready || sl.state == .resident)

/-- A context may leave its cores: it is idle, and the set whose pinned pages go with it is a candidate for eviction
(R327, R481; assumption 61). -/
def mayLeave (s : State) (j : Nat) : Bool :=
  ctxIdle s j && (match residentSlot (ctxAt s j) with
    | some i => evictable (ctxAt s j) i
    | none => true)

/-- The set of context `j` is evicted before that of `i`: a lower use count, or an older last latch (R327). -/
def evictFirst (s : State) (j i : Nat) : Bool :=
  let slot := fun (n : Nat) => slotOfCtx (ctxAt s n) (ctxAt s n).ptr
  decide ((slot j).uses < (slot i).uses) || ((slot j).uses == (slot i).uses && decide ((slot j).lastLatch < (slot i).lastLatch))

/-- The other contexts that keep a context's lane off a core: those whose pages there overlap, or, when two are placed
already, the one that may leave and is evicted first (R327, R481, R617). -/
def blockers (s : State) (c k : Nat) (pages : List Nat) : List Nat :=
  let others := (List.range 16).filter fun j => j != c && (ctxCores (ctxAt s j)).contains k
  let clash := others.filter fun j => (ctxPages s j k).any pages.contains
  if clash.isEmpty && decide (2 ≤ others.length) then
    (match others.filter (mayLeave s) with
     | [] => others
     | j :: js => [js.foldl (fun m i => if evictFirst s i m then i else m) j])
  else clash

/-- Context `c` placed on `cores`, one for each present lane in order (R227, R481). When other contexts are in the way
they leave first; their pages must read 0x00 before this context has them (R173), so it is placed at a later try.
The answer says whether the context is placed. -/
def place (s : State) (c : Nat) (cores : List Nat) : State × Bool :=
  let x := ctxAt s c
  match x.image with
  | none => (s, false)
  | some img =>
    let lanes := presentLanes img
    let pairs := lanes.zip cores
    let pages := fun (l : Nat) => ownedPages (lePagesLow (laneEntry img l)) (lePagesHigh (laneEntry img l))
    let inWay := (pairs.flatMap fun p => blockers s c p.2 (pages p.1)).eraseDups
    if cores.length ≠ lanes.length ∨ ¬ cores.Nodup ∨ !(cores.all fun k => inService s k && !coreRuns s k) ∨
        !(inWay.all (mayLeave s)) then (s, false)
    else if !inWay.isEmpty then (inWay.foldl unplace s, false)
    else
      let s1 := if x.placed.isEmpty then s else unplace s c
      if pairs.any fun p => (pages p.1).any fun g => tagOf (coreAt s1 p.2).sp g != 0 then (s1, false)
      else
        let s2 := modCtx s1 c fun y => { y with placed := pairs }
        (pairs.foldl (fun t p => loadBank t c p.2 p.1) s2, true)

/-! ### Batches -/

/-- A batch of a ring entry. -/
def ringBatch (q idx tag : Nat) (signal : Option Nat) (args : List (Nat × Nat)) : Batch :=
  { ring := some (q, idx), tag := tag, signal := signal, args := args, frames := [], per := 0, ranks := 0, slot := 0
    stops := [], lanesBegun := [], lanesEnded := [], lanesHalted := [], logged := none, failing := false
    stopEnd := false, refuse := none, deliver := true }

/-- A batch of admitted frames; its tag names the stream of rank 0 (R436, R591). -/
def frameBatch (s : State) (c : Nat) (b : StreamBatch) : Batch :=
  let sid0 := ((s.net.streams.find? fun st => seCtx st.entry == c && seRank st.entry == 0).map (·.sid)).getD 0
  { ring := none, tag := 2 ^ 31 + sid0, signal := none, args := [], frames := b.frames, per := batchPer s c
    ranks := batchRanks s c, slot := 0, stops := [], lanesBegun := [], lanesEnded := [], lanesHalted := []
    logged := none, failing := false, stopEnd := false, refuse := none, deliver := true }

/-- One more than the latest latch of any slot (R327). -/
def latchStamp (s : State) : Nat := (s.host.ctxs.map fun x => max x.slotA.lastLatch x.slotB.lastLatch).foldl max 0 + 1

/-- A batch of a placed context starts: it latches the program and the slot the pointer names, and takes its cores
(R220, R295, R321, R326, R329). -/
def startBatch (s : State) (c : Nat) (b : Batch) : State :=
  let x := ctxAt s c
  let i := x.ptr
  let sl := slotOfCtx x i
  let armed := s.host.dbgArmed && s.host.dbgCtx.toNat == c
  let b1 : Batch :=
    { b with
      slot := i
      stops := if armed && s.sc.observe then s.host.dbgStops else []
      refuse := if sl.state = .unusable then some (0x24, sl.lost) else none }
  let stamp := latchStamp s
  let s1 := modSlot s c i fun z => { z with
    refs := z.refs + 1
    uses := z.uses + 1
    lastLatch := stamp
    state := if z.state = .evicted then .refetching else z.state }
  let s2 := modCtx s1 c fun y => { y with batch := some b1, latched := some i }
  let s3 := x.placed.foldl (fun t p => modCore t p.2 fun d =>
    { d with
      ctx := some c
      lane := p.1
      started := false
      pagesLow := ((pagesOn x p.2).getD (0, 0)).1
      pagesHigh := ((pagesOn x p.2).getD (0, 0)).2
      regs := { d.regs with holdWdt := BitVec.ofNat 5 x.wdtExp } }) s2
  if armed then { s3 with host := { s3.host with dbgArmed := false } } else s3

/-- The latched set lets the batch run its bundles (R323, R325). -/
def setReady (s : State) (c : Nat) : Bool :=
  let x := ctxAt s c
  let sl := latchedSlot x
  (sl.inPages || sl.state == .free) && (slotMismatch x sl).isNone

/-- Pages of a lane as a batch start leaves them: those neither pinned nor in a link range are EMPTY and class A
with undefined data, or zero data where nothing has written them since they were zeroed or an uncorrectable error had
made them POISON (R172, R173, R335, R595). DESIGN CHOICE (assumption 59): `gen` stays as it was. -/
def freshPages (s : State) (i lane : Nat) (c : Core) (epoch : Nat) : Core :=
  let pages := (ownedPages c.pagesLow c.pagesHigh).filter fun p => !tagPinned (tagOf c.sp p) && !linkPage s i lane p
  let bad := fun p => (c.sp.errPages.contains p && !tagClassW (tagOf c.sp p)) || !c.sp.written.contains p
  let keep := fun (a : Nat) => !pages.contains (pageOf a)
  { c with sp := { mapTags c.sp (fun t => BitVec.ofNat 8 (nfld t.toNat 4 3 * 8)) pages with
      cells := c.sp.cells.filter fun p => keep p.1
      undef := c.sp.undef.filter (fun p => !pages.contains p.1) ++ (pages.filter fun p => !bad p).map fun p => (p, epoch)
      written := c.sp.written.filter fun p => !pages.contains p || !bad p
      errPages := c.sp.errPages.filter fun p => !pages.contains p } }

/-- The actions of a batch start on a core (R92, R223, R257, R295, R302, R303, R596). A, C, S and increment registers
hold free values. -/
def batchStartCore (c : Core) (epoch : Nat) (stop : W64) : Core :=
  let free := fun (off : Nat) => (List.range 16).map fun i => Config.freeWord epoch (off + i)
  { c with
    ctl := { Ctl.reset with
      a := (free 0).map (·.setWidth 24)
      inc := (free 16).map (·.setWidth 24)
      c := free 32
      s := free 48
      stopAt := stop }
    regs := { c.regs with
      fault := false
      stopped := false
      ccFault := 0
      ccFaultBundle := 0
      halted := false
      halting := false
      seqActive := false }
    hold := .none
    mq := []
    vq := []
    movq := []
    mLast := 0
    mLastOps := []
    vLast := 0
    mvLast := 0
    workEnd := 0
    mv := { c.mv with lastAt := 0 }
    mx := { c.mx with
      active := none
      shadow := none
      loading := none
      run := none
      flight := []
      nextRun := 0
      swapped := false
      turn := []
      acc := []
      accTags := []
      accFree := none
      tagFree := none
      fault := false
      ovf := 0
      mxFault := 0
      mxFaultBundle := 0
      idleMark := 0
      ahead := 0 }
    vx := { c.vx with
      lb := [[], [], [], []]
      t0 := .empty
      t1 := .empty
      p0 := .empty
      p1 := .empty
      bias := none
      closing := false
      ends := List.replicate 6 none
      binds := []
      runs := []
      results := []
      drains := []
      funcFree := 0
      fault := false
      vxFault := 0 }
    sp := { c.sp with
      busy := []
      used := []
      marks := []
      waits := []
      reqs := c.sp.reqs.map fun r => { r with since := 0, ready := none }
      corr := c.sp.corr.map fun w => { w with since := 0 }
      zeroing := c.sp.zeroing.map fun j => { j with since := 0 }
      fault := false
      spFault := 0
      spFaultBundle := 0 }
    seq := none }

/-- The lane of a running batch that core `k` has still to start, with its context. -/
def laneToStart (s : State) (k : Nat) : Option (Nat × Batch × Nat) :=
  match (coreAt s k).ctx with
  | none => none
  | some i =>
    match (ctxAt s i).batch, laneOn (ctxAt s i) k with
    | some b, some l => if b.lanesBegun.contains l then none else some (i, b, l)
    | _, _ => none

/-- BATCH_START on core `k`, once the latched set and the core's pinned pages are ready and the transfers of an
earlier batch have ended. -/
def batchStart (s : State) (k : Nat) : State :=
  match laneToStart s k with
  | none => s
  | some (i, b, l) =>
    let c := coreAt s k
    if b.failing || b.refuse.isSome || !setReady s i || !pinnedOk s i k || !c.mv.xfers.isEmpty ||
        !c.mv.flagWrites.isEmpty || !c.tokensWaiting.isEmpty then s
    else
      let e := s.freeCtr
      let s1 := setCore (nextEpoch s) k (batchStartCore (freshPages s i l { c with sp := applyMarks c.sp } e) e (b.stops.getD l 0))
      modBatch s1 i fun x => { x with lanesBegun := x.lanesBegun ++ [l] }

/-- The lane entry of the lane core `k` runs, with where its image lies in HBM. -/
def laneCode (s : State) (k : Nat) : Option (Bytes × Nat) :=
  match (coreAt s k).ctx with
  | none => none
  | some i => (ctxAt s i).image.map fun img => (laneEntry img (coreAt s k).lane, (ctxAt s i).copyBase)

/-- Core `k` runs or fetches a lane of a batch: it has begun, and neither ended nor stopped. -/
def laneLive (s : State) (k : Nat) : Bool :=
  match (coreAt s k).ctx with
  | none => false
  | some i =>
    match (ctxAt s i).batch with
    | some b => b.lanesBegun.contains (coreAt s k).lane && !b.lanesEnded.contains (coreAt s k).lane &&
        !(coreAt s k).regs.stopped && (ctxCores (ctxAt s i)).contains k
    | none => false

/-- LANE_FETCH: four bundles arrive, while the buffer of 2,048 has room beside the at most 1,024 processed last; an error
response leaves them out (R254, R255). -/
def laneFetch (s : State) (k : Nat) (ok : Bool) : State :=
  match laneCode s k with
  | none => s
  | some (e, base) =>
    let t := (coreAt s k).ctl
    let n := min 4 (leBundles e - t.fetched)
    if !laneLive s k || n = 0 || decide (2048 + (t.high - 1024) < t.fetched + n) then s
    else
      let a := base + leCode e + 32 * t.fetched
      modCore s k fun c =>
        if !ok || hbmBad s a (32 * n) then
          { c with ctl := { c.ctl with
            fetchFail := c.ctl.fetchFail ++ (List.range n).map fun j => c.ctl.fetched + j
            fetched := c.ctl.fetched + n } }
        else
          let new := (List.range n).map fun j => (c.ctl.fetched + j, BitVec.ofNat 256 (leNat (hbmRead s (a + 32 * j) 32)))
          { c with ctl := { c.ctl with
            ibuf := (c.ctl.ibuf.filter fun p => decide (c.ctl.high ≤ p.1 + 1024)) ++ new
            fetched := c.ctl.fetched + n } }

/-- LANE_START: the first bundle issues once 256 bundles or the whole lane have been fetched (R193, R254). -/
def laneStart (s : State) (k : Nat) : State :=
  match laneCode s k with
  | none => s
  | some (e, _) =>
    let c := coreAt s k
    if laneLive s k && !c.started && (decide (min (leBundles e) 256 ≤ c.ctl.fetched)) then
      setCore s k { c with started := true }
    else s

/-- Nothing the lane of core `k` started is under way: queues, pipelines, transfers and tokens (R242, R297). -/
def laneQuiet (s : State) (k : Nat) : Bool :=
  let c := coreAt s k
  pipesEmpty c && c.seq.isNone && c.mv.xfers.isEmpty && s.cores.all fun d => d.tokensWaiting.all fun p => p.2 != k

/-- The cycle in which a lane can end: the first in which its engines hold nothing, or one `waited` cycles later, while it
waits for a transfer that is the last to complete, or for its END to be processed (R242, R297). -/
def quietAt (c : Core) (waited : Nat) : Option Nat :=
  if waited = 0 ∨ c.mv.lastAt = c.workEnd + 1 then some (max c.workEnd c.ctl.cycle + waited) else none

/-- LANE_END (R242): the cycles up to it are counted (R108). -/
def laneEnd (s : State) (k waited : Nat) : State :=
  let c := coreAt s k
  match c.ctx, quietAt c waited with
  | some i, some t =>
    let c1 := reach c (atCycle t)
    if laneLive s k && c.started && c.ctl.ended && !c.regs.halting && holdCause c1 == 0 && !c1.regs.stopped && laneQuiet s k then
      stopCheckCtx (modBatch (settle (setCore s k { endCycle (advanceTo c1 t) with started := false }) k) i fun b =>
        { b with lanesEnded := b.lanesEnded ++ [c.lane] }) i
    else s
  | _, _ => s

/-- CORE_HALT (R297, R303): in the cycle after its last work. -/
def coreHalt (s : State) (k waited : Nat) : State :=
  let c := coreAt s k
  match c.ctx, quietAt c waited with
  | some i, some t =>
    let c1 := reach c (atCycle t)
    if laneLive s k && c.started && c.regs.halting && holdCause c1 == 0 && !c1.regs.stopped && laneQuiet s k then
      let c2 := endCycle (advanceTo c1 t)
      let c3 := { c2 with
        started := false
        regs := { c2.regs with halted := true, stopped := true, halting := false } }
      stopCheckCtx (modBatch (settle (setCore s k c3) k) i fun b => { b with lanesHalted := b.lanesHalted ++ [c.lane] }) i
    else s
  | _, _ => s

/-- A device flag raised by one (R471, R475). -/
def raiseFlag (s : State) (f : Nat) : State := { s with host := { s.host with flags := modAt s.host.flags f (· + 1) } }

/-- A batch ends with a status (R321, R430, R471): the signalled flag rises, its entry finishes, its frames are
released, its reference is dropped. -/
def endBatch (s : State) (c : Nat) (b : Batch) (status value : Nat) : State :=
  let s1 := match b.signal with
    | some f => raiseFlag s f
    | none => s
  let s2 := match b.ring with
    | some p => if b.deliver then finishEntry s1 p.1 p.2 status value else s1
    | none => s1
  let s3 := modCtx (dropRef s2 c b.slot) c fun x => { x with batch := none, latched := none }
  if b.frames.isEmpty then s3 else releaseFrames s3 c b.frames

/-- The cores of a context at the end of its batch: statistics windows close (R132), no lane runs. -/
def endCores (s : State) (c : Nat) : State :=
  (ctxCores (ctxAt s c)).foldl (fun t k => modCore t k fun d => { d with started := false, vx := closeWindow d.vx }) s

/-- BATCH_COMPLETE (R242, R438, R471). -/
def batchComplete (s : State) (c : Nat) : State :=
  match (ctxAt s c).batch with
  | none => s
  | some b =>
    if b.failing || b.refuse.isSome || !((ctxAt s c).placed.all fun p => b.lanesEnded.contains p.1) then s
    else endBatch (sendResults (endCores s c) c b) c b 0 0

/-- The output pages of a failed batch on a core: every page neither pinned nor in a link range is POISON (R594). -/
def poisonOutputs (s : State) (i lane : Nat) (c : Core) : Core :=
  let pages := (ownedPages c.pagesLow c.pagesHigh).filter fun p => !tagPinned (tagOf c.sp p) && !linkPage s i lane p
  { c with sp := mapTags c.sp (fun t => tagWith t 3) pages }

/-- BATCH_FAIL (R594): a batch that has failed, or may run no bundle (R325, R329). -/
def batchFail (s : State) (c : Nat) : State :=
  match (ctxAt s c).batch with
  | none => s
  | some b =>
    match b.refuse with
    | some r => endBatch s c b r.1 r.2
    | none =>
      if !b.failing then s
      else
        let s1 := (ctxAt s c).placed.foldl (fun t p => modCore t p.2 fun d =>
          let d1 := if d.regs.stopped then d else stopCore d false
          poisonOutputs s c p.1 d1) s
        endBatch (endCores s1 c) c b (if b.stopEnd then 0x0001 else 0x0011) (b.logged.getD 0)

/-- MAKE_RESIDENT (R323, R325): the latched set of a batch that has run no bundle. -/
def makeResident (s : State) (c : Nat) : State :=
  let x := ctxAt s c
  match x.batch with
  | none => s
  | some b =>
    let sl := latchedSlot x
    if !b.lanesBegun.isEmpty || b.failing || b.refuse.isSome ||
        !(sl.state == .free || sl.state == .ready || sl.state == .resident || sl.state == .retiring) then s
    else match slotMismatch x sl with
      | some t => modBatch s c fun y => { y with refuse := some (0x12, t) }
      | none =>
        if sl.state = .free ∨ sl.inPages ∨ (slotOfCtx x (1 - b.slot)).refs ≠ 0 then s
        else if !(stagedBad s c b.slot none).isEmpty then refetchFor s c b.slot (stagedBad s c b.slot none)
        else
          let other := slotOfCtx x (1 - b.slot)
          let s1 := if other.state = .retiring then freeSlot s c (1 - b.slot) false else s
          modSlot (fillPinned (modCtx s1 c unresident) c b.slot none) c b.slot fun z => { z with
            inPages := true
            state := if z.state = .ready then .resident else z.state }

/-- PINNED_RELOAD (R168, R330): pinned pages of context `c` on core `k` that no longer hold what they should, while
none of its batches runs a bundle. DESIGN CHOICE (assumption 65): while firmware fetches a tensor anew the slot is
REFETCHING. -/
def pinnedReload (s : State) (c k : Nat) : State :=
  let x := ctxAt s c
  let idle := match x.batch with
    | some b => b.lanesBegun.isEmpty
    | none => true
  if !idle || !(ctxCores x).contains k || pinnedOk s c k then s
  else match residentSlot x with
    | none => fillPool s c k
    | some i =>
      if (slotOfCtx x i).state = .refetching then s
      else if !(stagedBad s c i (some k)).isEmpty then refetchFor s c i (stagedBad s c i (some k))
      else fillPinned (fillPool s c k) c i (some k)

end Sys2Proof.Machine
end

