-- ==== Sys2Proof/Machine/Batches.lean ====
section
/-!
DEFINITION. The meanings of the steps of a batch on its cores (R223, R242, R254, R255, R297, R323, R330, R594), and of
bisection: the window onto a stopped core and its registers (R295 to R305).
-/

namespace Sys2Proof.Machine

/-- BATCH_START (R223). -/
def execBatchStart (k : Nat) (s : State) : Res := .next (batchStart s k)

/-- LANE_FETCH (R254, R255). -/
def execLaneFetch (k : Nat) (ok : Bool) (s : State) : Res := .next (laneFetch s k ok)

/-- LANE_START (R193, R254). -/
def execLaneStart (k : Nat) (s : State) : Res := .next (laneStart s k)

/-- LANE_END (R242). -/
def execLaneEnd (w : WaitedCore) (s : State) : Res := .next (laneEnd s w.core w.cycles)

/-- BATCH_FAIL (R594). -/
def execBatchFail (c : Nat) (s : State) : Res := .next (batchFail s c)

/-- BATCH_COMPLETE (R242). -/
def execBatchComplete (c : Nat) (s : State) : Res := .next (batchComplete s c)

/-- CORE_HALT (R297). -/
def execCoreHalt (k waited : Nat) (s : State) : Res := .next (coreHalt s k waited)

/-- MAKE_RESIDENT (R323). -/
def execMakeResident (c : Nat) (s : State) : Res := .next (makeResident s c)

/-- SLOT_RETIRE (R324). -/
def execSlotRetire (c slot : Nat) (s : State) : Res := .next (retireNow s c slot)

/-- PINNED_RELOAD (R168, R330). -/
def execPinnedReload (c k : Nat) (s : State) : Res := .next (pinnedReload s c k)

/-! ### Bisection -/

/-- HI_DBG_CTRL written (R295, R299, R301): ignored without an OBSERVE session. The write selects the context whose
stops apply, and end 1 ends its halted batch; one that only ends the batch of the context already selected arms
no further batch (DEDUCED, assumption 50). -/
def writeDbgCtrl (s : State) (v : W32) : State :=
  if !s.sc.observe then s
  else
    let i := v.toNat % 16
    let s1 := { s with host := { s.host with
      dbgKeep := v.toNat.testBit 30
      dbgCtx := BitVec.ofNat 4 i
      dbgArmed := s.host.dbgArmed || !(v.toNat.testBit 31 && s.host.dbgCtx.toNat == i) } }
    let s2 := match (ctxAt s1 i).batch with
      | none => s1
      | some b => if v.toNat.testBit 31 && !b.lanesHalted.isEmpty && !b.failing then endStopped s1 i else s1
    stopChecks s2

/-- DBG_END (R299): HI_DBG_CTRL written with end 1. -/
def execDbgEnd (v : W32) (s : State) : Res := .next (if v.toNat.testBit 31 then writeDbgCtrl s v else s)

/-- The aperture filled for a refused selection (R300). -/
def refuseSel (s : State) : State :=
  { s with host := { s.host with
    dbgReady := true
    dbgError := true
    dbgFetch := false
    dbgBuf := List.replicate 4096 0xFF } }

/-- DBG_SEL (R295, R304): a fetch starts; without an OBSERVE session the selection is refused. -/
def execDbgSel (v : W32) (s : State) : Res :=
  .next (
    let s1 := { s with host := { s.host with dbgSel := v &&& 0xFE000FFF } }
    if !s.sc.observe then refuseSel s1
    else { s1 with host := { s1.host with
      dbgReady := false
      dbgError := false
      dbgFetch := true } })

/-- Bytes padded to the aperture's 4 KiB. -/
def padAperture (bs : Bytes) : Bytes := bs ++ List.replicate (4096 - bs.length) 0

/-- What a selection shows of a core beside its scratchpad (R212, R300). DEDUCED: a signed increment register fills its four
bytes sign-extended (assumption 48). -/
def windowBytes (c : Core) (space addr : Nat) : Option Bytes :=
  match space with
  | 1 =>
    if 2048 ≤ addr then none
    else some (padAperture (((accLanes c.mx addr).flatMap fun v => toLe 8 (code 64 v)) ++ [BitVec.ofNat 8 (accTag c.mx addr)]))
  | 2 => some ((List.range 4096).map (tagOf c.sp))
  | _ =>
    let regs := fun (vs : List Nat) => vs.flatMap (toLe 4)
    some (padAperture (regs (c.ctl.a.map (·.toNat)) ++ regs (c.ctl.inc.map fun v => (v.signExtend 32).toNat) ++ regs (c.ctl.c.map (·.toNat)) ++
      regs (c.ctl.s.map (·.toNat)) ++ toLe 8 c.ctl.flags.toNat ++ c.ctl.tokens.map (BitVec.ofNat 8)))

/-- The aperture holds the bytes of a selection. -/
def fillSel (s : State) (bs : Bytes) : State :=
  { s with host := { s.host with
    dbgReady := true
    dbgFetch := false
    dbgBuf := bs } }

/-- The page of a stopped core read for the window, as a mesh inbound access (R144, R154, R166, R167, R300): a POISON page
refuses the selection, a page that permits no read keeps it waiting, and an error refuses it once its entry is logged. -/
def windowPage (s : State) (i k page : Nat) : State :=
  if tagState (tagOf (coreAt s k).sp page) = 3 then refuseSel s
  else match outsideAccess s k i (4096 * page) 4096 false [] with
    | none => s
    | some (s1, some bs) => fillSel s1 bs
    | some (s1, none) => refuseSel s1

/-- DBG_FETCH_DONE (R300, R305): the aperture holds the selection, or is refused. -/
def execDbgFetchDone (s : State) : Res :=
  .next (
    if !s.host.dbgFetch then s
    else
      let v := s.host.dbgSel.toNat
      let i := s.host.dbgCtx.toNat
      let x := ctxAt s i
      match x.batch, coreOf x (nfld v 31 27) with
      | some _, some k =>
        if !(coreAt s k).regs.stopped then refuseSel s
        else if nfld v 26 25 = 0 then windowPage s i k (nfld v 11 0)
        else match windowBytes (coreAt s k) (nfld v 26 25) (nfld v 11 0) with
          | none => refuseSel s
          | some bs => fillSel s bs
      | _, _ => refuseSel s)

end Sys2Proof.Machine
end

