-- ==== Sys2Proof/Machine/Rings.lean ====
section
/-!
DEFINITION. Rings, doorbells and completions (R463 to R469), device flags and waits (R475 to R479), the driver's
attachment and loss (R484, R485), function-level resets (R486, R487) and BAR2 (R461).
-/

namespace Sys2Proof.Machine

/-- A ring pair. -/
def ringAt (s : State) (q : Nat) : Ring := s.host.rings.getD q Ring.reset

/-- A ring pair mapped. -/
def modRing (s : State) (q : Nat) (f : Ring → Ring) : State :=
  { s with host := { s.host with rings := modAt s.host.rings q f } }

/-- Entries of a ring (R463). -/
def ringSize (r : Ring) : Nat := 2 ^ r.sizeInUse

/-- The size a size_log2 field gives (R501). -/
def sizeOf' (v : Nat) : Nat := max 4 (min 12 v)

/-! ### Submission entries (R464, R470) -/

def enOp (b : Bytes) : Nat := rdLe b 0 1
def enFlags (b : Bytes) : Nat := rdLe b 1 1
def enCtx (b : Bytes) : Nat := rdLe b 2 1
def enTag (b : Bytes) : Nat := rdLe b 4 4

/-- The operand bytes a command defines, as offsets and lengths; none for a reserved opcode. -/
def operandsOf (b : Bytes) : Option (List (Nat × Nat)) :=
  match enOp b with
  | 0x00 => some []
  | 0x01 => some [(8, 16)]
  | 0x02 => some [(8, 1), (0x10, 8)]
  | 0x03 => some [(8, 1)]
  | 0x04 => some [(8, 1)]
  | 0x05 => some [(8, 3), (0x10, 8)]
  | 0x06 => some [(8, 2), (0x0C, 4)]
  | 0x07 => some [(8, 1), (0x0C, 4)]
  | 0x10 => some [(8, 2), (0x10, 12 * min 4 (rdLe b 9 1))]
  | 0x20 => some [(8, 6), (0x10, 8)]
  | 0x21 => some []
  | 0x22 => some [(8, 2), (0x10, 8)]
  | 0x23 => some [(8, 1), (0x10, 8)]
  | _ => none

/-- An address operand must be in HBM outside the firmware reserve (R470). -/
def badAddr (b : Bytes) (off n : Nat) : Bool := decide (2 ^ 63 ≤ rdLe b off 8) || !inUserHbm (rdLe b off 8) n

/-- The operand values a command refuses, by the offset of the first byte that is wrong. -/
def badValues (b : Bytes) : List Nat :=
  let off := fun (c : Bool) (o : Nat) => if c then [o] else []
  match enOp b with
  | 0x01 => off (badAddr b 8 256) 8 ++ off (badAddr b 0x10 32) 0x10
  | 0x02 => off (decide (1 < rdLe b 8 1)) 8 ++ off (badAddr b 0x10 64) 0x10
  | 0x03 => off (decide (1 < rdLe b 8 1)) 8
  | 0x04 => off (decide (1 < rdLe b 8 1)) 8
  | 0x05 => off (decide (4096 ≤ rdLe b 8 2)) 9 ++ off (decide (1 < rdLe b 0x0A 1)) 0x0A ++
      off (rdLe b 0x0A 1 == 0 && badAddr b 0x10 64) 0x10
  | 0x06 => off (decide (1 < rdLe b 9 1)) 9
  | 0x10 => off (decide (4 < rdLe b 9 1)) 9 ++
      (List.range (min 4 (rdLe b 9 1))).flatMap fun i =>
        off (decide (rdLe b (0x10 + 12 * i) 8 < 2 ^ 63) && badAddr b (0x10 + 12 * i) (rdLe b (0x18 + 12 * i) 4)) (0x10 + 12 * i)
  | 0x20 => off (rdLe b 8 1 == 0 || decide (32 < rdLe b 8 1)) 8 ++ off (decide (2 < rdLe b 9 1)) 9 ++
      off (rdLe b 0x0A 2 == 0 || decide (4096 < rdLe b 0x0A 2)) 0x0A ++ off (decide (31 < rdLe b 0x0C 1)) 0x0C
  | 0x22 => off (decide (1024 ≤ rdLe b 8 2)) 9 ++ off (badAddr b 0x10 256) 0x10
  | 0x23 => off (decide (63 < rdLe b 8 1)) 8 ++ off (badAddr b 0x10 256) 0x10
  | _ => []

/-- The offset of the first bad byte of an entry, if any: a reserved opcode, header byte or operand byte, or an
operand its command refuses (R464, R469, R470). -/
def badByte (b : Bytes) : Option Nat :=
  match operandsOf b with
  | none => some 0
  | some ops =>
    let head := (if enFlags b / 4 ≠ 0 ∨ (enFlags b % 4 / 2 = 1 ∧ enOp b ≠ 0x10) then [1] else []) ++
      (if 15 < enCtx b then [2] else []) ++ (if rdLe b 3 1 ≠ 0 then [3] else [])
    let rest := (List.range 56).map (· + 8) |>.filter fun o =>
      b.getD o 0 != 0 && !(ops.any fun p => decide (p.1 ≤ o) && decide (o < p.1 + p.2))
    (head ++ rest ++ badValues b).min?

/-- Scheduler firmware runs: it has started, and its clock is not stopped (R533, R539, R547). -/
def fwRuns (s : State) : Bool := s.host.fwReady && (match s.pw.phase with
  | .active => true
  | .voile => true
  | .entering _ _ => true
  | _ => false)

/-- The oldest begun entry of a ring with an opcode, still to be processed. -/
def pick (s : State) (q op : Nat) : Option RingEntry :=
  if !fwRuns s then none else (ringAt s q).entries.find? fun e => e.stage == .begun && enOp e.bytes == op

/-- A begun entry goes on running. -/
def setRunning (s : State) (q : Nat) (e : RingEntry) : State :=
  modRing s q fun r => { r with entries := r.entries.map fun x => if x.index = e.index then { x with stage := .running } else x }

/-- The ring and index of the running entry with an opcode that names a context and passes a test. -/
def runningEntry (s : State) (op c : Nat) (p : Bytes → Bool) : Option (Nat × Nat) :=
  s.host.rings.zipIdx.findSome? fun r =>
    (r.1.entries.find? fun e => e.stage == .running && enOp e.bytes == op && enCtx e.bytes == c && p e.bytes).map fun e => (r.2, e.index)

/-! ### Contexts given up (R173, R324, R480, R531) -/

/-- A stream's entry is no longer valid; the frames held and not admitted are discarded (R483). -/
def unbindStream (s : State) (sid : Nat) : State :=
  match streamOf s sid with
  | none => s
  | some st =>
    let st1 : Stream := { st with
      entry := splice st.entry 0 [BitVec.ofNat 8 (seFlags st.entry / 2 * 2)]
      frames := st.frames.filter (·.admitted)
      gaps := []
      based := false
      calico := false }
    setIngest (putStream s st1) (s.net.ingest.filter fun g => !(g.sid == sid && !(st1.frames.any fun f => f.seq == g.seq)))

/-- A context's state code in an E_CONTEXT_STATE completion (assumption 33). -/
def ctxStateCode (x : Ctx) : Nat :=
  if !x.configured then 0 else if x.batch.isSome then 3 else if !x.placed.isEmpty then 2 else 1

/-- UNLOAD_CONTEXT's effect (R173, R324, R480): the pages are zeroed, HBM and slots freed, the entry UNLOADED; its
waiting stream batches are given up. -/
def unloadCtx (s : State) (c : Nat) : State :=
  let s1 := unplace s c
  let frames := (openOf s1 c).frames ++ (closedOf s1 c).flatMap (·.frames)
  let s2 := { s1 with net := { s1.net with
    openB := del s1.net.openB c
    closedB := s1.net.closedB.filter fun p => p.1 != c } }
  let s3 := { s2 with
    host := { s2.host with ctxs := s2.host.ctxs.set c Ctx.reset }
    calico := { s2.calico with
      started := s2.calico.started.filter fun p => p.2 != c } }
  if frames.isEmpty then s3 else releaseFrames s3 c frames

/-- A context that Calico owns is taken over (R531): its Calico streams are unbound, a running batch ends, and it is
unloaded. -/
def takeOver (s : State) (c : Nat) : State :=
  match (ctxAt s c).calico with
  | none => s
  | some _ =>
    let sids := (s.net.streams.filter fun st => st.calico && seCtx st.entry == c).map (·.sid)
    let s1 := sids.foldl unbindStream s
    if (ctxAt s1 c).batch.isSome then s1 else unloadCtx s1 c

/-- The oldest begun entry of a ring with an opcode, processed against its context once Calico does not own it
(R531). -/
def named (s : State) (q op : Nat) (f : State → RingEntry → Nat → State) : State :=
  match pick s q op with
  | none => s
  | some e =>
    let c := enCtx e.bytes
    let s1 := takeOver s c
    if (ctxAt s1 c).calico.isSome then s1 else f s1 e c

/-! ### Rings -/

/-- A ring with its state and indices as a reset leaves them; base and control fields are kept (R463, R479). -/
def idleRing (r : Ring) : Ring :=
  { r with
    state := .idle
    tail := 0
    cqHead := 0
    sqHead := 0
    cqTail := 0
    phase := true
    nextIdx := 0
    entries := []
    unsignalled := 0
    resetWait := false }

/-- SQ_DOORBELL (R465, R499). -/
def execSqDoorbell (q : Nat) (v : W32) (s : State) : Res :=
  .next (modRing s q fun r =>
    { r with tail := BitVec.ofNat 12 (v.toNat % 4096 % 2 ^ (if r.state = .idle then sizeOf' r.sizeLog2.toNat else r.sizeInUse)) })

/-- CQ_HEAD_WRITE (R467, R499). -/
def execCqHeadWrite (q : Nat) (v : W32) (s : State) : Res :=
  .next (modRing s q fun r =>
    { r with cqHead := BitVec.ofNat 12 (v.toNat % 4096 % 2 ^ (if r.state = .idle then sizeOf' r.sizeLog2.toNat else r.sizeInUse)) })

/-- Every begun entry of the ring has finished. -/
def allDone (r : Ring) : Bool := r.entries.all fun e => !entryOpen e

/-- ENTRY_BEGIN (R465, R476, R486, R489, R588): the first pending entry of an ACTIVE ring is read. One with a bad
byte completes with E_BAD_COMMAND (R470). -/
def entryBegin (s : State) (q : Nat) : State :=
  let r := ringAt s q
  let a := r.sqBase.toNat + 64 * r.nextIdx
  let b := hbmRead s a 64
  if r.state ≠ .active ∨ r.resetWait ∨ r.nextIdx = r.tail.toNat ∨ !s.host.fwReady ∨ !s.host.dispatch ∨ s.host.flrDrain ∨
      !(allDone r || enFlags b % 2 == 1) then s
  else
    let stage := match (if hbmBad s a 64 then some 0 else badByte b) with
      | some o => EntryStage.done 0x0040 o
      | none => .begun
    modRing s q fun x => { x with
      entries := x.entries ++ [⟨x.nextIdx, b, stage⟩]
      nextIdx := (x.nextIdx + 1) % ringSize x }

/-- ENTRY_BEGIN (R465). -/
def execEntryBegin (q : Nat) (s : State) : Res := .next (entryBegin s q)

/-- The driver has gone and every begun entry's completion has been written: the end of the flush (R469, R484). -/
def flushEnd (s : State) : State :=
  if !s.host.attached && s.host.rings.all fun r => r.entries.isEmpty then eventMsix s else s

/-- COMPLETION_WRITE (R466, R467, R479): the oldest begun entry, once finished. A ring that waits for its RESET
discards it and ends IDLE when no begun entry is left. -/
def completionWrite (s : State) (q : Nat) : State :=
  let r := ringAt s q
  match r.entries with
  | [] => s
  | e :: rest =>
    match e.stage with
    | .done status value =>
      if r.resetWait then
        modRing s q fun x => if rest.isEmpty then idleRing x else { x with entries := rest }
      else if !cqRoom r then s
      else
        let head := (e.index + 1) % ringSize r
        let s1 := modRing s q fun x => { x with entries := rest, sqHead := BitVec.ofNat 12 head }
        let s2 := writeCq s1 q (enTag e.bytes) status head value 0
        if s.host.attached then s2 else flushEnd s2
    | _ => s

/-- COMPLETION_WRITE (R467). -/
def execCompletionWrite (q : Nat) (s : State) : Res := .next (completionWrite s q)

/-- The ring's vector is signalled for its unsignalled completions (R469, R484). -/
def signalRing (s : State) (q : Nat) : State :=
  let r := ringAt s q
  if r.irqEn && decide (0 < r.unsignalled) && r.state != .orphaned && r.state != .idle then
    sendMsix (modRing s q fun x => { x with unsignalled := 0 }) 0 r.vector.toNat
  else s

/-- MSIX_SIGNAL (R469): a ring without coalescing. -/
def execMsixSignal (q : Nat) (s : State) : Res := .next (if (ringAt s q).coalesceUs = 0 then signalRing s q else s)

/-- COALESCE_EXPIRE (R469). -/
def execCoalesceExpire (q : Nat) (s : State) : Res := .next (if (ringAt s q).coalesceUs = 0 then s else signalRing s q)

/-- NOP_ENTRY (R469). -/
def execNopEntry (q : Nat) (s : State) : Res :=
  .next (match pick s q 0x00 with
    | some e => finishEntry s q e.index 0 0
    | none => s)

/-! ### Device flags (R475 to R478) -/

/-- SET_FLAG (R475). -/
def execSetFlag (q : Nat) (s : State) : Res :=
  .next (match pick s q 0x06 with
    | none => s
    | some e =>
      let f := rdLe e.bytes 8 1
      let v := BitVec.ofNat 32 (rdLe e.bytes 0x0C 4)
      let v1 := if rdLe e.bytes 9 1 = 1 then s.host.flags.getD f 0 + v else v
      finishEntry { s with host := { s.host with flags := s.host.flags.set f v1 } } q e.index 0 v1.toNat)

/-- The flag a WAIT_FLAG entry waits for, and its value now. -/
def waitedFlag (s : State) (e : RingEntry) : Nat × W32 := (rdLe e.bytes 8 1, s.host.flags.getD (rdLe e.bytes 8 1) 0)

/-- A WAIT_FLAG entry is satisfied (R476). -/
def waitMet (s : State) (e : RingEntry) : Bool := decide (rdLe e.bytes 0x0C 4 ≤ (waitedFlag s e).2.toNat)

/-- The running wait of a ring. -/
def waitOf (r : Ring) : Option RingEntry := r.entries.find? fun e => e.stage == .running && enOp e.bytes == 0x07

/-- WAIT_FLAG (R476): the ring is BLOCKED until the flag is at least the value. -/
def execWaitFlag (q : Nat) (s : State) : Res :=
  .next (match pick s q 0x07 with
    | none => s
    | some e =>
      if waitMet s e then finishEntry s q e.index 0 (waitedFlag s e).2.toNat
      else modRing (setRunning s q e) q fun r => { r with state := if r.state = .active then .blocked else r.state })

/-- WAIT_FLAG_SATISFIED (R476). -/
def execWaitFlagSatisfied (q : Nat) (s : State) : Res :=
  .next (match waitOf (ringAt s q) with
    | none => s
    | some e =>
      if waitMet s e then
        modRing (finishEntry s q e.index 0 (waitedFlag s e).2.toNat) q fun r =>
          { r with state := if r.state = .blocked then .active else r.state }
      else s)

/-- A wait ends in an error and its ring is STOPPED (R477, R478). -/
def failWait (s : State) (q : Nat) (e : RingEntry) (status : Nat) : State :=
  modRing (finishEntry s q e.index status (waitedFlag s e).2.toNat) q fun r =>
    { r with state := if r.state = .blocked then .stopped else r.state }

/-- An entry about a ring entry (R591). -/
def ringLog (errCode q : Nat) (e : RingEntry) : LogEntry :=
  { logEntry 1 0x0C errCode 1 with inst := q, ctx := enCtx e.bytes, ring := q, tag := enTag e.bytes }

/-- WAIT_TIMEOUT (R478): the log entry's message signals the event vector (R469). -/
def execWaitTimeout (q : Nat) (s : State) : Res :=
  .next (match waitOf (ringAt s q) with
    | none => s
    | some e => if waitMet s e then s else failWait (logAdd s (ringLog 0x0502 q e)) q e 0x0031)

/-- An entry can raise flag `f` (R477). -/
def canRaise (f : Nat) (b : Bytes) : Bool :=
  (enOp b == 0x06 || (enOp b == 0x10 && enFlags b / 2 % 2 == 1)) && rdLe b 8 1 == f

/-- The pending entries of a ring, at most `n` (R465). -/
def pendingEntries (s : State) (r : Ring) (n : Nat) : List Bytes :=
  let count := (r.tail.toNat + ringSize r - r.nextIdx) % ringSize r
  (List.range (min n count)).map fun i => hbmRead s (r.sqBase.toNat + 64 * ((r.nextIdx + i) % ringSize r)) 64

/-- Flag `f` can be raised by a running batch, an entry being processed, or a pending entry of an ACTIVE ring
(R477). -/
def raisable (s : State) (f : Nat) : Bool :=
  s.host.ctxs.any (fun x => (x.batch.toList ++ x.queue).any fun b => b.signal == some f) ||
    s.host.rings.any fun r => (r.entries.any fun e => entryOpen e && canRaise f e.bytes) ||
      (r.state == .active && (pendingEntries s r 4096).any (canRaise f))

/-- The BLOCKED rings with their waits. -/
def blockedWaits (s : State) : List (Nat × RingEntry) :=
  s.host.rings.zipIdx.filterMap fun p => if p.1.state = .blocked then (waitOf p.1).map fun e => (p.2, e) else none

/-- Ring `q` meets the two conditions of a wait cycle within a set of rings (R477). -/
def inCycle (s : State) (blocked : List (Nat × RingEntry)) (set : List Nat) (e : RingEntry) : Bool :=
  let f := (waitedFlag s e).1
  let raisers := (blocked.filter fun p => (pendingEntries s (ringAt s p.1) 256).any (canRaise f)).map (·.1)
  !raisers.isEmpty && raisers.all set.contains && !raisable s f

/-- The largest set of blocked rings that forms wait cycles: rings that fail the conditions leave it in turn. -/
def cycleSet (s : State) (blocked : List (Nat × RingEntry)) : Nat → List (Nat × RingEntry) → List (Nat × RingEntry)
  | 0, set => set
  | n + 1, set => cycleSet s blocked n (set.filter fun p => inCycle s blocked (set.map (·.1)) p.2)

/-- WAIT_CYCLE_SCAN (R477). -/
def execWaitCycleScan (s : State) : Res :=
  .next (
    let blocked := blockedWaits s
    match cycleSet s blocked (blocked.length + 1) blocked with
    | [] => s
    | p :: ps => (p :: ps).foldl (fun t x => failWait t x.1 x.2 0x0030) (logAdd s (ringLog 0x0501 p.1 p.2)))

/-! ### Ring control (R463, R479, R485, R501) -/

/-- RESET of a ring (R479): pending entries are discarded; it waits for entries still running. -/
def resetRing (s : State) (q : Nat) : State :=
  modRing s q fun r =>
    if r.state = .idle then r
    else if allDone r then idleRing r
    else { r with
      resetWait := true
      tail := BitVec.ofNat 12 r.nextIdx
      state := if r.state = .active then .stopped else r.state }

/-- RESUME of a STOPPED ring (R479). -/
def resumeRing (s : State) (q : Nat) : State :=
  modRing s q fun r => if r.state = .stopped ∧ !r.resetWait then { r with state := .active } else r

/-- REATTACH of an ORPHANED ring (R485): completions and pending entries are kept, and unread completions signal the
vector. -/
def reattachRing (s : State) (q : Nat) : State :=
  let r := ringAt s q
  if r.state = .orphaned ∧ s.host.attached then
    let s1 := modRing s q fun x => { x with
      state := if (waitOf x).isSome then .blocked else .active
      unsignalled := 0 }
    if r.cqTail ≠ r.cqHead ∧ r.irqEn then sendMsix s1 0 r.vector.toNat else s1
  else s

/-- HI_Q_CTRL written (R463, R501): an IDLE ring whose bases lie outside the firmware reserve becomes ACTIVE on
enable; the action takes effect. -/
def writeQCtrl (s : State) (q : Nat) (v : W32) : State :=
  let w := v.toNat
  let s1 := modRing s q fun r => { r with
    enable := w.testBit 31
    sizeLog2 := BitVec.ofNat 4 (nfld w 27 24)
    coalesceUs := BitVec.ofNat 8 (nfld w 23 16)
    irqEn := w.testBit 7
    vector := BitVec.ofNat 7 (nfld w 6 0) }
  match nfld w 30 28 with
  | 1 => resumeRing s1 q
  | 2 => reattachRing s1 q
  | 3 => resetRing s1 q
  | _ =>
    modRing s1 q fun r =>
      let n := 2 ^ sizeOf' r.sizeLog2.toNat
      if w.testBit 31 && r.state == .idle && inUserHbm r.sqBase.toNat (64 * n) && inUserHbm r.cqBase.toNat (16 * n) then
        { idleRing r with state := .active, sizeInUse := sizeOf' r.sizeLog2.toNat }
      else r

/-- Q_ENABLE (R463): HI_Q_CTRL written with enable 1 and no action. -/
def execQEnable (q : Nat) (v : W32) (s : State) : Res := .next (writeQCtrl s q ((v &&& 0x8FFFFFFF) ||| 0x80000000))

/-- RESUME (R479). -/
def execResume (q : Nat) (s : State) : Res := .next (resumeRing s q)

/-- REATTACH (R485). -/
def execReattach (q : Nat) (s : State) : Res := .next (reattachRing s q)

/-- RING_RESET (R479, R485). -/
def execRingReset (q : Nat) (s : State) : Res := .next (resetRing s q)

/-! ### The driver (R484 to R487) -/

/-- HI_DRIVER_CFG written (R484, R495). A driver that attaches has enabled bus mastering (assumption 34). -/
def writeDriverCfg (s : State) (v : W32) : State :=
  let w := v.toNat
  { s with host := { s.host with
    attached := w.testBit 31
    busMaster := s.host.busMaster || w.testBit 31
    eventVector := BitVec.ofNat 7 (nfld w 22 16)
    timeoutMs := BitVec.ofNat 16 (nfld w 15 0) } }

/-- ATTACH (R484): HI_DRIVER_CFG written with attach 1. -/
def execAttach (v : W32) (s : State) : Res := .next (writeDriverCfg s (v ||| 0x80000000))

/-- HEARTBEAT (R496). -/
def execHeartbeat (v : W32) (s : State) : Res := .next { s with host := { s.host with heartbeat := v } }

/-- The driver is lost (R484): every ring that is not IDLE becomes ORPHANED; the loss is logged. -/
def loseDriver (s : State) : State :=
  if !s.host.attached then s
  else flushEnd { logAdd s (logEntry 0 0x0C 0x0504 1) with host := { (logAdd s (logEntry 0 0x0C 0x0504 1)).host with
    attached := false
    rings := s.host.rings.map fun r => if r.state = .idle then r else { r with state := .orphaned } } }

/-- DRIVER_LOST (R484): no heartbeat for the timeout; the timer is suspended during a handover (R490). -/
def execDriverLost (s : State) : Res := .next (if s.host.upd.handover then s else loseDriver s)

/-- Bus Master Enable of PF0 cleared (R484); the loss waits for the end of a handover (R490). -/
def execBusMasterDisable (s : State) : Res :=
  .next (
    let s1 := { s with host := { s.host with busMaster := false } }
    if s.host.upd.handover then { s1 with host := { s1.host with upd := { s1.host.upd with bmeWait := true } } } else loseDriver s1)

/-- A weight slot whose load an FLR abandons (R331). -/
def abandonLoad (sl : Slot) : Slot := if sl.state = .loading ∧ sl.loadRing.isSome then { Slot.reset with refs := sl.refs } else sl

/-- An FLR of PF0 (R331, R484, R486). -/
def flrPf0 (s0 : State) : State :=
  let s := loseDriver s0
  let h := s.host
  let ctxs := h.ctxs.map fun x => { x with
    slotA := abandonLoad x.slotA
    slotB := abandonLoad x.slotB
    newImage := none
    queue := x.queue.map fun b => { b with deliver := false }
    batch := x.batch.map fun b => if b.ring.isSome then { b with deliver := false } else b }
  stopChecks { s with host := { h with
    rings := h.rings.map fun _ => Ring.reset
    flags := h.flags.map fun _ => 0
    ctxs := ctxs
    flrDrain := ctxs.any fun x => !x.queue.isEmpty || (match x.batch with | some b => b.ring.isSome | none => false)
    attached := false
    eventVector := 0
    timeoutMs := 0x03E8
    heartbeat := 0
    bar2Base := 0
    busMaster := false
    dbgKeep := false
    dbgCtx := 0
    dbgStops := List.replicate 32 0
    dbgSel := 0
    dbgReady := false
    dbgError := false
    dbgFetch := false
    dbgArmed := false } }

/-- FLR_PF0 (R486); one during a handover is acted on at its end (R490). -/
def execFlrPf0 (s : State) : Res :=
  .next (if s.host.upd.handover then { s with host := { s.host with upd := { s.host.upd with flrWait := true } } } else flrPf0 s)

/-- FLR_DRAIN_END (R486). -/
def execFlrDrainEnd (s : State) : Res :=
  .next (if s.host.flrDrain && s.host.ctxs.all fun x => (x.batch.toList ++ x.queue).all (·.deliver) then
    { s with host := { s.host with flrDrain := false } } else s)

/-- FLR_PF1 (R487): the service mailbox; an update not yet activated is abandoned. -/
def execFlrPf1 (s : State) : Res :=
  .next { s with host := { s.host with
    mail := ⟨0, 0, false, 0, 0, s.host.mail.buf, none⟩
    upd := if s.host.upd.handover then s.host.upd else { s.host.upd with written := [], verified := false } } }

/-- BAR2_ACCESS (R461, R597): HBM through the window, never the firmware reserve or beyond HBM. -/
def execBar2Access (write : Bool) (off len : Nat) (data : Bytes) (s : State) : Res :=
  .next (
    let a := s.host.bar2Base.toNat + off
    let n := if write then data.length else len
    let answer := fun (t : State) (r : Bar2Answer) => { t with host := { t.host with bar2Out := t.host.bar2Out ++ [r] } }
    if fwReserve < a + n then answer s .unsupported
    else if write then (if hbmDown s a n then answer s .done else answer (hbmWrite s a data) .done)
    else if hbmBad s a n then answer s .poisoned
    else answer s (.data (hbmRead s a n)))

end Sys2Proof.Machine
end

