-- ==== Sys2Proof/Machine/Commands.lean ====
section
/-!
DEFINITION. The ring commands about contexts, batches, queue pairs, links and streams (R469 to R473, R480 to R483), the
allocation of HBM, and the starts of host and stream batches.
-/

namespace Sys2Proof.Machine

/-! ### Space in HBM -/

/-- A length rounded up to 4,096 bytes. -/
def up4k (n : Nat) : Nat := ceilDiv n 4096 * 4096

/-- Two ranges, as (start, length), have a byte in common. -/
def overlap (a b : Nat × Nat) : Bool := decide (0 < a.2) && decide (0 < b.2) && decide (a.1 < b.1 + b.2) && decide (b.1 < a.1 + a.2)

/-- The shares of HBM that contexts hold (R480). -/
def sharesOf (s : State) : List (Nat × Nat) := s.host.ctxs.filterMap fun x => if x.configured then some (x.hbmBase, up4k x.hbmBytes) else none

/-- The highest place below the firmware reserve where a share of `n` bytes fits (assumption 35). -/
def allocShare (s : State) (n : Nat) : Option Nat :=
  let tops := fwReserve :: (sharesOf s).map (·.1)
  let fits := tops.filter fun t => decide (up4k n ≤ t) && !((sharesOf s).any fun r => overlap r (t - up4k n, up4k n))
  (fits.max?).map fun t => t - up4k n

/-- HBM not in any share. -/
def freeShare (s : State) : Nat := fwReserve - ((sharesOf s).map (·.2)).sum

/-- The ranges in use within a context's share: image copies, work areas, staged copies, and Calico's stream rings. -/
def usedIn (s : State) (c : Nat) : List (Nat × Nat) :=
  let x := ctxAt s c
  let img := match x.image with
    | some i => [(x.copyBase, i.length), (x.workBase, imgWorkBytes i)]
    | none => []
  let new := match x.newImage with
    | some n => [(n.2.1, n.1.length), (n.2.2, imgWorkBytes n.1)]
    | none => []
  let staged := (x.slotA.staged ++ x.slotB.staged).filterMap fun e => if e.2.2.2 then some (e.2.1, e.2.2.1) else none
  let rings := (s.net.streams.filter fun st => st.calico && seCtx st.entry == c).map fun st =>
    (seBase st.entry, seSlots st.entry * seSlotBytes st.entry)
  (img ++ new ++ staged ++ rings).map fun r => (r.1, up4k r.2)

/-- The lowest place in a share, beside the ranges in use, where `n` bytes fit (assumption 35). -/
def allocIn (base size : Nat) (used : List (Nat × Nat)) (n : Nat) : Option Nat :=
  let cands := base :: used.map fun r => r.1 + r.2
  (cands.filter fun a => decide (base ≤ a) && decide (a + up4k n ≤ base + size) && !(used.any fun r => overlap r (a, up4k n))).min?

/-- Space of `n` bytes in a context's share. -/
def allocCtx (s : State) (c n : Nat) : Option Nat :=
  allocIn (ctxAt s c).hbmBase (up4k (ctxAt s c).hbmBytes) (usedIn s c) n

/-- How many KiB of `n` bytes a context's share lacks (R474). -/
def shortKiB (s : State) (c n : Nat) : Nat :=
  max 1 (ceilDiv (n - ((up4k (ctxAt s c).hbmBytes) - ((usedIn s c).map (·.2)).sum)) 1024)

/-- The candidate's staged copy and pinned pages are freed: the slot is EVICTED (R327, R328). -/
def evictSlot (s : State) (c i : Nat) : State :=
  let had := (slotOfCtx (ctxAt s c) i).inPages
  modSlot (if had then freePinned s c none else s) c i fun sl => { sl with
    state := .evicted
    staged := []
    relayNext := (0, 0)
    relayed := []
    fwdFailed := false
    inPages := false }

/-- Space of `n` bytes in a context's share, evicting its candidate set when it is short (R312, R327). -/
def allocEvict (s : State) (c n : Nat) : State × Option Nat :=
  match allocCtx s c n with
  | some a => (s, some a)
  | none =>
    let x := ctxAt s c
    if evictable x x.ptr then
      let s1 := evictSlot s c x.ptr
      match allocCtx s1 c n with
      | some a => (s1, some a)
      | none => (s1, none)
    else (s, none)

/-! ### Contexts -/

/-- CONFIG_CONTEXT (R480). -/
def execConfigContext (q : Nat) (s : State) : Res :=
  .next (named s q 0x20 fun s1 e c =>
    let b := e.bytes
    if (ctxAt s1 c).configured then finishEntry s1 q e.index 0x41 (ctxStateCode (ctxAt s1 c))
    else match allocShare s1 (rdLe b 0x10 8) with
      | none => finishEntry s1 q e.index 0x22 (max 1 (ceilDiv (rdLe b 0x10 8 - freeShare s1) 1024))
      | some a =>
        finishEntry (modCtx s1 c fun _ => { Ctx.reset with
          configured := true
          lanes := rdLe b 8 1
          cls := rdLe b 9 1
          pages := rdLe b 0x0A 2
          wdtExp := rdLe b 0x0C 1
          useWindow := if rdLe b 0x0D 1 = 0 then 10 else rdLe b 0x0D 1
          hbmBase := a
          hbmBytes := rdLe b 0x10 8 }) q e.index 0 0)

/-- A context has work under way that an unload would cut off: a batch running or queued, a load or re-fetch, or a
program waiting to be installed (assumption 36). -/
def ctxBusy (x : Ctx) : Bool :=
  x.batch.isSome || !x.queue.isEmpty || x.newImage.isSome ||
    [x.slotA, x.slotB].any fun sl => sl.state == .loading || sl.state == .refetching

/-- UNLOAD_CONTEXT (R480). -/
def execUnloadContext (q : Nat) (s : State) : Res :=
  .next (named s q 0x21 fun s1 e c =>
    if hasStreams s1 c || ctxBusy (ctxAt s1 c) then finishEntry s1 q e.index 0x41 (ctxStateCode (ctxAt s1 c))
    else finishEntry (unloadCtx s1 c) q e.index 0 0)

/-! ### Batches -/

/-- The arguments of a RUN_BATCH entry (R469). -/
def runArgs (b : Bytes) : List (Nat × Nat) := (List.range (rdLe b 9 1)).map fun i => (rdLe b (0x10 + 12 * i) 8, rdLe b (0x18 + 12 * i) 4)

/-- A LOAD_PROGRAM for a context is open on a ring before the entry at an index (R286). -/
def programAhead (s : State) (q idx c : Nat) : Bool :=
  ((ringAt s q).entries.takeWhile fun e => e.index != idx).any fun e => entryOpen e && enOp e.bytes == 0x01 && enCtx e.bytes == c

/-- RUN_BATCH (R471): the batch waits for its context; one that follows a LOAD_PROGRAM on its ring runs the new program
(R286). -/
def execRunBatch (q : Nat) (s : State) : Res :=
  .next (named s q 0x10 fun s1 e c =>
    if programAhead s1 q e.index c then s1
    else if !(ctxAt s1 c).configured then finishEntry s1 q e.index 0x41 0
    else
      let signal := if enFlags e.bytes / 2 % 2 = 1 then some (rdLe e.bytes 8 1) else none
      modCtx (setRunning s1 q e) c fun x =>
        { x with queue := x.queue ++ [ringBatch q e.index (enTag e.bytes) signal (runArgs e.bytes)] })

/-- Context `j` has a batch that goes before one of context `c` on a core they share (R482): a closed stream batch, or
a ring batch of a lower class, or of the same class from a ring that is served sooner. -/
def goesFirst (s : State) (c j : Nat) (cores : List Nat) : Bool :=
  let x := ctxAt s c
  let y := ctxAt s j
  let dist : Option Batch → Nat := fun b => match b.bind (·.ring) with
    | some p => (p.1 + 64 - (s.host.rr + 1) % 64) % 64
    | none => 64
  j != c && y.batch.isNone && y.image.isSome && (ctxCores y).any cores.contains &&
    (!(closedOf s j).isEmpty || (!y.queue.isEmpty && (decide (y.cls < x.cls) ||
      (y.cls == x.cls && decide (dist y.queue.head? < dist x.queue.head?)))))

/-- The context is placed on its cores, or on the given ones; both ways they are free and in service. The answer says
whether it is placed there. -/
def placedFor (s : State) (c : Nat) (cores : List Nat) : State × Bool :=
  let x := ctxAt s c
  if !x.placed.isEmpty && (cores.isEmpty || cores == ctxCores x) then
    (s, (ctxCores x).all fun k => inService s k && !coreRuns s k)
  else if !x.placed.isEmpty && x.cls == 0 && hasStreams s c then (s, false)
  else place s c cores

/-- HOST_BATCH_START (R482): the oldest RUN_BATCH of the context, when nothing goes before it. -/
def execHostBatchStart (c : Nat) (cores : List Nat) (s : State) : Res :=
  .next (
    let x := ctxAt s c
    match x.queue with
    | [] => s
    | b :: rest =>
      let on := if cores.isEmpty then ctxCores x else cores
      if !s.host.dispatch || x.batch.isSome || x.image.isNone || !(closedOf s c).isEmpty ||
          (List.range 16).any fun j => goesFirst s c j on then s
      else
        let r := placedFor s c cores
        if r.2 then
          let s1 := modCtx r.1 c fun y => { y with queue := rest }
          let s2 := startBatch s1 c b
          { s2 with host := { s2.host with rr := (b.ring.map (·.1)).getD s.host.rr } }
        else r.1)

/-- The stream dispatcher starts batches: not once a low-power entry has passed AP_1 (R547). -/
def dispatcherOpen (s : State) : Bool := match s.pw.phase with
  | .active => true
  | .entering _ ap => ap == 0
  | _ => false

/-- STREAM_BATCH_START (R437, R482): the oldest closed batch of the context. While firmware does not dispatch, only a
placed context whose set is RESIDENT starts (R489). -/
def execStreamBatchStart (c : Nat) (cores : List Nat) (s : State) : Res :=
  .next (
    let x := ctxAt s c
    match closedOf s c with
    | [] => s
    | b :: _ =>
      let hw := !x.placed.isEmpty && (slotOfCtx x x.ptr).state == .resident && !s.log.fatal
      if x.batch.isSome || x.image.isNone || !(s.host.dispatch || hw) || !dispatcherOpen s then s
      else
        let r := placedFor s c cores
        if r.2 then
          let i := r.1.net.closedB.findIdx fun p => p.1 == c
          let s1 := { r.1 with net := { r.1.net with closedB := r.1.net.closedB.eraseIdx i } }
          dispatch (startBatch s1 c (frameBatch s1 c b)) c
        else r.1)

/-! ### Streams (R433, R483, R531) -/

/-- The offset of the first field of a stream entry that firmware refuses (R433, R435, R483). -/
def badStream (s : State) (e : Bytes) : Option Nat :=
  let off := fun (c : Bool) (o : Nat) => if c then [o] else []
  let slots := seSlots e
  let size := seSlotBytes e
  (off (decide (7 < seFlags e)) 0 ++
    off (decide (15 < seCtx e) || !(ctxAt s (seCtx e)).configured || (ctxAt s (seCtx e)).cls != 0) 1 ++
    off (decide (2 < seType e)) 2 ++
    off ((seFlags e).testBit 1 && (decide (63 < seRing e) || (ringAt s (seRing e)).state != .active)) 3 ++
    off (decide (63 < seRank e) || decide (batchRanks s (seCtx e) ≤ seRank e)) 6 ++
    off (rdLe e 7 1 != 0) 7 ++
    off (seBase e % 4096 != 0 || !inUserHbm (seBase e) (slots * size)) 8 ++
    off (size % 4096 != 0 || decide (size < 4096) || decide (1048576 < size)) 0x10 ++
    off (decide (slots < 2) || decide (4096 < slots)) 0x14 ++
    off (seReassembly e == 0) 0x16 ++
    off ((slice e 0x2C 20).any (· != 0)) 0x2C).min?

/-- The frames that a stream has in batches, under the binding it loses: their results go where they would have (R23, R431). -/
def keepPaths (s : State) (sid : Nat) : State :=
  match streamOf s sid with
  | none => s
  | some st =>
    let keep := fun (f : BatchFrame) => if f.sid = sid then { f with path := f.path.or (some (pathOf st)) } else f
    let batch := fun (p : Nat × StreamBatch) => (p.1, { p.2 with frames := p.2.frames.map keep })
    { s with
      net := { s.net with openB := s.net.openB.map batch, closedB := s.net.closedB.map batch }
      host := { s.host with ctxs := s.host.ctxs.map fun x =>
        { x with batch := x.batch.map fun b => { b with frames := b.frames.map keep } } } }

/-- The stream `sid` bound with an entry (R433, R483): a binding it had is replaced, and it has no base until its first
accepted frame. -/
def bindSid (s : State) (sid : Nat) (entry : Bytes) (calico : Bool) : State :=
  let s1 := keepPaths (unbindStream s sid) sid
  let st : Stream :=
    { sid := sid, entry := entry, based := false, last := 0, gaps := [], frames := [], retAddr := 0, retPort := 0
      retMac := 0, retVlan := 0, port := 0, creditReq := 0, calico := calico }
  { s1 with net := { s1.net with streams := s1.net.streams.filter (fun x => x.sid != sid) ++ [st] } }

/-- BIND_STREAM (R483, R531). -/
def execBindStream (q : Nat) (s : State) : Res :=
  .next (
    match pick s q 0x05 with
    | none => s
    | some e =>
      let b := e.bytes
      let sid := rdLe b 8 2
      let entry := hbmRead s (rdLe b 0x10 8) 64
      let bad := hbmBad s (rdLe b 0x10 8) 64
      if rdLe b 0x0A 1 = 1 then finishEntry (unbindStream s sid) q e.index 0 0
      else
        let s1 := takeOver s (enCtx b)
        let s2 := if bad || decide (15 < seCtx entry) then s1 else takeOver s1 (seCtx entry)
        if (ctxAt s2 (enCtx b)).calico.isSome || (!bad && (ctxAt s2 (seCtx entry)).calico.isSome) then s2
        else match (if bad then some 0 else badStream s2 entry) with
          | some o => finishEntry s2 q e.index 0x42 o
          | none => finishEntry (bindSid s2 sid entry false) q e.index 0 0)

/-! ### Queue pairs and links (R471 to R473) -/

/-- Fields of a queue pair's parameter block (R472). -/
def qpPort (p : Bytes) : Nat := rdLe p 1 1
def qpRetry (p : Bytes) : Nat := rdLe p 3 1
def qpRnr (p : Bytes) : Nat := rdLe p 4 1
def qpMtu (p : Bytes) : Nat := 1024 * 2 ^ rdLe p 2 1
def qpKey (p : Bytes) : Nat := rdLe p 0x34 4
def qpRegion (p : Bytes) : Nat := rdLe p 0x38 8
def qpRegionBytes (p : Bytes) : Nat := rdLe p 0x40 8
def qpAccess (p : Bytes) : Nat := rdLe p 0x48 1

/-- A port is configured in the mode (R414). -/
def portInMode (mode : BitVec 2) (p : Nat) : Bool :=
  decide (p < 8) && (match mode.toNat with
    | 0 => true
    | 1 => p % 2 == 0
    | _ => p % 4 == 0)

/-- The queue pair with a number. -/
def qpOf (s : State) (n : Nat) : Option Qp := s.net.qps.find? fun p => p.num == n

/-- A LOADING or REFETCHING weight set or a link names the queue pair (R472). -/
def qpNamed (s : State) (n : Nat) : Bool :=
  s.net.links.any (fun l => l.qp == n) || s.host.ctxs.any fun x => [x.slotA, x.slotB].any fun sl =>
    (sl.state == .loading || sl.state == .refetching) && (wsUp sl.desc == n || wsDown sl.desc == n ||
      (List.range (wsTensors sl.desc)).any fun i => teKind (wsEntry sl.desc i) == 2 && teQp (wsEntry sl.desc i) == n)

/-- The first refused byte of a CONFIG_QP parameter block (R472). -/
def badQp (s : State) (n : Nat) (p : Bytes) : Option Nat :=
  let off := fun (c : Bool) (o : Nat) => if c then [o] else []
  let act := rdLe p 0 1
  if act = 2 then (if (qpOf s n).isNone || qpNamed s n then some 0 else none)
  else if act ≠ 1 ∨ (qpOf s n).isSome then some 0
  else
    (off (!portInMode s.net.mode (qpPort p)) 1 ++ off (decide (2 < rdLe p 2 1)) 2 ++ off (decide (7 < qpRetry p)) 3 ++
      off (decide (7 < qpRnr p)) 4 ++ off (decide (31 < rdLe p 5 1)) 5 ++
      off (rdLe p 6 1 == 0 || decide (31 < rdLe p 6 1)) 6 ++ off (decide (7 < rdLe p 7 1)) 7 ++
      off (decide (63 < rdLe p 8 1)) 8 ++ off (rdLe p 0x0F 1 != 0) 0x0F ++ off (rdLe p 0x13 1 != 0) 0x13 ++
      off (rdLe p 0x17 1 != 0) 0x17 ++ off (rdLe p 0x18 2 / 4096 % 8 != 0) 0x19 ++
      off (rdLe p 0x30 1 == 0 || decide (16 < rdLe p 0x30 1)) 0x30 ++
      off (rdLe p 0x31 1 == 0 || decide (16 < rdLe p 0x31 1)) 0x31 ++ off (rdLe p 0x32 1 != 0) 0x32 ++
      off (rdLe p 0x33 1 != 0) 0x33 ++ off (qpRegionBytes p == 0 && qpKey p != 0) 0x34 ++
      off (qpRegion p % 4096 != 0 || !inUserHbm (qpRegion p) (qpRegionBytes p)) 0x38 ++
      off (qpRegionBytes p % 4096 != 0) 0x40 ++ off (decide (3 < qpAccess p)) 0x48 ++ off (rdLe p 0x49 1 != 0) 0x49 ++
      off (decide (15 < rdLe p 0x4A 2) && rdLe p 0x4A 2 != 0xFFFF) 0x4A ++
      ((List.range 180).map (· + 0x4C)).filter fun o => p.getD o 0 != 0).min?

/-- CONFIG_QP (R471, R472). Rates start at the port rate (R423). -/
def execConfigQp (q : Nat) (s : State) : Res :=
  .next (match pick s q 0x22 with
  | none => s
  | some e =>
    let n := rdLe e.bytes 8 2
    let a := rdLe e.bytes 0x10 8
    let p := hbmRead s a 256
    match (if hbmBad s a 256 then some 0 else badQp s n p) with
    | some o => finishEntry s q e.index 0x40 (0x100 + o)
    | none =>
      let rest := s.net.qps.filter fun x => x.num != n
      let new : Qp :=
        { num := n, params := p, sqPsn := rdLe p 0x10 4, ackPsn := rdLe p 0x10 4, rqPsn := rdLe p 0x14 4
          outstanding := [], retries := 0, rnrRetries := 0, rnrWait := false, got := [], nakSent := false, cnpAt := none
          rate := 80000, error := false }
      finishEntry { s with net := { s.net with qps := if rdLe p 0 1 = 1 then rest ++ [new] else rest } } q e.index 0 0)

/-- Fields of a link's parameter block (R473). -/
def lkQp (p : Bytes) : Nat := rdLe p 2 2
def lkCtx (p : Bytes) : Nat := rdLe p 4 1
def lkLane (p : Bytes) : Nat := rdLe p 5 1
def lkPages (p : Bytes) : Nat := rdLe p 6 2
def lkFirst (p : Bytes) : Nat := rdLe p 8 2

/-- A page may belong to a link range: a page of the lane in no constant pool and no pinned tensor (R473). -/
def linkable (x : Ctx) (lane page : Nat) : Bool :=
  match x.image with
  | none => false
  | some img =>
    let e := laneEntry img lane
    lanePresent img lane && ownsPage (lePagesLow e) (lePagesHigh e) page &&
      !((imgItems img e).any fun it => (rangePages it.1 it.2.1).contains page) &&
      !((imgRefs img).any fun r => wrResidence r == 0 && wrLane r == lane && (rangePages (wrAddress r) (wrBytes r)).contains page)

/-- The first refused byte of a CONFIG_LINK parameter block (R473). -/
def badLink (s : State) (n : Nat) (p : Bytes) : Option Nat :=
  let off := fun (c : Bool) (o : Nat) => if c then [o] else []
  let act := rdLe p 0 1
  let known := s.net.links.any fun l => l.num == n
  if act = 2 ∨ act = 3 then (if known then none else some 0)
  else if act ≠ 1 ∨ known then some 0
  else
    (off (decide (1 < rdLe p 1 1)) 1 ++
      off ((qpOf s (lkQp p)).isNone || s.net.links.any fun l => l.qp == lkQp p) 2 ++
      off (decide (15 < lkCtx p) || !(ctxAt s (lkCtx p)).configured) 4 ++
      off (!(match (ctxAt s (lkCtx p)).image with | some img => lanePresent img (lkLane p) | none => false)) 5 ++
      off (lkPages p == 0 || decide (64 < lkPages p)) 6 ++
      off (decide (4096 < lkFirst p + lkPages p) ||
        !((List.range (lkPages p)).all fun i => linkable (ctxAt s (lkCtx p)) (lkLane p) (lkFirst p + i))) 8 ++
      off (decide (63 < rdLe p 0x0A 1)) 0x0A ++ off (rdLe p 0x0B 1 != 0) 0x0B ++
      ((List.range 244).map (· + 0x0C)).filter fun o => p.getD o 0 != 0).min?

/-- The pages of a link's range. -/
def linkRange (l : Link) : List Nat := (List.range l.pages).map fun i => (l.first + i) % 4096

/-- A link reset (R336, R473): messages in flight are discarded, the range's tags are EMPTY, every credit is with the
sending end. -/
def resetLink (s : State) (n : Nat) : State :=
  match s.net.links.find? fun l => l.num == n with
  | none => s
  | some l =>
    let new := { l with
      credits := if l.role = 0 then List.range l.pages else []
      next := 0
      sent := []
      stopped := false }
    let s1 := { s with net := { s.net with
      links := s.net.links.map fun x => if x.num = n then new else x
      qps := s.net.qps.map fun p => if p.num = l.qp then
          { p with outstanding := p.outstanding.filter fun m => (m.link.map (·.1)) != some n } else p } }
    match coreOf (ctxAt s l.ctx) l.lane with
    | some k => modCore s1 k fun c => { c with sp := mapTags c.sp (fun t => BitVec.ofNat 8 (nfld t.toNat 4 3 * 8)) (linkRange l) }
    | none => s1

/-- CONFIG_LINK (R335, R471, R473). -/
def execConfigLink (q : Nat) (s : State) : Res :=
  .next (match pick s q 0x23 with
  | none => s
  | some e =>
    let n := rdLe e.bytes 8 1
    let a := rdLe e.bytes 0x10 8
    let p := hbmRead s a 256
    let s1 := if lkCtx p < 16 ∧ !hbmBad s a 256 then takeOver s (lkCtx p) else s
    if !hbmBad s a 256 && (ctxAt s1 (lkCtx p)).calico.isSome then s1 else
    match (if hbmBad s1 a 256 then some 0 else badLink s1 n p) with
    | some o => finishEntry s1 q e.index 0x40 (0x100 + o)
    | none =>
      let act := rdLe p 0 1
      let s2 :=
        if act = 1 then
          let l : Link :=
            { num := n, role := rdLe p 1 1, qp := lkQp p, ctx := lkCtx p, lane := lkLane p, pages := lkPages p
              first := lkFirst p, remote := rdLe p 0x0A 1
              credits := if rdLe p 1 1 = 0 then List.range (lkPages p) else [], next := 0, sent := [], stopped := false }
          { s1 with net := { s1.net with links := s1.net.links ++ [l] } }
        else if act = 2 then resetLink s1 n
        else
          let s3 := resetLink s1 n
          { s3 with net := { s3.net with links := s3.net.links.filter fun l => l.num != n } }
      finishEntry s2 q e.index 0 0)

end Sys2Proof.Machine
end

