-- ==== Sys2Proof/Machine/Flash.lean ====
section
/-!
DEFINITION. The in-package flash (R370 to R413): the read path with status words, the two command channels and their
steps, protection, erase flags and wear; and how a finished flash operation ends the mailbox command that asked for
it (R488, R514, R516).
-/

namespace Sys2Proof.Machine

/-! ### Mailbox commands that wait (R488, R513, R515) -/

/-- The service mailbox command ends with a result; vector 0 of PF1 is signalled (R488, R504). -/
def mailDone (s : State) (result : Nat) : State :=
  sendMsix { s with host := { s.host with mail := { s.host.mail with
    busy := false
    running := none
    result := BitVec.ofNat 16 result } } } 1 0

/-- A short management command ends with a result (R515). -/
def mgShort (s : State) (result : Nat) : State :=
  { s with mg := { s.mg with
    shortState := 3
    shortResult := BitVec.ofNat 8 result
    shortFlash := false } }

/-- A long management command ends with a result (R513, R515). -/
def mgLong (s : State) (result : Nat) : State :=
  raiseAlert { s with mg := { s.mg with
    longState := 3
    longResult := BitVec.ofNat 8 result
    long := .none } } 0x10

/-! ### The array -/

/-- Sector, bank and page of a flash offset (R370). -/
def sectorOf (off : Nat) : Nat := off / 65536
def flashBank (off : Nat) : Nat := off / 67108864
def flashPage (off : Nat) : Nat := off / 512

/-- The areas of R372, as their number in its table. -/
def areaOf (sector : Nat) : Nat :=
  if sector < 16 then 0 else if sector < 32 then 1 else if sector < 34 then 2 else if sector < 512 then 3
  else if sector < 1024 then 4 else 5

/-- A byte of the array: 0xFF when erased, a free value in a page whose programming failed (R371, R385). -/
def flashByte (f : Flash) (a : Nat) : Byte :=
  match f.freePages.find? fun p => p.1 == flashPage a with
  | some p => memByte f.cells (Config.freeByte p.2) a
  | none => memByte f.cells (fun _ => 0xFF) a

/-- Bytes of the array. -/
def flashBytes (f : Flash) (a n : Nat) : Bytes := (List.range n).map fun i => flashByte f (a + i)

/-- Bytes programmed into an erased page (R371, R385); its words have fresh check bits. -/
def flashProgram (f : Flash) (a : Nat) (bs : Bytes) : Flash :=
  { f with
    cells := memWrite f.cells (fun _ => some 0xFF) a bs
    worn := f.worn.filter fun w => !overlap (w.1, 32) (a, bs.length) }

/-- A sector erased, its flag closed and its count raised (R371, R386, R400). -/
def flashErase (f : Flash) (sector : Nat) : Flash :=
  { f with
    cells := memDrop f.cells (sector * 65536) 65536
    freePages := f.freePages.filter fun p => p.1 / 128 != sector
    eraseCount := put f.eraseCount sector (look f.eraseCount sector 0 + 1)
    openFlags := f.openFlags.filter (· != sector)
    incomplete := f.incomplete.filter (· != sector)
    worn := f.worn.filter fun w => sectorOf w.1 != sector }

/-- The page buffer of a channel; undefined where nothing wrote it since a warm reset (R381). -/
def bufBytes (ch : FlashChan) : Bytes :=
  (List.range 512).map fun i => memByte ch.buf (match ch.bufFree with | some e => Config.freeByte e | none => fun _ => 0) i

/-- Bytes written into a channel's page buffer. -/
def bufWrite (ch : FlashChan) (off : Nat) (bs : Bytes) : FlashChan :=
  { ch with buf := memWrite ch.buf (match ch.bufFree with | some _ => fun _ => none | none => zeroDflt) off bs }

/-- Command channel 0 or 1. -/
def chanOf (f : Flash) (n : Nat) : FlashChan := if n = 1 then f.ch1 else f.ch0

/-- A command channel mapped. -/
def modFlash (s : State) (n : Nat) (g : FlashChan → FlashChan) : State :=
  { s with flash := if n = 1 then { s.flash with ch1 := g s.flash.ch1 } else { s.flash with ch0 := g s.flash.ch0 } }

/-- A sector is locked for a channel (R390, R391). -/
def flashLocked (f : Flash) (ch : FlashChan) (sector : Nat) : Bool :=
  f.password.isSome && !ch.unlocked && f.regions.any fun r => r.on && decide (r.first ≤ sector) && decide (sector ≤ r.last)

/-- The operation of a channel takes steps (R382). -/
def stepped (op : FlashOp) : Bool := op.opcode == 1 || op.opcode == 2 || op.opcode == 6 || op.opcode == 7

/-- A sector is under erase on some channel (R384, R387). -/
def underErase (f : Flash) (sector : Nat) : Bool :=
  [f.ch0, f.ch1].any fun ch => match ch.op with
    | some op => op.opcode == 2 && sectorOf op.addr == sector && decide (0 < ch.steps.toNat || f.openFlags.contains sector)
    | none => false

/-- The operation whose step runs now. -/
def runningStep (f : Flash) : Option FlashOp := f.step.bind fun n => (chanOf f n).op

/-! ### Reading -/

/-- Why a word's read returns a status word (R374, R384, R397). -/
def statusReason (f : Flash) (off : Nat) : Option Nat :=
  let run := match runningStep f with
    | some op => if (op.opcode == 1 || op.opcode == 2) && flashBank op.addr == flashBank off then some op.opcode else none
    | none => none
  if !f.scanDone then some 5
  else match run with
    | some o => some o
    | none => if f.incomplete.contains (sectorOf off) then some 4 else if underErase f (sectorOf off) then some 3 else none

/-- A status word (R374); the microseconds left in a step are a free value within the step's limit (R383). -/
def statusWord (s : State) (off reason : Nat) : Bytes :=
  let left := (Config.freeWord s.freeCtr 0).toNat
  toLe 8 0x5355544154534C46 ++ toLe 1 reason ++ toLe 1 (flashBank off) ++ toLe 2 (sectorOf off) ++
    toLe 4 (match reason with | 1 => left % 1001 | 2 => left % 12001 | _ => 0) ++ List.replicate 16 0

/-- The least wait states for the settings in force (R378). -/
def minWait (f : Flash) : Nat :=
  match f.clkDiv.toNat, f.supplyInForce with
  | 0, false => 4
  | 0, true => 7
  | 1, false => 2
  | 1, true => 4
  | _, false => 1
  | _, true => 2

/-- The data of a word: unreliable, so a free value, when wait_states is below the minimum (R378). -/
def wordData (s : State) (off : Nat) : Bytes :=
  if s.flash.waitStates.toNat < minWait s.flash then (List.range 32).map (Config.freeByte s.freeCtr) else flashBytes s.flash off 32

/-- FL_ERR_LAST and the counts of R405. -/
def flashEcc (s : State) (off : Nat) (bad : Bool) : State :=
  let f := s.flash
  let f1 := if bad then { f with eccUncorrected := BitVec.ofNat 32 (satAdd 32 f.eccUncorrected.toNat 1) }
    else { f with eccCorrected := BitVec.ofNat 32 (satAdd 32 f.eccCorrected.toNat 1) }
  logAdd { s with flash := { f1 with errLast := BitVec.ofNat 32 ((if bad then 2 ^ 31 else 0) + off) } }
    { logEntry (if bad then 1 else 0) 7 (if bad then 0x0302 else 0x0301) 1 with inst := flashBank off, address := off }

/-- Wrong bits found in a word stay in its cells: a read never rewrites the array (R373). -/
def noteWorn (s : State) (off : Nat) (ecc : Ecc) : State :=
  match ecc with
  | .clean => s
  | .corrected _ => { s with flash := { s.flash with worn := put s.flash.worn off false } }
  | .uncorrectable _ _ => { s with flash := { s.flash with worn := put s.flash.worn off true } }

/-- A range of the array has a word that is uncorrectable. -/
def wornBad (f : Flash) (off n : Nat) : Bool := f.worn.any fun w => w.2 && overlap (w.1, 32) (off, n)

/-- One word read through the read path (R373, R374), after what has become of its cells: the state, and the answer. -/
def readWord (s : State) (off : Nat) (ecc : Ecc) : State × FlashResp :=
  match statusReason s.flash off with
  | some r => (nextEpoch s, ⟨off, true, false, statusWord s off r⟩)
  | none =>
    let s0 := noteWorn s off ecc
    let s1 := if s.flash.waitStates.toNat < minWait s.flash then nextEpoch s0 else s0
    match s1.flash.worn.find? fun w => w.1 == off with
    | none => (s1, ⟨off, false, false, wordData s off⟩)
    | some w => if w.2 then (flashEcc s1 off true, ⟨off, false, true, []⟩) else (flashEcc s1 off false, ⟨off, false, false, wordData s off⟩)

/-- The words of a range read in turn by an agent that retries a word of a busy bank (R373, R376): none while one is busy;
else its bytes, or none where a word returns an error response or lies in a sector ERASE_INCOMPLETE. -/
def flashFetch (s : State) (off n : Nat) : State × Option (Option Bytes) :=
  let words := if n = 0 then [] else (List.range ((off + n - 1) / 32 + 1 - off / 32)).map (off / 32 + ·)
  let r := words.foldl (fun (p : State × Option (Option Bytes)) w =>
    match p.2 with
    | some (some bs) =>
      let q := readWord p.1 (32 * w) .clean
      (q.1, if q.2.status then (if statusReason p.1.flash (32 * w) = some 4 then some none else none)
        else if q.2.error then some none else some (some (bs ++ q.2.data)))
    | _ => p) (s, some (some []))
  (r.1, r.2.map fun x => x.map fun bs => slice bs (off % 32) n)

/-- FLASH_READ (R373). -/
def execFlashRead (off : Nat) (ecc : Ecc) (s : State) : Res :=
  .next (
    if 1073741824 ≤ off then s
    else
      let r := readWord s (off / 32 * 32) ecc
      { r.1 with flash := { r.1.flash with resps := r.1.flash.resps ++ [r.2] } })

/-! ### Steps -/

/-- A slot whose set has a source in a sector becomes UNUSABLE (R329). -/
def spoilSlot (sector : Nat) (sl : Slot) : Slot :=
  let source := fun (i : Nat) =>
    let e := wsEntry sl.desc i
    teKept sl.desc i && teKind e == 1 && overlap (teSrc e, teSrcBytes e) (sector * 65536, 65536)
  if sl.state = .free ∨ sl.state = .loading then sl
  else match (List.range (wsTensors sl.desc)).find? source with
    | some t => { sl with
        state := .unusable
        lost := t
        refs := sl.refs - reloadRef sl
        reload := [] }
    | none => sl

/-- A batch that waits for a set in slot `i` that became UNUSABLE fails (R329). -/
def refuseWaiting (s : State) (c i : Nat) : State :=
  let sl := slotOfCtx (ctxAt s c) i
  if sl.state = .unusable then
    modBatch s c fun b => if b.slot = i ∧ b.lanesBegun = [] then { b with refuse := some (0x24, sl.lost) } else b
  else s

/-- A sector becomes ERASE_INCOMPLETE (R386, R388, R398, R399): one log entry; a WEIGHT sector raises MALERT_N, and
every weight set with a source in it becomes UNUSABLE (R329). -/
def sectorIncomplete (s : State) (sector : Nat) : State :=
  let s1 := logAdd { s with flash := { s.flash with incomplete := sector :: s.flash.incomplete.filter (· != sector) } }
    { logEntry 1 7 0x0303 1 with inst := sector / 1024, address := sector * 65536 }
  if areaOf sector ≠ 5 then s1
  else
    let s2 := { s1 with host := { s1.host with ctxs := s1.host.ctxs.map fun x =>
      { x with slotA := spoilSlot sector x.slotA, slotB := spoilSlot sector x.slotB } } }
    raiseAlert ((List.range 16).foldl (fun t c => refuseWaiting (refuseWaiting t c 0) c 1) s2) 0x04

/-- A flash command of a channel ends (R382, R412), and with it the mailbox command that waits for it. -/
def flashFinish (s : State) (n code : Nat) : State :=
  let s1 := modFlash s n fun ch => { ch with op := none, result := BitVec.ofNat 8 code }
  if n = 0 then
    (match s1.host.mail.running with
     | some op =>
       if op = 0x11 ∨ op = 0x12 ∨ op = 0x13 then
         mailDone { s1 with host := { s1.host with mail := { s1.host.mail with
           progress := (chanOf s.flash 0).steps.setWidth 15 } } } (if code = 0 then 0 else 0x100 + code)
       else s1
     | none => s1)
  else if s1.mg.long = .program ∨ s1.mg.long = .erase then mgLong s1 code
  else if s1.mg.shortFlash then
    mgShort (if ((chanOf s.flash 1).op.map (·.opcode)) = some 3 then
      { s1 with mg := { s1.mg with buf := splice s1.mg.buf 0 (toLe 8 (chanOf s1.flash 1).resultReg.toNat) } } else s1) code
  else s1

/-- READ_INFO's result register (R411). -/
def infoOf (f : Flash) (sector : Nat) : W64 :=
  let b := fun (c : Bool) (i : Nat) => if c then 2 ^ i else 0
  BitVec.ofNat 64 (min (look f.eraseCount sector 0) 0xFFFFFF + b (f.openFlags.contains sector) 25 +
    b (f.incomplete.contains sector) 26 +
    b (f.regions.any fun r => r.on && decide (r.first ≤ sector) && decide (sector ≤ r.last)) 27)

/-- A command with no steps served (R383): READ_INFO and LOCK. UNLOCK completes by its own event. -/
def serveStepless (s : State) (n : Nat) : State :=
  match (chanOf s.flash n).op with
  | some op =>
    if op.opcode = 3 then
      flashFinish (modFlash s n fun ch => { ch with resultReg := infoOf s.flash (sectorOf op.addr) }) n 0
    else if op.opcode = 5 then flashFinish (modFlash s n fun ch => { ch with unlocked := false }) n 0
    else s
  | none => s

/-- The channel whose operation steps next: the channels alternate (R383). -/
def nextChannel (f : Flash) : Option Nat :=
  [1 - f.last % 2, f.last % 2].find? fun n => match (chanOf f n).op with
    | some op => stepped op
    | none => false

/-- The next step starts when none runs (R383, R385 to R387): a program whose page is not blank, or whose sector is
under erase or ERASE_INCOMPLETE by then, ends without one; the first step of an erase opens the sector's flag. -/
def startStep : Nat → State → State
  | 0, s => s
  | fuel + 1, s =>
    match (if s.flash.step.isSome then none else nextChannel s.flash) with
    | none => s
    | some n =>
      let f := s.flash
      match (chanOf f n).op with
      | none => s
      | some op =>
        let sec := sectorOf op.addr
        if op.opcode = 1 then
          if underErase f sec then startStep fuel (flashFinish s n 0x01)
          else if f.incomplete.contains sec then startStep fuel (flashFinish s n 0x04)
          else if (flashBytes f op.addr 512).any (· != 0xFF) then startStep fuel (flashFinish s n 0x03)
          else { s with flash := { f with step := some n, last := n } }
        else { s with flash := { f with
          step := some n
          last := n
          openFlags := if op.opcode = 2 then sec :: f.openFlags.filter (· != sec) else f.openFlags } }

/-- Commands without steps are served, then the next step starts (R383). -/
def betweenSteps (s : State) : State := startStep 3 (serveStepless (serveStepless s 0) 1)

/-- An operation ends by ABORT at a step boundary (R388): an erase that has opened its flag leaves its sector
ERASE_INCOMPLETE. -/
def abortOp (s : State) (n : Nat) : State :=
  match (chanOf s.flash n).op with
  | none => s
  | some op =>
    let opened := op.opcode = 2 ∧ s.flash.openFlags.contains (sectorOf op.addr) = true
    flashFinish (if opened then sectorIncomplete s (sectorOf op.addr) else s) n 0x0B

/-- A program step ends (R385). -/
def programEnd (s : State) (n : Nat) (op : FlashOp) (verify : Bool) : State :=
  if verify then flashFinish { s with flash := flashProgram s.flash op.addr op.data } n 0
  else
    flashFinish { nextEpoch s with flash := { s.flash with
      cells := memDrop s.flash.cells op.addr 512
      freePages := put s.flash.freePages (flashPage op.addr) s.freeCtr } } n 0x05

/-- An erase step ends (R386, R388, R400). -/
def eraseEnd (s : State) (n : Nat) (op : FlashOp) (verify : Bool) : State :=
  let sec := sectorOf op.addr
  if verify then
    let s1 := { s with flash := flashErase s.flash sec }
    let s2 := if look s1.flash.eraseCount sec 0 = 10000 then
        logAdd { s1 with flash := { s1.flash with wear := s1.flash.wear + 1 } }
          { logEntry 0 7 0x0304 1 with inst := sec / 1024, address := sec * 65536 }
      else s1
    flashFinish s2 n 0
  else if 40 ≤ (chanOf s.flash n).steps.toNat then flashFinish (sectorIncomplete s sec) n 0x06
  else if op.abort then abortOp s n
  else s

/-- FLASH_STEP_END (R383, R385, R386): the running step ends, and the next starts. -/
def stepEnd (s : State) (verify : Bool) : State :=
  match s.flash.step with
  | none => s
  | some n =>
    match (chanOf s.flash n).op with
    | none => s
    | some op =>
      let s0 := modFlash { s with flash := { s.flash with step := none } } n fun ch => { ch with steps := ch.steps + 1 }
      let s1 := if n = 1 ∧ (s.mg.long = .program ∨ s.mg.long = .erase) then
          { s0 with mg := { s0.mg with longSteps := s0.mg.longSteps + 1 } } else s0
      betweenSteps (match op.opcode with
        | 1 => programEnd s1 n op verify
        | 2 => eraseEnd s1 n op verify
        | 6 => (if s1.flash.password.isSome then flashFinish s1 n 0x09
            else flashFinish { s1 with flash := { s1.flash with password := some op.arg } } n 0)
        | _ =>
          let r : Region := ⟨op.regionOn, fld op.arg 13 0, fld op.arg 29 16⟩
          flashFinish { s1 with flash := { s1.flash with regions := s1.flash.regions.set op.region r } } n 0)

/-- FLASH_STEP_END (R383). -/
def execFlashStepEnd (verify : Bool) (s : State) : Res := .next (stepEnd s verify)

/-! ### Commands -/

/-- Felt entry has begun (R389). -/
def feltBegun (s : State) : Bool := match s.pw.phase with | .entering true _ => true | _ => false

/-- The control plane is clocked: the device is active, in Voile, or entering a low-power state. -/
def flashUp (s : State) : Bool := match s.pw.phase with
  | .active => true
  | .voile => true
  | .entering _ _ => true
  | _ => false

/-- The result a command is refused with at once, if it is (R382, R387, R389, R390 to R392). -/
def flashRefuse (s : State) (n : Nat) (op : FlashOp) : Option Nat :=
  let f := s.flash
  let ch := chanOf f n
  let sec := sectorOf op.addr
  match op.opcode with
  | 1 =>
    if op.addr % 512 ≠ 0 ∨ 1073741824 ≤ op.addr then some 0x0A
    else if flashLocked f ch sec then some 0x02
    else if underErase f sec then some 0x01
    else if f.incomplete.contains sec then some 0x04
    else if (f.step.isNone && (flashBytes f op.addr 512).any (· != 0xFF)) then some 0x03
    else none
  | 2 => if flashLocked f ch sec then some 0x02 else if underErase f sec then some 0x01 else none
  | 6 => if f.password.isSome then some 0x09 else none
  | 7 => if f.password.isSome && !ch.unlocked then some 0x02 else none
  | 3 => none
  | 4 => none
  | 5 => none
  | _ => some 0x0C

/-- A command written to FL_CMD_n (R382, R408): `data` is the page to program. -/
def flashCommand (s : State) (n opcode region : Nat) (regionOn : Bool) : State :=
  let f := s.flash
  let ch := chanOf f n
  let op : FlashOp :=
    { opcode := opcode, addr := ch.addr.toNat, data := bufBytes ch, arg := ch.arg, region := region
      regionOn := regionOn, abort := false }
  if !flashUp s || !f.scanDone then s
  else if opcode = 8 then
    (if f.step = some n then modFlash s n fun c => { c with op := c.op.map fun o => { o with abort := true } }
     else if ch.op.isSome then betweenSteps (abortOp s n) else s)
  else if ch.op.isSome then modFlash s n fun c => { c with result := 0x01 }
  else if feltBegun s then modFlash s n fun c => { c with result := 0x0B }
  else
    let s1 := modFlash s n fun c => { c with op := some op, steps := 0 }
    match flashRefuse s n op with
    | some r => flashFinish s1 n r
    | none => if f.step.isSome then s1 else betweenSteps s1

/-- PROGRAM_PAGE (R385). -/
def execProgramPage (n : Nat) (s : State) : Res := .next (flashCommand s n 1 0 false)

/-- ERASE_SECTOR (R386). -/
def execEraseSector (n : Nat) (s : State) : Res := .next (flashCommand s n 2 0 false)

/-- READ_INFO (R382, R411). -/
def execReadInfo (n : Nat) (s : State) : Res := .next (flashCommand s n 3 0 false)

/-- UNLOCK (R393): it completes 1 ms later. -/
def execUnlock (n : Nat) (s : State) : Res := .next (flashCommand s n 4 0 false)

/-- LOCK (R393). -/
def execLock (n : Nat) (s : State) : Res := .next (flashCommand s n 5 0 false)

/-- SET_PASSWORD (R391). -/
def execSetPassword (n : Nat) (s : State) : Res := .next (flashCommand s n 6 0 false)

/-- SET_REGION (R392). -/
def execSetRegion (n region : Nat) (enable : Bool) (s : State) : Res := .next (flashCommand s n 7 (region % 16) enable)

/-- FLASH_ABORT (R388). -/
def execFlashAbort (n : Nat) (s : State) : Res := .next (flashCommand s n 8 0 false)

/-- UNLOCK_COMPLETION (R382, R393). -/
def execUnlockCompletion (n : Nat) (s : State) : Res :=
  .next (match (chanOf s.flash n).op with
    | some op =>
      if op.opcode ≠ 4 then s
      else if 8 ≤ s.flash.attempts then flashFinish s n 0x08
      else if s.flash.password = some op.arg then
        flashFinish { modFlash s n (fun c => { c with unlocked := true }) with flash :=
          { (modFlash s n fun c => { c with unlocked := true }).flash with attempts := 0 } } n 0
      else flashFinish { s with flash := { s.flash with attempts := s.flash.attempts + 1 } } n 0x07
    | none => s)

/-- FLASH_SCAN (R397 to R399, R407): open flags make their sectors ERASE_INCOMPLETE, each with its log entry. -/
def execFlashScan (s : State) : Res :=
  .next (
    if s.flash.scanDone || !s.pw.pllLocked then s
    else
      let f := { s.flash with
        scanDone := true
        incomplete := []
        wear := (s.flash.eraseCount.filter fun p => decide (10000 ≤ p.2)).length }
      (s.flash.openFlags.mergeSort (· ≤ ·)).foldl sectorIncomplete { s with flash := f })

/-- SUPPLY_MODE_CHANGE (R379): the mode last written to FL_SUPPLY is in force. -/
def execSupplyModeChange (s : State) : Res :=
  .next { s with flash := { s.flash with supplyInForce := s.flash.supplyLow } }

/-- FL_EI_DATA_READ (R404): a word of the bitmap; the index moves on. -/
def execFlEiDataRead (s : State) : Res :=
  .next (
    let i := s.flash.eiIndex.toNat
    let bits := ((List.range 32).map fun b => if s.flash.incomplete.contains (32 * i + b) then 2 ^ b else 0).sum
    { s with flash := { s.flash with eiIndex := s.flash.eiIndex + 1 }, readOut := BitVec.ofNat 64 bits })

end Sys2Proof.Machine
end

