-- ==== Sys2Proof/Machine/Rdma.lean ====
section
/-!
DEFINITION. The RDMA engine (R422, R423, R472), pipeline links (R335, R336, R473), priority flow control (R417 to
R419) and the frames that are neither Spexa Stream Protocol nor RoCEv2 (R415, R420).
-/

namespace Sys2Proof.Machine

/-! ### Queue pairs -/

/-- Packet sequence numbers have 24 bits. -/
def psnAdd (a n : Nat) : Nat := (BitVec.ofNat 24 a + BitVec.ofNat 24 n).toNat

/-- How far `b` lies after `a`. -/
def psnDist (a b : Nat) : Nat := (BitVec.ofNat 24 b - BitVec.ofNat 24 a).toNat

/-- A queue pair mapped. -/
def modQp (s : State) (n : Nat) (f : Qp → Qp) : State :=
  { s with net := { s.net with qps := s.net.qps.map fun p => if p.num = n then f p else p } }

/-- Packets a message of `len` bytes takes. -/
def packets (mtu len : Nat) : Nat := max 1 (ceilDiv len mtu)

/-- A message put on the wire, packet by packet; the immediate goes with the last one (R473). -/
def emitMsg (s : State) (p : Qp) (m : QpMsg) : State :=
  let n := packets (qpMtu p.params) m.payload.length
  (List.range n).foldl (fun t i =>
    let part := slice m.payload (i * qpMtu p.params) (qpMtu p.params)
    let psn := psnAdd m.psn i
    sendFrame t (qpPort p.params) (match m.imm with
      | some v => .rdmaWrite p.num psn (if i + 1 = n then some v else none) part
      | none => .rdmaSend p.num psn part)) s

/-- A message posted on a queue pair (R422). -/
def postMsg (s : State) (p : Qp) (imm : Option W32) (link : Option (Nat × Nat)) (payload : Bytes) : State :=
  let m : QpMsg := { psn := p.sqPsn, imm := imm, link := link, payload := payload }
  emitMsg (modQp s p.num fun x => { x with
    sqPsn := psnAdd x.sqPsn (packets (qpMtu x.params) payload.length)
    outstanding := x.outstanding ++ [m] }) p m

/-- An RDMA Read of `len` bytes under a remote key, as messages of at most 2 GiB: its requests, and the PSNs its responses take
(R309, R422). -/
def postRead (s : State) (p : Qp) (va rkey len : Nat) : State :=
  (List.range (ceilDiv len (2 ^ 31))).foldl (fun t i =>
    match qpOf t p.num with
    | none => t
    | some q =>
      let n := min (2 ^ 31) (len - 2 ^ 31 * i)
      sendFrame (modQp t p.num fun x => { x with
        sqPsn := psnAdd x.sqPsn (packets (qpMtu x.params) n)
        ackPsn := if x.outstanding.isEmpty then psnAdd x.sqPsn (packets (qpMtu x.params) n) else x.ackPsn })
        (qpPort p.params) (.readRequest p.num q.sqPsn (va + 2 ^ 31 * i) rkey n)) s

/-- The outstanding messages sent again from the first unacknowledged one (R422, R446). -/
def resendAll (s : State) (n : Nat) : State :=
  match qpOf s n with
  | some p => p.outstanding.foldl (fun t m => emitMsg t p m) s
  | none => s

/-- A queue pair fails (R336, R422): its outstanding work ends in error, the links on it stop, and an entry is
written. -/
def failQp (s : State) (n : Nat) : State :=
  match qpOf s n with
  | none => s
  | some p =>
    if p.error then s
    else
      let s1 := modQp s n fun x => { x with
        error := true
        outstanding := []
        rnrWait := false }
      logAdd { s1 with net := { s1.net with links := s1.net.links.map fun l => if l.qp = n then { l with stopped := true } else l } }
        { logEntry 1 0x0A 0x0401 0 with inst := qpPort p.params, detail := n
                                        ctx := if rdLe p.params 0x4A 2 ≤ 15 then rdLe p.params 0x4A 2 else 0xFF }

/-- Every packet up to a PSN is acknowledged (R422). -/
def ackUpTo (s : State) (p : Qp) (psn : Nat) : State :=
  if psnDist p.ackPsn p.sqPsn ≤ psnDist p.ackPsn psn then s
  else modQp s p.num fun x => { x with
    ackPsn := psnAdd psn 1
    retries := 0
    rnrRetries := 0
    outstanding := x.outstanding.filter fun m =>
      decide (psnDist x.ackPsn psn < psnDist x.ackPsn (psnAdd m.psn (packets (qpMtu x.params) m.payload.length - 1))) }

/-- A retransmission of a queue pair, while its retry count lasts (R422). -/
def retryQp (s : State) (n : Nat) : State :=
  match qpOf s n with
  | none => s
  | some p =>
    if p.error ∨ p.outstanding = [] then s
    else if qpRetry p.params ≤ p.retries then failQp s n
    else resendAll (modQp s n fun x => { x with retries := x.retries + 1 }) n

/-- A CNP for a packet marked CE, at most one every 50 µs (R423). -/
def answerCe (s : State) (p : Qp) : State :=
  if (match p.cnpAt with | some t => decide (s.timeUs < t + 50) | none => false) then s
  else sendFrame (modQp s p.num fun x => { x with cnpAt := some s.timeUs }) (qpPort p.params) (.cnp p.num)

/-- The peer may reach `len` bytes at an address of the region with the key and the right (R472). -/
def peerMay (p : Qp) (key : W32) (right addr len : Nat) : Bool :=
  qpRegionBytes p.params != 0 && key.toNat == qpKey p.params && (qpAccess p.params).testBit right &&
    decide (qpRegion p.params ≤ addr) && decide (addr + len ≤ qpRegion p.params + qpRegionBytes p.params)

/-- An acknowledgement of the packet just taken. -/
def ackPacket (s : State) (p : Qp) (psn count : Nat) : State :=
  sendFrame (modQp s p.num fun x => { x with rqPsn := psnAdd psn count, nakSent := false }) (qpPort p.params)
    (.ack p.num psn)

/-- A peer access that is refused: the remote access error, after which the connection has failed (R422, R472). -/
def refusePeer (s : State) (p : Qp) (f : OutFrame) : State := failQp (sendFrame s (qpPort p.params) f) p.num

/-- The link that uses a queue pair. -/
def linkOfQp (s : State) (n : Nat) : Option Link := s.net.links.find? fun l => l.qp == n

/-- A link mapped. -/
def modLink (s : State) (n : Nat) (f : Link → Link) : State :=
  { s with net := { s.net with links := s.net.links.map fun l => if l.num = n then f l else l } }

/-- The core and page of a page of a link's range. -/
def linkPlace (s : State) (l : Link) (idx : Nat) : Option (Nat × Nat) :=
  (coreOf (ctxAt s l.ctx) l.lane).map fun k => (k, (l.first + idx) % 4096)

/-- A page arrives on a link: it is written through unscheduled accesses and committed with its last row (R335, R473). None
while the page is not EMPTY or has no bank cycles left for it; the answer says whether it was placed, or received an error
response (R154). -/
def linkArrive (s : State) (l : Link) (idx : Nat) (page : Bytes) : Option (State × Bool) :=
  match linkPlace s l idx with
  | none => none
  | some (k, g) =>
    match outsideAccess s k l.ctx (g * 4096) 4096 true page with
    | none => none
    | some (s1, none) => some (s1, false)
    | some (s1, some _) =>
      let s2 := modCore s1 k fun c => { c with sp := setTag c.sp g (commitTag (tagOf c.sp g)) }
      some (modLink s2 l.num fun x => { x with sent := x.sent ++ [idx] }, true)

/-- A packet of an RDMA Write (R335, R472, R473). -/
def takeWrite (s : State) (p : Qp) (r : RocePacket) (imm : Option W32) : State :=
  match linkOfQp s p.num with
  | some l =>
    if l.stopped then s
    else
      let whole := p.got ++ r.payload
      match imm with
      | none => ackPacket (modQp s p.num fun x => { x with got := whole }) p r.psn 1
      | some v =>
        let idx := v.toNat % 64
        if whole.length ≠ 4096 ∨ v.toNat / 2 ^ 24 ≠ l.num ∨ l.pages ≤ idx ∨ l.role = 0 then
          refusePeer s p (.accessNak p.num r.psn)
        else match linkArrive s l idx whole with
          | some (s1, true) => ackPacket (modQp s1 p.num fun x => { x with got := [] }) p r.psn 1
          | some (s1, false) => refusePeer s1 p (.operationNak p.num r.psn)
          | none => sendFrame s (qpPort p.params) (.rnrNak p.num r.psn)
  | none =>
    if peerMay p r.rkey 1 r.addr r.payload.length then
      (if hbmDown s r.addr r.payload.length then refusePeer s p (.operationNak p.num r.psn)
       else ackPacket (hbmWrite s r.addr r.payload) p r.psn 1)
    else refusePeer s p (.accessNak p.num r.psn)

/-- A packet of an RDMA Read request (R422, R472). -/
def takeRead (s : State) (p : Qp) (r : RocePacket) : State :=
  if !peerMay p r.rkey 0 r.addr r.len then refusePeer s p (.accessNak p.num r.psn)
  else if hbmBad s r.addr r.len then refusePeer s p (.operationNak p.num r.psn)
  else
    let n := packets (qpMtu p.params) r.len
    let data := hbmRead s r.addr r.len
    let s1 := modQp s p.num fun x => { x with rqPsn := psnAdd r.psn n, nakSent := false }
    (List.range n).foldl (fun t i => sendFrame t (qpPort p.params)
      (.readResponse p.num (psnAdd r.psn i) (slice data (i * qpMtu p.params) (qpMtu p.params)))) s1

/-- A Send (R335, R473): on a link's queue pair, the credit of a page; else a message for firmware. -/
def takeSend (s : State) (p : Qp) (r : RocePacket) : State :=
  match linkOfQp s p.num with
  | some l =>
    let idx := rdLe r.payload 5 1
    if l.stopped then s
    else if r.payload.length ≠ 16 ∨ rdLe r.payload 0 4 ≠ 0x4B4E494C ∨ rdLe r.payload 4 1 ≠ l.remote ∨ l.pages ≤ idx ∨
        l.role ≠ 0 then refusePeer s p (.accessNak p.num r.psn)
    else ackPacket (modLink s l.num fun x => { x with credits := if x.credits.contains idx then x.credits else x.credits ++ [idx] })
      p r.psn 1
  | none => ackPacket s p r.psn 1

/-- A request packet in PSN order (R422): one out of order is reported once, a duplicate acknowledged again. -/
def takeRequest (s : State) (p : Qp) (r : RocePacket) (f : State → Qp → RocePacket → State) : State :=
  let d := psnDist p.rqPsn r.psn
  if d = 0 then f s p r
  else if d / 8388608 = 0 then
    (if p.nakSent then s
     else sendFrame (modQp s p.num fun x => { x with nakSent := true }) (qpPort p.params) (.seqNak p.num p.rqPsn))
  else sendFrame s (qpPort p.params) (.ack p.num (psnAdd p.rqPsn 16777215))

/-- ROCE_PACKET (R417, R419, R422, R423). -/
def rocePacket (s : State) (r : RocePacket) : State :=
  if !receives s r.port || bufferFull s r.port r.prio r.occ then s
  else
    let s0 := setOccupancy s r.port r.prio r.occ
    if !r.icrcOk then { s0 with net := { s0.net with icrcBad := s0.net.icrcBad + 1 } }
    else match qpOf s0 r.qp with
      | none => s0
      | some p =>
        if p.error then s0
        else
          let s1 := if r.ce then answerCe s0 p else s0
          match r.kind with
          | .write imm => takeRequest s1 p r fun t q x => takeWrite t q x imm
          | .read => takeRequest s1 p r takeRead
          | .send => takeRequest s1 p r takeSend
          | .ack => ackUpTo s1 p r.psn
          | .readResponse => ackUpTo s1 p r.psn
          | .rnrNak => modQp s1 p.num fun x => { x with rnrWait := true }
          | .nak fatal =>
            if fatal then failQp s1 p.num
            else retryQp (ackUpTo s1 p (psnAdd r.psn 16777215)) p.num

/-- ROCE_PACKET (R422). -/
def execRocePacket (p : RocePacket) (s : State) : Res := .next (rocePacket s p)

/-- The step of the rate reaction, in percent (R423, R449). -/
def ecnStep (s : State) : Nat := max 1 s.net.ecnStep.toNat

/-- CNP_RECEIVE (R423): in 1/80000 of the port rate, a percent is 800. -/
def execCnpReceive (qp : Nat) (s : State) : Res :=
  .next (modQp s qp fun p => { p with rate := max 800 (p.rate - 800 * ecnStep s) })

/-- RATE_INCREASE (R423). -/
def execRateIncrease (qp : Nat) (s : State) : Res :=
  .next (modQp s qp fun p => { p with rate := min 80000 (p.rate + 100 * ecnStep s) })

/-- ACK_TIMEOUT (R422). -/
def execAckTimeout (qp : Nat) (s : State) : Res := .next (retryQp s qp)

/-- RNR_TIMER_EXPIRY (R422): the request is tried again, 7 retries meaning no limit. -/
def execRnrTimerExpiry (qp : Nat) (s : State) : Res :=
  .next (match qpOf s qp with
    | none => s
    | some p =>
      if !p.rnrWait then s
      else if qpRnr p.params ≠ 7 ∧ qpRnr p.params ≤ p.rnrRetries then failQp s qp
      else resendAll (modQp s qp fun x => { x with
        rnrWait := false
        rnrRetries := x.rnrRetries + 1 }) qp)

/-! ### Pipeline links -/

/-- The link with a number. -/
def linkOf (s : State) (n : Nat) : Option Link := s.net.links.find? fun l => l.num == n

/-- LINK_PAGE_SEND (R335, R336, R473): the next page in range order, FULL and with its credit, is read without a marker and
written. -/
def execLinkPageSend (link : Nat) (s : State) : Res :=
  .next (match linkOf s link with
    | none => s
    | some l =>
      match linkPlace s l l.next, qpOf s l.qp with
      | some (k, g), some p =>
        if l.role ≠ 0 ∨ l.stopped ∨ p.error ∨ p.rnrWait ∨ !l.credits.contains l.next then s
        else match outsideAccess s k l.ctx (g * 4096) 4096 false [] with
          | none => s
          | some (s1, none) => s1
          | some (s1, some page) =>
            let imm := BitVec.ofNat 32 (l.remote * 2 ^ 24 + l.next)
            let s2 := modLink s1 link fun x => { x with
              credits := x.credits.filter (· != l.next)
              sent := x.sent ++ [l.next]
              next := (l.next + 1) % max 1 l.pages }
            postMsg s2 p (some imm) (some (link, l.next)) page
      | _, _ => s)

/-- A data-less release of a page for a context (R159): none while the page is neither FULL nor POISON, which answers with an
error. -/
def releasePage (s : State) (i k g : Nat) : Option State :=
  match tagState (tagOf (coreAt s k).sp g) with
  | 1 => some (modCore s k fun c => { c with sp := setTag c.sp g (releaseTag (tagOf c.sp g)) })
  | 3 => some (logPoison s i k g 0xFF)
  | _ => none

/-- LINK_WRITE_ACK (R159, R335): the oldest page whose Write has been acknowledged is released. -/
def execLinkWriteAck (link : Nat) (s : State) : Res :=
  .next (match linkOf s link with
    | none => s
    | some l =>
      match l.sent, qpOf s l.qp with
      | idx :: rest, some p =>
        if l.role ≠ 0 ∨ l.stopped ∨ p.outstanding.any (fun m => m.link == some (link, idx)) then s
        else
          let s1 := modLink s link fun x => { x with sent := rest }
          (match linkPlace s l idx with
           | some (k, g) => (releasePage s1 l.ctx k g).getD s
           | none => s1)
      | _, _ => s)

/-- The 16-byte Send that returns a credit (R473). -/
def creditBytes (link idx : Nat) : Bytes := toLe 4 0x4B4E494C ++ toLe 1 link ++ toLe 1 idx ++ List.replicate 10 0

/-- LINK_CREDIT_RETURN (R335): the receiving lane has released the page, and its credit goes back. -/
def execLinkCreditReturn (link idx : Nat) (s : State) : Res :=
  .next (match linkOf s link with
    | none => s
    | some l =>
      match linkPlace s l idx, qpOf s l.qp with
      | some (k, g), some p =>
        if l.role = 0 ∨ l.stopped ∨ p.error ∨ !l.sent.contains idx ∨ tagState (tagOf (coreAt s k).sp g) ≠ 0 then s
        else postMsg (modLink s link fun x => { x with sent := x.sent.filter (· != idx) }) p none none (creditBytes link idx)
      | _, _ => s)

/-! ### Priority flow control -/

/-- A priority of a port resumes, and the frames kept for it leave (R418). -/
def resumePrio (s : State) (port prio : Nat) : State :=
  let p := portAt s port
  let p1 := { p with
    paused := p.paused &&& ~~~ BitVec.ofNat 8 (2 ^ prio)
    pause := del p.pause prio
    held := p.held.filter fun f => f.1 != prio }
  { s with net := { s.net with
    ports := s.net.ports.set port p1
    out := s.net.out ++ (p.held.filter fun f => f.1 == prio).map (·.2) } }

/-- PFC_FRAME (R417, R418). -/
def execPfcFrame (port : Nat) (quanta : List (Nat × Nat)) (s : State) : Res :=
  .next (
    if !receives s port then s
    else quanta.foldl (fun t q =>
      if !t.net.lossless.toNat.testBit q.1 || decide (7 < q.1) then t
      else if q.2 = 0 then resumePrio t port q.1
      else { t with net := { t.net with ports := modAt t.net.ports port fun p => { p with
        paused := p.paused ||| BitVec.ofNat 8 (2 ^ q.1)
        pause := put p.pause q.1 q.2 } } }) s)

/-- PFC_PAUSE_END (R418). -/
def execPfcPauseEnd (port prio : Nat) (s : State) : Res :=
  .next (if (portAt s port).paused.toNat.testBit prio then resumePrio s port prio else s)

/-- XOFF_REFRESH (R419). -/
def execXoffRefresh (port prio occ : Nat) (s : State) : Res :=
  .next (
    if !receives s port || decide (7 < prio) then s
    else
      let had := (portAt s port).xoffSent.toNat.testBit prio
      let s1 := setOccupancy s port prio occ
      if had && s.net.lossless.toNat.testBit prio && decide (65536 < occ) then sendFrame s1 port (.pfc port prio 0xFFFF) else s1)

/-! ### Other frames -/

/-- RECEIVED_FRAME (R415, R417, R420): a PTP event message carries the clock's value. -/
def execReceivedFrame (port prio occ : Nat) (kind : FrameKind) (s : State) : Res :=
  .next (
    if !receives s port || bufferFull s port prio occ then s
    else
      let pass := fun (stamp : Option Nat) =>
        let s1 := setOccupancy s port prio occ
        { s1 with net := { s1.net with out := s1.net.out ++ [.toFirmware port stamp] } }
      match kind with
      | .arpNdIcmp => pass none
      | .ptpEvent => pass (some s.net.ptp)
      | .ipOptions => pass none
      | .ipFragment => s
      | .badFcs => s)

end Sys2Proof.Machine
end

