-- ==== Sys2Proof/Machine/Ports.lean ====
section
/-!
DEFINITION. Ports and modules (R414, R442 to R446, R450, R452): links up and down, port resets, module bring-up and
removal, bias samples and life records.
-/

namespace Sys2Proof.Machine

/-! ### Ports -/

/-- Lanes of a port in the mode (R414). -/
def portLanes (mode : BitVec 2) : Nat := match mode.toNat with | 0 => 1 | 1 => 2 | _ => 4

/-- NW_PORT_MODE.reset with the bits of a wider port following its first lane (R447). -/
def resetBits (mode : BitVec 2) (r : Byte) : Byte :=
  BitVec.ofNat 8 ((List.range 8).map fun p => if r.toNat.testBit (p / portLanes mode * portLanes mode) then 2 ^ p else 0).sum

/-- A port's link goes down; the frames queued in it are dropped (R446, R450). -/
def portDown (s : State) (p : Nat) : State :=
  { s with net := { s.net with ports := modAt s.net.ports p fun x => { x with linkUp := false, held := [] } } }

/-- NW_PORT_MODE.reset written (R446): a port entering reset loses its link, its queued frames and the registers of
its domain. -/
def writePortReset (s : State) (v : Byte) : State :=
  let r := resetBits s.net.mode v
  { s with net := { s.net with
    portReset := r
    ports := s.net.ports.zipIdx.map fun p => if r.toNat.testBit p.2 then Port.reset else p.1 } }

/-- PORT_RESET (R446). -/
def execPortReset (reset : Byte) (s : State) : Res := .next (writePortReset s reset)

/-- The cage whose module carries a lane, in use (R442). -/
def cageOf (s : State) (lane : Nat) : Nat := if s.net.cageWidth then lane / 4 else lane / 2

/-- A port's link may come up: it is a port of the mode, out of reset, and no module on its lanes is kept in low-power
mode (R414, R443, R446). -/
def mayLink (s : State) (p : Nat) : Bool :=
  portInMode s.net.mode p && !s.net.portReset.toNat.testBit p &&
    ((List.range (portLanes s.net.mode)).all fun i =>
      let c := s.net.cages.getD (cageOf s (p + i)) Cage.reset
      !c.present || c.active)

/-- LINK_UP (R446): the priorities start unpaused, the queue pairs of the port resume from their last acknowledged
PSN, and the streams of the port get one credit frame each. -/
def execLinkUp (port : Nat) (s : State) : Res :=
  .next (
    if (portAt s port).linkUp || !mayLink s port || !flashUp s then s
    else
      let s1 := { s with net := { s.net with ports := s.net.ports.set port { Port.reset with linkUp := true } } }
      let s2 := (s.net.qps.filter fun p => qpPort p.params == port && !p.error).foldl (fun t p => resendAll t p.num) s1
      (s.net.streams.filter fun st => st.port == port && streamValid st).foldl (fun t st => sendCredit t st.sid) s2)

/-- LINK_DOWN (R450). -/
def execLinkDown (port : Nat) (s : State) : Res := .next (portDown s port)

/-! ### Modules -/

/-- A cage mapped. -/
def modCage (s : State) (c : Nat) (f : Cage → Cage) : State := { s with net := { s.net with cages := modAt s.net.cages c f } }

/-- The cage at a number. -/
def cageAt (s : State) (c : Nat) : Cage := s.net.cages.getD c Cage.reset

/-- A cage is one of those in use (R442). -/
def cageUsed (s : State) (c : Nat) : Bool := if s.net.cageWidth then decide (c < 2) else decide (c < 4)

/-- An ASCII field padded with spaces. -/
def padAscii (n : Nat) (bs : Bytes) : Bytes := bs.take n ++ List.replicate (n - bs.length) 0x20

/-- A module's life record, of a serial number (R444). -/
def lifeOf (s : State) (serial : Bytes) : Option Bytes := s.flash.lives.find? fun r => slice r 0 16 == serial

/-- A life record written: it is now the one most recently seen, and the least recently seen of 256 makes room for a
new one (R444). -/
def putLife (s : State) (r : Bytes) : State :=
  let rest := s.flash.lives.filter fun x => slice x 0 16 != slice r 0 16
  { s with flash := { s.flash with lives := (if rest.length < 256 then rest else rest.drop 1) ++ [r] } }

/-- PTP seconds. -/
def ptpSeconds (s : State) : Nat := s.net.ptp / 1000000000

/-- The record of a module that comes up (R443, R444). -/
def openLife (s : State) (serial vendor part : Bytes) (threshold : Nat) (bias : List Nat) : Bytes :=
  match lifeOf s serial with
  | some r => splice (splice (splice r 0x34 (toLe 4 (rdLe r 0x34 4 + 1))) 0x38 (toLe 2 threshold)) 0x5C (toLe 4 (ptpSeconds s))
  | none =>
    serial ++ padAscii 16 vendor ++ padAscii 16 part ++ toLe 4 0 ++ toLe 4 1 ++ toLe 2 threshold ++ [0, 0] ++
      (List.range 8).flatMap (fun i => toLe 2 (bias.getD i 0)) ++ List.replicate 16 0 ++ toLe 4 (ptpSeconds s) ++
      List.replicate 32 0

/-- The life record of a cage's module written (R444): its hours, the time it was last seen, and at the end of a full
day the highest bias of each lane. -/
def writeLife (s : State) (c : Nat) (day : Bool) : State :=
  let g := cageAt s c
  match (if g.active then lifeOf s g.serial else none) with
  | none => s
  | some r =>
    let r1 := splice (splice r 0x30 (toLe 4 (rdLe r 0x30 4 + g.seconds / 3600))) 0x5C (toLe 4 (ptpSeconds s))
    let r2 := if day then splice r1 0x4C ((List.range 8).flatMap fun i => toLe 2 (g.dayBias.getD i 0)) else r1
    modCage (putLife s r2) c fun x => { x with
      seconds := x.seconds % 3600
      dayBias := if day then [] else x.dayBias }

/-- MODULE_INSERT (R443): MOD_RST_N is released and bring-up waits for ModuleReady. -/
def execModuleInsert (cage : Nat) (s : State) : Res :=
  .next (
    if (cageAt s cage).present || !cageUsed s cage then s
    else modCage s cage fun _ => { Cage.reset with present := true, bringUp := true, rstReleased := true, lpMode := true })

/-- A module fails a step of bring-up (R443, R592). -/
def moduleFail (s : State) (cage step : Nat) : State :=
  logAdd (modCage s cage fun g => { g with bringUp := false, failStep := BitVec.ofNat 3 step })
    { logEntry 1 0x0F 0x0403 2 with inst := cage, detail := step }

/-- MODULE_READY_TIMEOUT (R443): step 2 fails. -/
def execModuleReadyTimeout (cage : Nat) (s : State) : Res :=
  .next (if (cageAt s cage).bringUp then moduleFail s cage 2 else s)

/-- MODULE_READY (R443, R444). -/
def execModuleReady (cage : Nat) (serial vendor part : Bytes) (threshold : Nat) (rateOk : Bool) (failStep : Nat)
    (bias : List Nat) (s : State) : Res :=
  .next (
    let id := padAscii 16 serial
    if !(cageAt s cage).bringUp then s
    else if 1 ≤ failStep ∧ failStep ≤ 4 then moduleFail s cage failStep
    else
      let s1 := putLife s (openLife s id vendor part threshold bias)
      if !rateOk ∨ failStep ≠ 0 then moduleFail (modCage s1 cage fun g => { g with serial := id }) cage 5
      else modCage s1 cage fun g => { g with
        bringUp := false
        active := true
        lpMode := false
        threshold := threshold
        serial := id })

/-- The ports that use a lane of a cage. -/
def cagePorts (s : State) (cage : Nat) : List Nat :=
  (List.range 8).filter fun p => portInMode s.net.mode p &&
    (List.range (portLanes s.net.mode)).any fun i => cageOf s (p + i) == cage

/-- MODULE_REMOVE (R443): the cage's ports go down, and the life record is written. -/
def execModuleRemove (cage : Nat) (s : State) : Res :=
  .next (
    if !(cageAt s cage).present then s
    else modCage (writeLife ((cagePorts s cage).foldl portDown s) cage false) cage fun _ => Cage.reset)

/-- TX_BIAS_SAMPLE (R444, R445, R452): one second of operation; the wear alert is raised once per insertion, above
90 % of the threshold, and clears after an hour below 85 %. -/
def execTxBiasSample (cage : Nat) (bias : List Nat) (s : State) : Res :=
  .next (
    let g := cageAt s cage
    if !g.active then s
    else
      let top := bias.foldl max 0
      let low := bias.all fun b => decide (b * 100 < 85 * g.threshold)
      let worn := decide (0 < g.threshold) && decide (90 * g.threshold < top * 100)
      let secs := if low then g.lowSeconds + 1 else 0
      let s1 := modCage s cage fun x => { x with
        seconds := x.seconds + 1
        dayBias := (List.range 8).map fun i => max (x.dayBias.getD i 0) (bias.getD i 0)
        maxBias := if x.threshold = 0 then 0 else BitVec.ofNat 16 (min 0xFFFF (top * 25600 / x.threshold))
        lowSeconds := secs
        wear := if worn && !x.wearRaised then true else x.wear && decide (secs < 3600)
        wearRaised := x.wearRaised || worn }
      if worn && !g.wearRaised then raiseAlert (logAdd s1 { logEntry 0 0x0F 0x0404 2 with inst := cage }) 0x02 else s1)

/-- LIFE_RECORD_WRITE (R444): every 24 hours of operation. -/
def execLifeRecordWrite (cage : Nat) (s : State) : Res := .next (writeLife s cage true)

end Sys2Proof.Machine
end

