-- ==== Sys2Proof/Machine/Weights.lean ====
section
/-!
DEFINITION. Weight sets (R307 to R334): checking a descriptor, staging, fetching from the four kinds of source,
switching, eviction, re-fetch, and the relay across chips.
-/

namespace Sys2Proof.Machine

/-! ### The descriptor -/

/-- The code of a slot state (R310). -/
def slotCode : SlotState → Nat
  | .free => 0
  | .loading => 1
  | .ready => 2
  | .resident => 3
  | .evicted => 4
  | .refetching => 5
  | .retiring => 6
  | .unusable => 7

/-- A weight-set header R308 does not allow. -/
def badHeader (d : Bytes) : Bool :=
  rdLe d 0 4 != 0x54455357 || rdLe d 4 2 != 1 || wsTensors d == 0 || decide (1024 < wsTensors d) ||
    decide (1 < rdLe d 0x10 4) || rdLe d 0x15 1 != 0 || rdLe d 0x1A 2 != 0 || (slice d 0x20 32).any (· != 0)

/-- A tensor is forwarded downstream (R309, R332). -/
def teForward (d : Bytes) (i : Nat) : Bool :=
  decide (i < wsTensors d) && wsDown d != 0xFFFF && decide (wsStage d < teStage (wsEntry d i))

/-- A tensor staged in place (R311). -/
def inPlace (e : Bytes) : Bool := teKind e == 0 && teTransform e == 0

/-- The sizes of an entry are not those its shape and dimensions imply (R316, R320). -/
def badSize (e : Bytes) : Bool :=
  let t := teTransform e
  if tfShape t = 0 then !tfPwf t && teSrcBytes e != teOutBytes e
  else teOutBytes e != shapeOut t (teK e) (teN e) || (!tfPwf t && teSrcBytes e != shapeSource t (teK e) (teN e))

/-- The detail of E_WEIGHT_FORMAT that a tensor entry gives, if any (R308, R309, R318, R320). -/
def badEntry (d e : Bytes) : Option Nat :=
  let t := teTransform e
  if (metBad t (teK e) (teN e) []).isSome then metBad t (teK e) (teN e) []
  else if badSize e || decide (3 < teKind e) || decide (63 < teBook e) || (slice e 0x2A 22).any (· != 0) ||
      (teKind e == 0 && !inUserHbm (teSrc e) (teSrcBytes e)) ||
      (teKind e == 1 && decide (1073741824 < teSrc e + teSrcBytes e)) ||
      (teKind e == 2 && decide (1024 ≤ teQp e)) ||
      (teKind e == 3 && (teSrc e != 0 || wsUp d == 0xFFFF)) then some 6
  else none

/-- The detail a whole descriptor gives, if any; entries the chip ignores are not checked (R309). -/
def badSet (d : Bytes) : Option Nat :=
  if badHeader d then some 6
  else (List.range (wsTensors d)).findSome? fun i =>
    if teKept d i || teForward d i then badEntry d (wsEntry d i) else none

/-- The staged copies of a set laid out from an address: own copies one after another, the rest in place (R311). -/
def layOut (d : Bytes) (base : Nat) : List (Nat × Nat × Nat × Bool) :=
  ((List.range (wsTensors d)).foldl (fun acc i =>
    let e := wsEntry d i
    if !teKept d i then acc
    else if inPlace e then (acc.1 ++ [(i, teSrc e, teOutBytes e, false)], acc.2)
    else (acc.1 ++ [(i, acc.2, teOutBytes e, true)], acc.2 + up4k (teOutBytes e))) (([] : List (Nat × Nat × Nat × Bool)), base)).1

/-- HBM bytes a set's own copies take. -/
def stageBytes (d : Bytes) : Nat :=
  ((List.range (wsTensors d)).map fun i => if teKept d i && !inPlace (wsEntry d i) then up4k (teOutBytes (wsEntry d i)) else 0).sum

/-! ### Relays (R332, R333) -/

/-- The tensor whose relayed bytes come next, if any is left. -/
def relayTensor (sl : Slot) : Option Nat :=
  (List.range (wsTensors sl.desc)).find? fun i =>
    decide (sl.relayNext.1 ≤ i) && teKind (wsEntry sl.desc i) == 3 && decide (0 < teSrcBytes (wsEntry sl.desc i))

/-- Bytes of a tensor sent downstream as messages of at most 65,536 bytes; a queue pair that cannot send ends the
forwarding with an entry that names it. -/
def forward (s : State) (c i t off : Nat) (bs : Bytes) : State :=
  let sl := slotOfCtx (ctxAt s c) i
  if sl.fwdFailed then s
  else match (qpOf s (wsDown sl.desc)).filter fun p => !p.error with
    | none =>
      logAdd (modSlot s c i fun z => { z with fwdFailed := true })
        { logEntry 1 0x0A 0x0402 0 with ctx := c, detail := wsDown sl.desc }
    | some _ =>
      (List.range (ceilDiv bs.length 65536)).foldl (fun u j =>
        match qpOf u (wsDown sl.desc) with
        | some p => postMsg u p none none (toLe 4 (wsSetId sl.desc) ++ toLe 2 t ++ toLe 2 0 ++ toLe 8 (off + 65536 * j) ++
            slice bs (65536 * j) 65536)
        | none => u) s

/-! ### Fetching -/

/-- How a fetch ends: done, still waiting for relayed bytes, or failed with a status and value. -/
inductive FetchEnd where
  | ok
  | wait
  | fail (status value : Nat)
deriving DecidableEq, Repr

/-- Bytes of flash through the read path, for firmware; unreliable with too few wait states (R378). -/
def flashData (s : State) (off n : Nat) : Bytes :=
  if s.flash.waitStates.toNat < minWait s.flash then (List.range n).map fun i => Config.freeByte s.freeCtr (off + i)
  else flashBytes s.flash off n

/-- A flash range has a sector ERASE_INCOMPLETE, or an uncorrectable word (R313, R373, R399). -/
def flashLost (f : Flash) (off n : Nat) : Bool :=
  f.incomplete.any (fun sec => overlap (sec * 65536, 65536) (off, n)) || wornBad f off n

/-- The server of a tensor of kind 2 is read (R309): the requests go out on its queue pair, under its remote key. -/
def readServer (s : State) (e : Bytes) : State :=
  match qpOf s (teQp e) with
  | some p => postRead s p (teSrc e) (teRkey e) (teSrcBytes e)
  | none => s

/-- The word that the source of tensor `t` in flash turns out to have beyond correction, if the answer names one (R373). -/
def noteBadWord (s : State) (e : Bytes) (t : Nat) (src : SourceResult) : State :=
  match src with
  | .badWord u w => if u = t ∧ w < ceilDiv (teSrcBytes e) 32 then noteWorn s (32 * (teSrc e / 32 + w)) (.uncorrectable 0 []) else s
  | _ => s

/-- The source bytes of a tensor (R309, R313): none with its failure. `rdma` holds the bytes that the storage servers
returned, for the kind-2 tensors in entry order. -/
def sourceOf (s : State) (sl : Slot) (t : Nat) (src : SourceResult) (rdma : List Bytes) : State × Except FetchEnd Bytes :=
  let e := wsEntry sl.desc t
  let n := teSrcBytes e
  match teKind e with
  | 0 => (s, if hbmBad s (teSrc e) n then .error (.fail 0x24 t) else .ok (hbmRead s (teSrc e) n))
  | 1 =>
    (match flashFetch (noteBadWord s e t src) (teSrc e) n with
     | (s1, none) => (s1, .error .wait)
     | (s1, some none) => (s1, .error (.fail 0x24 t))
     | (s1, some (some bs)) => (s1, .ok bs))
  | 2 =>
    let j := ((List.range t).filter fun i => teKind (wsEntry sl.desc i) == 2 && (teKept sl.desc i || teForward sl.desc i)).length
    let down : Bool := match qpOf s (teQp e) with
      | some p => p.error
      | none => true
    if down then (s, .error (.fail 0x24 t))
    else if src == .unreachable t then (readServer s e, .error (.fail 0x24 t))
    else (match rdma[j]? with
      | some bs => (readServer s e, if bs.length = n then .ok bs else .error .wait)
      | none => (s, .error .wait))
  | _ => let bs := look sl.relayed t []
    (s, if bs.length = n then .ok bs else .error .wait)

/-- A tensor transformed into its staged copy, padded to whole 32-byte units (R311, R315); one staged in place is left
alone, and when fetched again must be readable. -/
def stageTensor (s : State) (sl : Slot) (t : Nat) (again : Bool) (src : SourceResult) (rdma : List Bytes) : State × FetchEnd :=
  let e := wsEntry sl.desc t
  if inPlace e && !again then (s, .ok)
  else match sourceOf s sl t src rdma with
    | (s1, .error f) => (s1, f)
    | (s1, .ok bs) =>
      if inPlace e then (s1, .ok)
      else match transform (teTransform e) (teK e) (teN e) (teBook e) (teOutBytes e) bs with
        | .error d => (s1, .fail 0x23 d)
        | .ok out =>
          let a := ((stagedTensor sl t).map (·.1)).getD 0
          (hbmWrite s1 a (out ++ List.replicate (ceilDiv out.length 32 * 32 - out.length) 0), .ok)

/-- The tensors of a set fetched in entry order: kept ones into the staged copy, later stages' ones downstream
(R312, R332). The last part of the answer is the tensor a failure is about. -/
def fetchSet (c i : Nat) (again : Bool) (src : SourceResult) (rdma : List Bytes) : List Nat → State → State × FetchEnd × Nat
  | [], s => (s, .ok, 0)
  | t :: ts, s =>
    let sl := slotOfCtx (ctxAt s c) i
    if teKept sl.desc t then
      (match stageTensor s sl t again src rdma with
       | (s1, .ok) => fetchSet c i again src rdma ts s1
       | (s1, f) => (s1, f, t))
    else if teForward sl.desc t && teKind (wsEntry sl.desc t) != 3 then
      (match sourceOf s sl t src rdma with
       | (s1, .error f) => (s1, f, t)
       | (s1, .ok bs) => fetchSet c i again src rdma ts (forward s1 c i t 0 bs))
    else fetchSet c i again src rdma ts s

/-- A load or re-fetch fails (R313, R329): a LOADING slot is FREE again and its entry completes; a REFETCHING set is
UNUSABLE. -/
def failLoad (s : State) (c i status value tensor : Nat) : State :=
  let sl := slotOfCtx (ctxAt s c) i
  if sl.state = .loading then
    let s1 := modSlot s c i fun z => { Slot.reset with refs := z.refs }
    match runningEntry s 0x02 c fun b => rdLe b 8 1 == i with
    | some p => finishEntry s1 p.1 p.2 status value
    | none => s1
  else if sl.state = .refetching then
    refuseWaiting (modSlot s c i fun z => { z with
      state := .unusable
      lost := tensor
      refs := z.refs - reloadRef z
      reload := []
      relayNext := (0, 0)
      relayed := [] }) c i
  else s

/-- The entry about bad data of a weight set (R313, R320). -/
def formatLog (s : State) (c i detail : Nat) : State :=
  let e := { logEntry 1 0x0C 0x010C 1 with ctx := c, detail := detail }
  match (runningEntry s 0x02 c fun b => rdLe b 8 1 == i), (slotOfCtx (ctxAt s c) i).state with
  | some p, .loading =>
    let tag := (((ringAt s p.1).entries.find? fun x => x.index == p.2).map fun x => enTag x.bytes).getD 0
    logAdd s { e with ring := p.1, tag := tag, inst := p.1 }
  | _, _ => logAdd s e

/-- The tensors a fetch is about: all of the set, or those a reload needs (R330). -/
def fetchList (sl : Slot) : List Nat := if sl.reload.isEmpty then List.range (wsTensors sl.desc) else sl.reload

/-- A fetch under way comes to its end: the slot's next state, or its failure. -/
def fetchEnd (s : State) (c i : Nat) (again : Bool) (src : SourceResult) (rdma : List Bytes) (done : State → State) : State :=
  match fetchSet c i again src rdma (fetchList (slotOfCtx (ctxAt s c) i)) s with
  | (s1, .ok, _) => done (modSlot s1 c i fun z => { z with relayNext := (0, 0), relayed := [] })
  | (_, .wait, _) => s
  | (s1, .fail status value, t) => failLoad (if status = 0x23 then formatLog s1 c i value else s1) c i status value t

/-! ### LOAD_WEIGHTS -/

/-- A descriptor read and checked, and space found for its staged copies (R308, R309, R312, R313): the state, with the
descriptor and staging, or a status and value. -/
def openSet (s : State) (c : Nat) (a : Nat) : State × Except (Nat × Nat) (Bytes × List (Nat × Nat × Nat × Bool)) :=
  if hbmBad s a 64 then (s, .error (0x24, 0xFFFFFFFF))
  else
    let n := 64 + 64 * rdLe (hbmRead s a 64) 6 2
    if badHeader (hbmRead s a 64) || !inUserHbm a n then (s, .error (0x23, 6))
    else if hbmBad s a n then (s, .error (0x24, 0xFFFFFFFF))
    else
      let d := hbmRead s a n
      match badSet d with
      | some x => (s, .error (0x23, x))
      | none =>
        if stageBytes d = 0 then (s, .ok (d, layOut d 0))
        else match allocEvict s c (stageBytes d) with
          | (s1, some b) => (s1, .ok (d, layOut d b))
          | (s1, none) => (s1, .error (0x22, shortKiB s1 c (stageBytes d)))

/-- LOAD_WEIGHTS of a context (R312, R313). -/
def loadWeights (s : State) (q : Nat) (e : RingEntry) (c : Nat) : State :=
  let i := rdLe e.bytes 8 1
  if !(ctxAt s c).configured then finishEntry s q e.index 0x41 0
  else if (slotOfCtx (ctxAt s c) i).state ≠ .free then finishEntry s q e.index 0x20 0
  else match openSet s c (rdLe e.bytes 0x10 8) with
    | (s1, .error (st, v)) =>
      finishEntry (if st = 0x23 then logAdd s1 { ringLog 0x010C q e with detail := v } else s1) q e.index st v
    | (s1, .ok (d, staged)) =>
      modSlot (setRunning s1 q e) c i fun z => { Slot.reset with
        state := .loading
        desc := d
        staged := staged
        refs := z.refs
        loadRing := some q }

/-- LOAD_WEIGHTS (R312). -/
def execLoadWeights (q : Nat) (s : State) : Res := .next (named s q 0x02 fun s1 e c => loadWeights s1 q e c)

/-- WEIGHT_LOAD_COMPLETE (R312, R313, R320, R332). -/
def execWeightLoadComplete (c slot : Nat) (src : SourceResult) (rdma : List Bytes) (s : State) : Res :=
  .next (
    if (slotOfCtx (ctxAt s c) slot).state ≠ .loading then s
    else fetchEnd s c slot false src rdma fun s1 =>
      let s2 := modSlot s1 c slot fun z => { z with state := .ready, loadRing := none }
      match runningEntry s1 0x02 c fun b => rdLe b 8 1 == slot with
      | some p => finishEntry s2 p.1 p.2 0 0
      | none => s2)

/-! ### Re-fetch -/

/-- Space for the own copies of an EVICTED set, if it has none; the candidate set is evicted when it is short (R327). -/
def restage (s : State) (c i : Nat) : State × Bool :=
  let sl := slotOfCtx (ctxAt s c) i
  if !sl.staged.isEmpty then (s, true)
  else if stageBytes sl.desc = 0 then (modSlot s c i fun z => { z with staged := layOut z.desc 0 }, true)
  else match allocEvict s c (stageBytes sl.desc) with
    | (s1, some b) => (modSlot s1 c i fun z => { z with staged := layOut z.desc b }, true)
    | (s1, none) => (s1, false)

/-- REFETCH (R329, R330): READY, or RESIDENT where its pages are still in place; RETIRING when the pointer has moved
away meanwhile (R324). -/
def execRefetch (c slot : Nat) (src : SourceResult) (rdma : List Bytes) (s : State) : Res :=
  .next (
    if (slotOfCtx (ctxAt s c) slot).state ≠ .refetching then s
    else match restage s c slot with
      | (s1, false) => failLoad s1 c slot 0x24 0 0
      | (s1, true) => fetchEnd s1 c slot true src rdma fun s2 =>
        retireNow (modSlot s2 c slot fun z => { z with
          refs := z.refs - reloadRef z
          reload := []
          state := if (ctxAt s2 c).ptr ≠ slot then .retiring else if z.inPages then .resident else .ready }) c slot)

/-! ### Switching and eviction -/

/-- The slot the pointer leaves (R324). -/
def leaveSlot (s : State) (c i : Nat) : State :=
  let sl := slotOfCtx (ctxAt s c) i
  if sl.state = .ready ∨ sl.state = .resident ∨ sl.state = .evicted then
    retireNow (modSlot s c i fun z => { z with state := .retiring }) c i
  else s

/-- An earlier entry of the ring loads the same slot and has not completed (R322). -/
def loadBefore (s : State) (q c i : Nat) (e : RingEntry) : Bool :=
  ((ringAt s q).entries.takeWhile fun x => x.index != e.index).any fun x =>
    entryOpen x && enOp x.bytes == 0x02 && enCtx x.bytes == c && rdLe x.bytes 8 1 == i

/-- SWITCH_WEIGHTS (R322, R324). -/
def execSwitchWeights (q : Nat) (s : State) : Res :=
  .next (named s q 0x03 fun s1 e c =>
    let i := rdLe e.bytes 8 1
    let sl := slotOfCtx (ctxAt s1 c) i
    if !(ctxAt s1 c).configured then finishEntry s1 q e.index 0x41 0
    else if loadBefore s1 q c i e then s1
    else if !(sl.state == .ready || sl.state == .resident || sl.state == .evicted) then
      finishEntry s1 q e.index 0x21 (slotCode sl.state)
    else if (ctxAt s1 c).ptr = i then finishEntry s1 q e.index 0 0
    else
      let old := (ctxAt s1 c).ptr
      finishEntry (leaveSlot (modCtx s1 c fun x => { x with ptr := i }) c old) q e.index 0 0)

/-- EVICT (R324, R328): nothing of a set is freed while a reference to it remains. -/
def execEvict (q : Nat) (s : State) : Res :=
  .next (named s q 0x04 fun s1 e c =>
    let i := rdLe e.bytes 8 1
    let sl := slotOfCtx (ctxAt s1 c) i
    if !(ctxAt s1 c).configured then finishEntry s1 q e.index 0x41 0
    else match sl.state with
      | .ready => if (ctxAt s1 c).ptr = i then (if sl.refs = 0 then finishEntry (evictSlot s1 c i) q e.index 0 0 else s1)
          else if sl.refs = 0 then finishEntry (freeSlot s1 c i true) q e.index 0 0 else s1
      | .resident => if sl.refs = 0 then finishEntry (evictSlot s1 c i) q e.index 0 0 else s1
      | .unusable => finishEntry (modSlot (freeSlot s1 c i true) c i fun z => { z with refs := sl.refs }) q e.index 0 0
      | .loading => finishEntry s1 q e.index 0x20 0
      | .refetching => finishEntry s1 q e.index 0x20 0
      | .evicted => finishEntry s1 q e.index 0 0
      | .free => finishEntry s1 q e.index 0 0
      | .retiring => finishEntry s1 q e.index 0 0)

/-- USE_WINDOW_END (R326). -/
def execUseWindowEnd (c : Nat) (s : State) : Res :=
  .next (modCtx s c fun x => { x with
    slotA := { x.slotA with uses := x.slotA.uses / 2 }
    slotB := { x.slotB with uses := x.slotB.uses / 2 } })

/-! ### Relayed bytes -/

/-- The message is the one expected next: its set, tensor and offset, with bytes that fit (R333). -/
def relayFits (sl : Slot) (setId : W32) (tensor offset : Nat) (payload : Bytes) : Bool :=
  relayTensor sl == some tensor && setId.toNat == wsSetId sl.desc % 2 ^ 32 && !payload.isEmpty &&
    decide (payload.length ≤ 65536) &&
    offset == (if sl.relayNext.1 = tensor then sl.relayNext.2 else 0) &&
    decide (offset + payload.length ≤ teSrcBytes (wsEntry sl.desc tensor))

/-- RELAY_MESSAGE (R332, R333). -/
def execRelayMessage (c slot : Nat) (setId : W32) (tensor offset : Nat) (payload : Bytes) (s : State) : Res :=
  .next (
    let sl := slotOfCtx (ctxAt s c) slot
    if !(sl.state == .loading || sl.state == .refetching) || wsUp sl.desc == 0xFFFF then s
    else if !relayFits sl setId tensor offset payload then failLoad s c slot 0x26 tensor tensor
    else
      let fin := offset + payload.length
      let s1 := modSlot s c slot fun z => { z with
        relayNext := if fin = teSrcBytes (wsEntry z.desc tensor) then (tensor + 1, 0) else (tensor, fin)
        relayed := if teKept z.desc tensor then put z.relayed tensor (look z.relayed tensor [] ++ payload) else z.relayed }
      if teForward sl.desc tensor then forward s1 c slot tensor offset payload else s1)

/-- RELAY_TIMEOUT (R313, R333). -/
def execRelayTimeout (c slot : Nat) (s : State) : Res :=
  .next (
    let sl := slotOfCtx (ctxAt s c) slot
    match (if sl.state = .loading ∨ sl.state = .refetching then relayTensor sl else none) with
    | some t => failLoad s c slot 0x27 t t
    | none => s)

end Sys2Proof.Machine
end

