-- ==== Sys2Proof/Machine/Verify.lean ====
section
/-!
DEFINITION. The loader's findings and its checks of an image's structure, bundles and tables (R287, R288, subcodes 0x0101 to
0x0307), which need no register values.
-/

namespace Sys2Proof.Machine

/-! ### Findings -/

/-- What the loader reports of a rejected image (R294). -/
structure Finding where
  subcode : Nat
  lane : Nat
  otherLane : Nat
  bundle : Nat
  otherBundle : Nat
  detail : Nat
  offset : Nat
deriving DecidableEq, Repr

/-- A finding about a place in a lane. -/
def finding (sub lane bundle detail off : Nat) : Finding := ⟨sub, lane, 0xFF, bundle, 0, detail, off⟩

/-- A finding about the image as a whole. -/
def imgFail (bad : Bool) (sub off : Nat) : Option Finding := if bad then some (finding sub 0xFF 0 0 off) else none

/-- The bundles of a lane. -/
def laneBundles (img : Bytes) (l : Nat) : List (BitVec 256) :=
  (List.range (leBundles (laneEntry img l))).map (imgBundle img (laneEntry img l))

/-- The first bundle of a lane for which a check gives a detail (R287). -/
def laneBundle (img : Bytes) (sub : Nat) (f : Nat → Nat → BitVec 256 → Option Nat) (l : Nat) : Option Finding :=
  (laneBundles img l).zipIdx.findSome? fun p => (f l p.2 p.1).map fun d => finding sub l p.2 d (leCode (laneEntry img l) + 32 * p.2)

/-- The first bundle, in lane and then bundle order, for which a check gives a detail (R287). -/
def firstBundle (img : Bytes) (sub : Nat) (f : Nat → Nat → BitVec 256 → Option Nat) : Option Finding :=
  (presentLanes img).findSome? (laneBundle img sub f)

/-- A detail when a condition holds. -/
def whenBad (b : Bool) (d : Nat) : Option Nat := if b then some d else none

/-! ### Image structure (0x01xx) -/

/-- The parts of a lane in an image: offset, bytes, alignment and directory field (R225). -/
def laneParts (e : Bytes) : List (Nat × Nat × Nat × Nat) :=
  [(leCode e, 32 * leBundles e, 32, 0), (leLoopOff e, 64 * leLoopCount e, 8, 0x10), (leXferOff e, 64 * leXferCount e, 8, 0x20),
   (lePoolOff e, lePoolBytes e, 8, 0x28), (leManOff e, 8 * leManCount e, 8, 0x38)].filter fun p => p.2.1 != 0

/-- Bytes of a section by its type and count. -/
def sectionBytes (ty count : Nat) : Nat := match ty with | 1 => 64 * count | 2 => 16 * count | 3 => 32 * count | _ => 0

/-- The used entries of the section directory, with their places. -/
def usedSections (img : Bytes) : List (Bytes × Nat) := ((List.range 8).map fun i => (imgDir img i, 0x40 + 16 * i)).filter fun p => rdLe p.1 0 2 != 0

/-- Where the lane directory entry of a lane lies. -/
def laneAt (img : Bytes) (l : Nat) : Nat := ((imgSection img 1).map (·.2)).getD 0 + 64 * l

/-- The image's sections, lane parts included, as (offset, bytes, place named in the report) (R224). -/
def allSections (img : Bytes) : List (Nat × Nat × Nat) :=
  (usedSections img).map (fun p => (rdLe p.1 8 8, sectionBytes (rdLe p.1 0 2) (rdLe p.1 4 4), p.2)) ++
    (presentLanes img).flatMap fun l => (laneParts (laneEntry img l)).map fun p => (p.1, p.2.1, laneAt img l + p.2.2.2)

/-- The section checks (0x0104). -/
def badSections (img : Bytes) : Option Finding :=
  let one := fun (p : Bytes × Nat) =>
    let ty := rdLe p.1 0 2
    let cnt := rdLe p.1 4 4
    let off := rdLe p.1 8 8
    imgFail (decide (3 < ty) || (ty == 1 && cnt != 32) || (ty == 3 && decide (64 < cnt)) || off % 8 != 0 ||
      decide (off < 256) || decide (imgBytes img < off + sectionBytes ty cnt) ||
      ((usedSections img).any fun q => decide (q.2 < p.2) && rdLe q.1 0 2 == ty)) 0x0104 p.2
  let part := fun (l : Nat) => (laneParts (laneEntry img l)).findSome? fun p =>
    imgFail (p.1 % p.2.2.1 != 0 || decide (p.1 < 256)) 0x0104 (laneAt img l + p.2.2.2)
  let secs := allSections img
  imgFail (decide (imgBytes img < 256)) 0x0104 0x18 <|> (usedSections img).findSome? one <|>
    imgFail (imgSection img 1).isNone 0x0104 0x40 <|> (presentLanes img).findSome? part <|>
    secs.zipIdx.findSome? fun p =>
      imgFail (secs.zipIdx.any fun q => decide (q.2 < p.2) && overlap (q.1.1, q.1.2.1) (p.1.1, p.1.2.1)) 0x0104 p.1.2.2

/-- The lane-directory checks (0x0105, R225, R226, R617). -/
def badLanes (img : Bytes) : Option Finding :=
  (List.range 32).findSome? fun l =>
    let e := laneEntry img l
    let pages := lePagesLow e + lePagesHigh e
    let field :=
      if !lanePresent img l then e.findIdx? (· != 0)
      else if leBundles e < 1 ∨ 1048576 < leBundles e then some 0x08
      else if pages < 1 ∨ 4096 < pages ∨ rdLe img 0x0C 2 < pages then some 0x0C
      else if 64 < leLoopCount e then some 0x18
      else if 256 < leXferCount e then some 0x1A
      else if 64 < leManCount e then some 0x1C
      else ((laneParts e).find? fun p => decide (imgBytes img < p.1 + p.2.1)).map fun p => p.2.2.2
    field.map fun f => finding 0x0105 l 0 0 (laneAt img l + f)

/-- Checks 0x0101 to 0x0106, for a context that may hold `pages` pages on a core (R224, R480). -/
def badImage (img : Bytes) (pages : Nat) : Option Finding :=
  imgFail (rdLe img 0 4 != 0x4C495754) 0x0101 0 <|> imgFail (rdLe img 4 2 != 1) 0x0102 4 <|>
    imgFail (rdLe img 0xFC 4 != crc32 (slice img 0 0xFC)) 0x0103 0xFC <|> badSections img <|> badLanes img <|>
    imgFail (rdLe img 0x0C 2 == 0 || decide (4096 < rdLe img 0x0C 2) || decide (pages < rdLe img 0x0C 2)) 0x0106 0x0C <|>
    imgFail (imgWorkBytes img % 4096 != 0) 0x0106 0x10

/-! ### Bundles (0x02xx) -/

/-- Bits of a word that lie in given fields. -/
def fieldBits (fs : List (Nat × Nat)) : Nat := (fs.map fun f => 2 ^ (f.1 + 1) - 2 ^ f.2).sum

/-- The operand fields of a control operation; none for a reserved opcode (R239). -/
def opFields (w : W64) : Option (List (Nat × Nat)) :=
  match opOf w with
  | 0x00 => some []
  | 0x01 => some [(45, 42), (23, 0)]
  | 0x02 => some [(45, 42), (23, 0)]
  | 0x03 => some [(45, 42), (31, 0)]
  | 0x04 => some [(45, 42), (31, 0)]
  | 0x05 => some [(45, 38), (23, 0)]
  | 0x06 => some [(15, 0)]
  | 0x07 => some [(45, 45), (43, 27), (15, 0)]
  | 0x08 => some [(45, 34)]
  | 0x10 => some [(45, 27), (9, 0)]
  | 0x11 => some [(45, 39)]
  | 0x12 => some [(45, 21), (15, 0)]
  | 0x13 => some [(45, 39)]
  | 0x14 => some [(45, 18)]
  | 0x18 => some [(45, 5)]
  | 0x3F => some []
  | _ => none

/-- A reserved operation or operand code in slot 0 (R237, R239, R267). -/
def op0Bad (w : W64) : Bool :=
  (opFields w).isNone || (opOf w == 0x07 && decide (8 < fld w 31 28)) ||
    (opOf w == 0x18 && (fld w 45 44 == 3 || decide (13 < fld w 31 28)))

/-- A matrix word with a reserved code (R233, R243). -/
def matrixBad (w : W64) : Bool :=
  decide (1 < mxOpOf w) || (mxOpOf w == 0 && fld w 19 18 == 3) || (mxOpOf w == 1 && fld w 9 8 == 3)

/-- A reserved source, destination or element-type code (R246). -/
def srcBad (s : Nat) : Bool := !(s == 0 || decide (1 ≤ s ∧ s ≤ 4) || decide (8 ≤ s ∧ s ≤ 11) || decide (16 ≤ s))
def dstBad (d : Nat) : Bool := !(decide (d ≤ 2) || decide (4 ≤ d ∧ d ≤ 7))

/-- A vector word with a reserved code, or in a pair form R113 does not permit. -/
def vectorBad (w : W64) : Bool :=
  let ops := match classOf w with | 0 => 12 | 1 => 5 | _ => 2
  match classOf w with
  | 3 => srcBad (fld w 51 47) || srcBad (fld w 46 42) || srcBad (fld w 41 37) || decide (6 < fld w 28 26)
  | 4 => srcBad (fld w 46 42) || srcBad (fld w 41 37) || dstBad (fld w 36 33) || dstBad (fld w 32 29) || decide (6 < fld w 25 23)
  | 5 => false
  | 6 => dstBad (fld w 19 16)
  | 7 => decide (5 < fld w 55 53) || fld w 42 41 == 3
  | c => decide (7 < c) || decide (ops < fld w 55 52) || (srcCodes w).any srcBad || dstBad (fld w 36 33) || dstBad (fld w 32 29) ||
      decide (6 < fld w 28 26) || decide (6 < fld w 25 23) ||
      (pairForm w && ((!(readEnds w).isEmpty && fld w 28 26 != 5) ||
        ((isWe (fld w 36 33) || isWe (fld w 32 29)) && fld w 25 23 != 5)))

/-- A move word with a reserved code (R251). -/
def moveBad (w : W64) : Bool := decide (3 < classOf w) || (classOf w == 1 && (fld w 30 29 == 3 || fld w 28 27 == 3))

/-- Check 0x0201. -/
def badCode (b : BitVec 256) : Bool :=
  let s := slotOf b
  op0Bad (s 0) || (validOf (s 1) && matrixBad (s 1)) || (validOf (s 2) && vectorBad (s 2)) || (validOf (s 3) && moveBad (s 3))

/-- The reserved fields of a valid engine word (R243, R246, R251). -/
def reservedFields (slot : Nat) (w : W64) : List (Nat × Nat) :=
  match slot, classOf w with
  | 1, _ => if mxOpOf w = 0 then [(17, 4)] else [(7, 4)]
  | 2, 3 => [(36, 29), (25, 23), (6, 5)]
  | 2, 4 => [(51, 47), (28, 26), (6, 5)]
  | 2, 5 => [(32, 5)]
  | 2, 6 => [(8, 5)]
  | 2, 7 => [(40, 5)]
  | 2, _ => [(6, 5)]
  | _, 0 => [(15, 4)]
  | _, 1 => [(26, 25), (15, 4)]
  | _, 2 => [(21, 4)]
  | _, _ => [(44, 4)]

/-- A field whose value the encoding fixes holds another (R243, R618). -/
def fixedBad (slot : Nat) (w : W64) : Bool :=
  (slot == 1 && mxOpOf w == 1 && (if bit w 32 then fld w 31 27 != 0 else fld w 22 17 != 0)) ||
    (slot == 2 && classOf w == 3 && (fld w 21 13 != 127 || bit w 22)) ||
    (slot == 2 && classOf w == 4 && (fld w 21 20 != 0 || bit w 22))

/-- Check 0x0202: reserved fields, fixed fields and invalid slots (R237, R618). -/
def badReserved (b : BitVec 256) : Bool :=
  let w0 := slotOf b 0
  (w0.toNat % 2 ^ 46 &&& (2 ^ 46 - 1 - fieldBits ((opFields w0).getD []))) != 0 ||
    [1, 2, 3].any fun i =>
      let w := slotOf b i
      if validOf w then (w.toNat &&& fieldBits (reservedFields i w)) != 0 || fixedBad i w else w != 0

/-- Check 0x0203 (R226, R241). -/
def badEnd (n i : Nat) (b : BitVec 256) : Bool :=
  let op := opOf (slotOf b 0)
  (i + 1 == n && op != 0x3F) || ((op == 0x18 || op == 0x3F) && [1, 2, 3].any fun j => validOf (slotOf b j))

/-- The lanes a bundle names statically (R227, R251, R267). -/
def namedLanes (b : BitVec 256) : List Nat :=
  let w0 := slotOf b 0
  let w := slotOf b 3
  (if opOf w0 = 0x18 ∧ bit w0 13 then [fld w0 12 8] else []) ++
    (if !validOf w then []
     else
       let tok := if classOf w ≤ 1 ∧ bit w 24 then [fld w 23 19] else []
       tok ++ match classOf w with
         | 1 => [fld w 55 51]
         | 2 => [fld w 54 50]
         | 3 => [fld w 49 45]
         | _ => [])

/-- Descriptor `j` of a lane names an absent lane (R227). -/
def xferAbsent (img d : Bytes) : Bool :=
  (tdSrcKind d == 1 && !lanePresent img (tdSrcAddr d / 2 ^ 24 % 32)) || (tdDstKind d == 1 && !lanePresent img (tdDstAddr d / 2 ^ 24 % 32))

/-- The first transfer descriptor of a lane for which a check holds. -/
def laneXfer (img : Bytes) (sub : Nat) (f : Bytes → Bool) (l : Nat) : Option Finding :=
  (imgXfers img (laneEntry img l)).zipIdx.findSome? fun p =>
    if f p.1 then some (finding sub l 0 p.2 (leXferOff (laneEntry img l) + 64 * p.2)) else none

/-! ### Tables and loops (0x03xx) -/

/-- The loops of a lane: the LOOP bundle and the last bundle of its body (R240). -/
def laneLoops (bs : List (BitVec 256)) : List (Nat × Nat) :=
  bs.zipIdx.filterMap fun p => if opOf (slotOf p.1 0) = 0x10 then some (p.2, p.2 + 1 + fld (slotOf p.1 0) 9 0) else none

/-- How many loop bodies a bundle lies in. -/
def loopDepth (ls : List (Nat × Nat)) (i : Nat) : Nat := (ls.filter fun l => decide (l.1 < i) && decide (i ≤ l.2)).length

/-- A loop body R240 forbids: past the lane's end, across an enclosing body, or containing END. -/
def bodyBad (bs : List (BitVec 256)) (ls : List (Nat × Nat)) (l : Nat × Nat) : Bool :=
  decide (bs.length ≤ l.2) || ls.any (fun m => decide (m.1 < l.1) && decide (l.1 ≤ m.2) && decide (m.2 < l.2)) ||
    (slice bs (l.1 + 1) (l.2 - l.1)).any fun b => opOf (slotOf b 0) == 0x3F

/-- A loop descriptor R259 does not permit. -/
def descBad (d : Bytes) : Bool :=
  let o := rdLe d 4 4
  let n := ldDepth d
  rdLe d 3 1 != 0 || n == 0 || decide (6 < n) || nfld o 31 21 != 0 ||
    !((List.range n).map (ldLevel d)).Nodup || (List.range n).any (fun p => decide (5 < ldLevel d p)) ||
    (List.range 6).any (fun p => decide (n ≤ p) && ldLevel d p != 0) ||
    decide (5 < rdLe d 0x30 1) || decide (3 < rdLe d 0x31 1) || (nfld (rdLe d 0x31 1) 1 1 == 1 && decide (15 < rdLe d 0x32 2)) ||
    decide (128 < rdLe d 0x2D 1) || decide (128 < rdLe d 0x2F 1) ||
    decide (128 < (kMaskOf d).1 + (kMaskOf d).2) && rdLe d 0x2C 1 + rdLe d 0x2D 1 != 0 ||
    decide (128 < (nMaskOf d).1 + (nMaskOf d).2) && rdLe d 0x2E 1 + rdLe d 0x2F 1 != 0 || (slice d 0x34 12).any (· != 0)

/-- Loop descriptors and transfer descriptors a bundle names. -/
def namedDescs (b : BitVec 256) : List Nat × List Nat :=
  let w0 := slotOf b 0
  let w1 := slotOf b 1
  let w2 := slotOf b 2
  let w3 := slotOf b 3
  ((if opOf w0 = 0x18 then [fld w0 43 38, fld w0 37 32] else []) ++
    (if validOf w1 && mxOpOf w1 == 1 then fld w1 53 48 :: (if bit w1 16 then [fld w1 15 10] else []) else []) ++
    (if validOf w2 && classOf w2 == 7 then [fld w2 52 47] else []) ++
    (if validOf w2 && classOf w2 == 6 && bit w2 15 then [fld w2 14 9] else []),
   if validOf w3 && classOf w3 == 0 then [fld w3 55 48] else [])

/-- The counts a bundle takes from counters: slot, kind and the limit of 0x0405, if any (R191, R231, R268, R288). -/
def slotUses (b : BitVec 256) : List (Nat × Nat × Option Nat) :=
  let w0 := slotOf b 0
  let w1 := slotOf b 1
  let w2 := slotOf b 2
  let w3 := slotOf b 3
  (if opOf w0 = 0x10 ∧ bit w0 45 then [(fld w0 32 27, 0, none)] else []) ++
    (if opOf w0 = 0x18 then (List.range 3).map fun i => (fld w0 27 22 + i, 1, if i = 1 ∧ fld w0 45 44 = 2 then some 32 else none) else []) ++
    (if validOf w1 && mxOpOf w1 == 1 && bit w1 32 then [(fld w1 22 17, 1, some 512)] else []) ++
    (if validOf w2 && decide (classOf w2 ≤ 2) && bit w2 22 then [(fld w2 12 7, 1, none)] else []) ++
    (if validOf w2 && classOf w2 == 6 && bit w2 44 then [(fld w2 34 29, 1, some 512)] else []) ++
    (if validOf w3 && classOf w3 == 0 && bit w3 43 then [(fld w3 30 25, 1, some 4096)] else [])

/-- The kind and maximum a manifest gives a slot. -/
def manifestOf (img e : Bytes) (slot : Nat) : Option (Nat × Nat) := ((imgManifest img e).find? fun m => m.1 == slot).map (·.2)

/-- The declared maximum of a slot. -/
def slotMax (img e : Bytes) (slot : Nat) : Nat := ((manifestOf img e slot).map (·.2)).getD 0

/-- A manifest R231 does not permit. -/
def manifestBad (img e : Bytes) : Bool :=
  let ms := imgManifest img e
  ms.any (fun m => decide (63 < m.1) || decide (1 < m.2.1)) || !(ms.map (·.1)).Nodup ||
    (List.range (leManCount e)).any fun j => rdLe img (leManOff e + 8 * j + 6) 2 != 0

/-- The slot of a bundle whose count is not in the manifest as it should be (0x0304). -/
def badSlot (img e : Bytes) (b : BitVec 256) : Option Nat :=
  (slotUses b).findSome? fun u => whenBad (decide (63 < u.1) || (manifestOf img e u.1).map (·.1) != some u.2.1) u.1

/-- Pages of residence-0 weight references in a lane (R232). -/
def refPages (img : Bytes) (l : Nat) : List Nat :=
  ((imgRefs img).filter fun r => wrResidence r == 0 && wrLane r == l).flatMap fun r => rangePages (wrAddress r) (wrBytes r)

/-- Pages that the items of a lane's pool touch (R230). -/
def poolPages (img : Bytes) (l : Nat) : List Nat :=
  (imgItems img (laneEntry img l)).flatMap fun it => rangePages it.1 it.2.1

/-- The heads of a pool are well formed and the items fill it exactly (R229). -/
def poolShape (pool : Bytes) : Nat → Nat → Bool
  | 0, _ => false
  | fuel + 1, off =>
    if pool.length ≤ off then true
    else
      let n := rdLe pool (off + 4) 4
      let fin := off + 16 + 16 * ceilDiv n 16
      decide (1 ≤ n) && decide (n ≤ 16777216) && decide (fin ≤ pool.length) && (slice pool (off + 8) 8).all (· == 0) &&
        poolShape pool fuel fin

/-- The pool checks that need no followed write (0x0305). -/
def poolBad (img : Bytes) (l : Nat) : Bool :=
  let e := laneEntry img l
  let its := (imgItems img e).zipIdx
  !poolShape (imgPool img e) (lePoolBytes e / 16 + 1) 0 ||
    its.any (fun p => p.1.1 % 128 != 0 || decide (16777216 < p.1.1 + p.1.2.1) ||
      !((rangePages p.1.1 p.1.2.1).all (ownsPage (lePagesLow e) (lePagesHigh e))) ||
      its.any fun q => decide (q.2 < p.2) && overlap (p.1.1, p.1.2.1) (q.1.1, q.1.2.1)) ||
    (poolPages img l).any (refPages img l).contains

/-- Check 0x0306 (R232, R617), lane by lane. -/
def badRefs (img : Bytes) : Option Finding :=
  (List.range 256).findSome? fun l => ((imgRefs img).zipIdx.filter fun p => wrLane p.1 == l).findSome? fun p =>
    let r := p.1
    let e := laneEntry img (wrLane r)
    let bad := wrResidence r == 0 && (!lanePresent img (wrLane r) || wrAddress r % 4096 != 0 ||
      decide (16777216 < wrAddress r + wrBytes r) ||
      !((rangePages (wrAddress r) (wrBytes r)).all (ownsPage (lePagesLow e) (lePagesHigh e))))
    if bad then some (finding 0x0306 (wrLane r) 0 p.2 (((imgSection img 3).map (·.2)).getD 0 + 32 * p.2)) else none

/-- A transfer descriptor R233 does not permit (0x0307). -/
def xferBad (d : Bytes) : Bool :=
  let side := fun (kind addr idx : Nat) => (kind == 1 && decide (2 ^ 29 ≤ addr)) || (kind == 2 && decide (3 < idx))
  decide (4 < tdSrcKind d) || decide (2 < tdDstKind d) || tdSrcMode d == 3 || tdDstMode d == 3 ||
    decide (15 < rdLe d 2 1) || side (tdSrcKind d) (tdSrcAddr d) (tdSrcIndex d) ||
    side (tdDstKind d) (tdDstAddr d) (tdDstIndex d) || !tfLegal (tdTransform d)

end Sys2Proof.Machine
end

