-- ==== Sys2Proof/Machine/Follow.lean ====
section
/-!
DEFINITION. The loader follows a lane (R289 to R291): the register values it knows, the issue cycle of every word, the
scheduled accesses and the monitored relations of the engines in time, and the fillings of pages. A state of the loader
stands at a bundle and holds all times relative to that bundle's issue cycle.
-/

namespace Sys2Proof.Machine

/-! ### States of the loader -/

/-- A binding of an end: its number, descriptor and marker mode, and its base and walk while the loader follows them. -/
structure VEnd where
  id : Nat
  desc : Bytes
  mode : Nat
  walk : Option (W24 × List Nat)
deriving DecidableEq, Repr

/-- An engine word that has still to issue, with the registers it copied as far as the loader follows them; `old` says
that its section has ended. -/
structure VWord where
  slot : Nat
  word : W64
  due : Int
  bundle : Nat
  a : List (Option Nat)
  c : List (Option Nat)
  old : Bool
deriving DecidableEq, Repr

/-- A scheduled access still to come (R145). -/
structure VAcc where
  due : Int
  bank : Nat
  bundle : Nat
  old : Bool
deriving DecidableEq, Repr

/-- What happens in a cycle beside the banks: a loop-back queue popped or pushed (R130), an access of pages through a
binding with its marker mode, pages released by a matrix word, and the end of a binding (R153, R234). -/
inductive VKind where
  | pop (queue : Nat)
  | push (queue : Nat)
  | touch (id : Nat) (write : Bool) (mode : Nat) (pages : List Nat)
  | release (pages : List Nat)
  | close (id : Nat)
deriving DecidableEq, Repr

/-- An event still to come: `key` is twice its cycle, plus 1 at the cycle's end. -/
structure VEvent where
  key : Int
  kind : VKind
  bundle : Nat
deriving DecidableEq, Repr

/-- A tile as the loader knows it: the cycle from which it is complete, its width and its address. -/
structure VTile where
  ready : Option Int
  width : Option Nat
  addr : Option Nat
deriving DecidableEq, Repr

/-- The matrix engine's relations (R99): the two tiles, the load word at work (start, end if known, bundle), the starts
of plane reloads, the last row cycle of the run word, and the rows in flight by bank (first and last row cycle). Of the
banks in `dark` the loader does not know the rows. -/
structure VMx where
  shadow : Option VTile
  active : Option VTile
  load : Option (Int × Option Int × Nat)
  reloads : List (Int × Nat)
  nextRun : Option Int
  rows : List (Nat × Int × Int)
  dark : List Nat
deriving DecidableEq, Repr

/-- A drain word as the later words' relations need it (R99, R130). -/
structure VDrain where
  t : Int
  m : Nat
  bank : Nat
  pbank : Nat
  act : Nat
deriving DecidableEq, Repr

/-- The vector engine's relations (R130): the entries of the loop-back queues, none where not known; the cycle each
transpose buffer's fill began, and the reads at work (buffer, last column's cycle, bundle); the cycle each parameter bank
is ready from; drains; and the cycle the function unit is free from. -/
structure VVx where
  lb : List (Option Nat)
  fills : List (Option Int)
  reads : List (Nat × Int × Nat)
  banks : List (Option Int)
  drains : List VDrain
  funcFree : Option Int
deriving DecidableEq, Repr

/-- The fillings of the lane's pages (R153, R162): pages FULL, the binding that writes each page being filled, accesses
whose page-exit marker the next access decides (binding, writes, pages, bundle), and markers taken as placed before that
(binding, page). -/
structure VPages where
  full : List Nat
  writers : List (Nat × Nat)
  opened : List (Nat × Bool × List Nat × Nat)
  placed : List (Nat × Nat)
deriving DecidableEq, Repr

/-- A state the loader reaches: the control core, the registers followed in each file, the bindings of the ends, for each
queue the latest issue cycle with the kinds of word issued then and their bundle, and the lane's engines in time. `late`
says that the last SYNC is taken as released after its nominal cycle (R290), `blind` that page markers are no longer
followed. -/
structure VState where
  t : Ctl
  fa : List Bool
  fi : List Bool
  fc : List Bool
  fs : List Bool
  ends : List (Option VEnd)
  nextId : Nat
  gaps : List (Int × Nat × Nat)
  words : List VWord
  accs : List VAcc
  events : List VEvent
  mx : VMx
  vx : VVx
  pages : VPages
  blind : Bool
  late : Bool
deriving DecidableEq, Repr

/-- The engines with nothing at work. -/
def VMx.start : VMx := { shadow := none, active := none, load := none, reloads := [], nextRun := some 0, rows := [], dark := [] }

/-- See `VMx.start`. -/
def VVx.start : VVx :=
  { lb := List.replicate 4 (some 0), fills := [none, none], reads := [], banks := [none, none], drains := [], funcFree := some 0 }

/-- The state at a lane's first bundle: nothing is followed yet (R223). -/
def VState.start : VState :=
  { t := Ctl.reset, fa := List.replicate 16 false, fi := List.replicate 16 false, fc := List.replicate 16 false
    fs := List.replicate 16 false, ends := List.replicate 6 none, nextId := 0, gaps := List.replicate 3 (-1, 0, 0)
    words := [], accs := [], events := [], mx := .start, vx := .start, pages := ⟨[], [], [], []⟩, blind := false, late := false }

/-- Something found at a bundle: the subcode, the second bundle if there is one, and the detail. Subcode 0 is an item the
loader cannot follow (R293). -/
structure VFind where
  sub : Nat
  bundle : Nat
  other : Option Nat
  detail : Nat
deriving DecidableEq, Repr

/-- A finding about one bundle. -/
def vfind (sub bundle detail : Nat) : VFind := ⟨sub, bundle, none, detail⟩

/-- A finding when a condition holds. -/
def findIf (b : Bool) (sub bundle detail : Nat) : List VFind := if b then [vfind sub bundle detail] else []

/-- An element put into a list in order of a key, behind those with the same key. -/
def insertBy {α : Type} (key : α → Int) (x : α) : List α → List α
  | [] => [x]
  | y :: ys => if key x < key y then x :: y :: ys else y :: insertBy key x ys

/-! ### Registers (R289) -/

/-- A register is followed, by file code. -/
def followed (v : VState) (file r : Nat) : Bool :=
  (match file with | 0 => v.fa | 1 => v.fc | 2 => v.fs | _ => v.fi).getD r false

/-- A register marked followed or not. -/
def follow (v : VState) (file r : Nat) (b : Bool) : VState :=
  match file with
  | 0 => { v with fa := v.fa.set r b }
  | 1 => { v with fc := v.fc.set r b }
  | 2 => { v with fs := v.fs.set r b }
  | _ => { v with fi := v.fi.set r b }

/-- A followed A register. -/
def followA (v : VState) (r : Nat) : Option Nat := if followed v 0 r then some (v.t.a.getD r 0).toNat else none

/-- A followed counter. -/
def followC (v : VState) (r : Nat) : Option Nat := if followed v 1 r then some (v.t.c.getD r 0).toNat else none

/-- The slot-0 operations that write registers (R239, R289). -/
def followOp (v : VState) (w : W64) : VState :=
  match opOf w with
  | 0x01 => follow { v with t := ctlSeta w v.t } 0 (fld w 45 42) true
  | 0x02 => follow { v with t := ctlSeti w v.t } 3 (fld w 45 42) true
  | 0x03 => follow { v with t := ctlSetc w v.t } 1 (fld w 45 42) true
  | 0x04 => follow { v with t := ctlSets w v.t } 2 (fld w 45 42) true
  | 0x05 => follow { v with t := ctlAdda w v.t } 0 (fld w 45 42) (followed v 0 (fld w 41 38))
  | 0x06 => { v with
      t := ctlStepa w v.t
      fa := v.fa.zipIdx.map fun p => if bit w p.2 then p.1 && v.fi.getD p.2 false else p.1 }
  | 0x07 =>
    let file := if bit w 45 then 2 else 1
    follow { v with t := ctlAlu w v.t } file (fld w 43 40)
      (followed v file (fld w 39 36) && (bit w 27 || followed v file (fld w 35 32)))
  | 0x08 => follow { v with t := ctlMovx w v.t } (fld w 45 44) (fld w 43 40) (followed v (fld w 39 38) (fld w 37 34))
  | _ => v

/-- The registers followed in each file. -/
abbrev Mask := List Bool × List Bool × List Bool × List Bool

/-- The registers a state follows. -/
def maskOf (v : VState) : Mask := (v.fa, v.fi, v.fc, v.fs)

/-- Registers in both masks. -/
def meet (m n : Mask) : Mask :=
  (List.zipWith (· && ·) m.1 n.1, List.zipWith (· && ·) m.2.1 n.2.1, List.zipWith (· && ·) m.2.2.1 n.2.2.1,
    List.zipWith (· && ·) m.2.2.2 n.2.2.2)

/-- A state whose unfollowed registers are forgotten: only those in the mask of its bundle are followed, since every
write that can reach the bundle counts (R289). -/
def narrow (ms : List (Option Mask)) (v : VState) : VState :=
  match ms.getD v.t.pc none with
  | none => v
  | some m =>
    let n := meet m (maskOf v)
    { v with fa := n.1, fi := n.2.1, fc := n.2.2.1, fs := n.2.2.2 }

/-- The word of a slot as it is pushed, in cycle `skew` after the bundle's. -/
def pushedWord (v : VState) (slot : Nat) (w : W64) : VWord :=
  { slot := slot, word := w, due := skewOf w, bundle := v.t.pc, a := (List.range 16).map (followA v)
    c := (List.range 16).map (followC v), old := false }

/-- A copied A register, if followed. -/
def vwA (q : VWord) (r : Nat) : Option Nat := q.a.getD r none

/-- A copied counter, if followed. -/
def vwC (q : VWord) (r : Nat) : Option Nat := q.c.getD r none

/-- The place of a word among those of one cycle: a run word is handled before a load word (R76). -/
def wordKey (q : VWord) : Int := 4 * q.due + if q.slot = 1 then (if mxOpOf q.word = 1 then 0 else 1) else q.slot

/-! ### Accesses and events in time -/

/-- The pages of a range all belong to a lane (R617). -/
def laneOwns (img : Bytes) (l a n : Nat) : Bool :=
  (rangePages (a % 16777216) n).all (ownsPage (lePagesLow (laneEntry img l)) (lePagesHigh (laneEntry img l)))

/-- Two bundles lie in the body of one loop. -/
def inOneLoop (bs : List (BitVec 256)) (i j : Nat) : Bool :=
  (laneLoops bs).any fun l => decide (l.1 < i) && decide (i ≤ l.2) && decide (l.1 < j) && decide (j ≤ l.2)

/-- The subcode of a conflict of two accesses: across a SYNC, within a loop body, or within a section (R288). -/
def conflictSub (bs : List (BitVec 256)) (x y : VAcc) : Nat :=
  if x.old != y.old then 0x0503 else if inOneLoop bs x.bundle y.bundle then 0x0502 else 0x0501

/-- A scheduled access joins those to come; one that shares a bank with another in its cycle is found (R145). -/
def addAcc (bs : List (BitVec 256)) (v : VState) (x : VAcc) : VState × List VFind :=
  ({ v with accs := v.accs ++ [x] },
   (v.accs.filter fun y => y.due == x.due && y.bank == x.bank).map fun y =>
     ⟨conflictSub bs x y, x.bundle, some y.bundle, x.bank⟩)

/-- Steps taken one after another, with what they find. -/
def vfold {α : Type} (f : VState → α → VState × List VFind) (v : VState) (xs : List α) : VState × List VFind :=
  xs.foldl (fun r x => let n := f r.1 x; (n.1, r.2 ++ n.2)) (v, [])

/-- The accesses of rows in a cycle, each through its bank. -/
def rowAccs (q : VWord) (due : Int) (rows : List (Nat × Nat)) : List VAcc := rows.map fun r => ⟨due, r.2, q.bundle, q.old⟩

/-- An event joins those to come. -/
def addEvent (v : VState) (key : Int) (kind : VKind) (bundle : Nat) : VState :=
  { v with events := insertBy (·.key) ⟨key, kind, bundle⟩ v.events }

/-- A marker on a page (R153): commits and releases alternate. -/
def markPage (write : Bool) (bundle : Nat) (r : VPages × List VFind) (page : Nat) : VPages × List VFind :=
  let p := r.1
  if p.full.contains page = write then (p, r.2 ++ [vfind 0x0601 bundle page])
  else if write then ({ p with full := page :: p.full, writers := p.writers.filter (·.1 != page) }, r.2)
  else ({ p with full := p.full.erase page }, r.2)

/-- Pages met by another user: a page-exit marker still undecided on them is taken as placed. -/
def settleMarks (id : Option Nat) (pages : List Nat) (p : VPages) : VPages × List VFind :=
  p.opened.foldl (fun r o =>
    if some o.1 = id then ({ r.1 with opened := r.1.opened ++ [o] }, r.2)
    else
      let hit := o.2.2.1.filter pages.contains
      let m := hit.foldl (markPage o.2.1 o.2.2.2) r
      ({ m.1 with
         opened := m.1.opened ++ [(o.1, o.2.1, o.2.2.1.filter fun g => !pages.contains g, o.2.2.2)]
         placed := m.1.placed ++ hit.map fun g => (o.1, g) }, m.2)) ({ p with opened := [] }, [])

/-- The page-exit marker of a binding's last access, on the pages its next access does not touch (R234). -/
def exitMarks (id : Nat) (next : List Nat) (r : VPages × List VFind) : VPages × List VFind :=
  let m := (r.1.opened.filter fun o => o.1 == id).foldl (fun x o =>
    (o.2.2.1.filter fun g => !next.contains g).foldl (markPage o.2.1 o.2.2.2) x) r
  ({ m.1 with opened := m.1.opened.filter (·.1 != id), placed := m.1.placed.filter (·.1 != id) }, m.2)

/-- An access through a binding (R153, R162, R234). -/
def touchPages (id : Nat) (write : Bool) (mode : Nat) (pages : List Nat) (bundle : Nat) (p : VPages) : VPages × List VFind :=
  let r := settleMarks (some id) pages p
  let early := (r.1.placed.filter fun g => g.1 == id && pages.contains g.2).map fun g => vfind 0x0601 bundle g.2
  let m := exitMarks id pages (r.1, r.2 ++ early)
  let twice := if write then (pages.filter fun g => m.1.writers.any fun w => w.1 == g && w.2 != id).map fun g => vfind 0x0602 bundle g else []
  let p1 := if write then { m.1 with writers := (m.1.writers.filter fun w => !pages.contains w.1) ++ pages.map fun g => (g, id) } else m.1
  let n := if mode = 2 then pages.foldl (markPage write bundle) (p1, m.2 ++ twice) else (p1, m.2 ++ twice)
  (if mode = 1 then { n.1 with opened := n.1.opened ++ [(id, write, pages, bundle)] } else n.1, n.2)

/-- One event takes place. -/
def fire (v : VState) (x : VEvent) : VState × List VFind :=
  let onPages := fun (r : VPages × List VFind) => ({ v with pages := r.1 }, if v.blind then [] else r.2)
  match x.kind with
  | .pop k =>
    (match v.vx.lb.getD k none with
     | some 0 => (v, [vfind 0x0507 x.bundle 0x20])
     | some n => ({ v with vx := { v.vx with lb := v.vx.lb.set k (some (n - 1)) } }, [])
     | none => (v, []))
  | .push k =>
    (match v.vx.lb.getD k none with
     | some n => if 8 ≤ n then (v, [vfind 0x0507 x.bundle 0x21])
        else ({ v with vx := { v.vx with lb := v.vx.lb.set k (some (n + 1)) } }, [])
     | none => (v, []))
  | .touch id write mode pages => onPages (touchPages id write mode pages x.bundle v.pages)
  | .release pages =>
    let r := settleMarks none pages v.pages
    onPages (pages.foldl (markPage false x.bundle) r)
  | .close id => onPages (exitMarks id [] (v.pages, []))

/-- The events before a time take place. -/
def fireBefore (v : VState) (lim : Int) : VState × List VFind :=
  vfold fire { v with events := v.events.filter fun x => decide (lim ≤ x.key) } (v.events.filter fun x => decide (x.key < lim))

/-! ### What a word uses -/

/-- A use of an end by a word: the end, the rows of an access, the accesses and whether their number is followed, the
cycle of the first after the word's issue, the cycles between two, and the accesses that take place. -/
structure VUse where
  port : Nat
  rows : Nat
  n : Nat
  known : Bool
  first : Int
  step : Nat
  live : Option (List Bool)
deriving DecidableEq, Repr

/-- A count of a word: from a field, or from a counter within its declared maximum, with whether it is followed (R191). -/
def wordCount (img e : Bytes) (q : VWord) (fromC : Bool) (cnt slot imm : Nat) : Nat × Bool :=
  if fromC then (match vwC q cnt with
    | some n => (min 512 n, true)
    | none => (min 512 (slotMax img e slot), false))
  else (imm, true)

/-- The vectors of an FMA, FUNC or REDUCE word, the entries of a drain, or 128 for a fill and the columns of a read. -/
def vectorLen (img e : Bytes) (q : VWord) : Nat × Bool :=
  let w := q.word
  match classOf w with
  | 3 => (128, true)
  | 4 => (fld w 19 13 + 1, true)
  | 5 => (1, true)
  | 6 => wordCount img e q (bit w 44) (fld w 38 35) (fld w 34 29) (fld w 43 35 + 1)
  | _ => wordCount img e q (bit w 22) (fld w 16 13) (fld w 12 7) (fld w 21 13 + 1)

/-- The cycles between two vectors of a word (R116). -/
def wordStep (w : W64) : Nat := if classOf w = 1 ∧ (fld w 28 26 = 5 ∨ fld w 25 23 = 5) then 2 else 1

/-- The entries of a drain that take place, none when their predicate's limit is not followed (R262, R265). -/
def drainLive (img e : Bytes) (q : VWord) (m : Nat) : Option (List Bool) :=
  let w := q.word
  let d := (imgLoops img e).getD (fld w 14 9) []
  if !bit w 15 || nfld (rdLe d 0x31 1) 0 0 == 0 then some (List.replicate m true)
  else if nfld (rdLe d 0x31 1) 1 1 = 1 then
    (vwC q (nfld (rdLe d 0x32 2) 3 0)).map fun n => drainMBits d n m walkStart
  else some (drainMBits d (rdLe d 0x32 2) m walkStart)

/-- The uses a vector word makes of ends, in the order it makes them (R111, R115, R123 to R125). -/
def endUses (img e : Bytes) (q : VWord) : List VUse :=
  let w := q.word
  let n := vectorLen img e q
  let step := wordStep w
  let all := fun (k : Nat) => some (List.replicate k true)
  let reads := (readEnds w).map fun r => (⟨r, typeRows (fld w 28 26), n.1, n.2, 0, step, all n.1⟩ : VUse)
  let writes := ([fld w 36 33, fld w 32 29].filter isWe).map fun d =>
    (⟨d + 3, typeRows (fld w 25 23), n.1, n.2, classLatency (classOf w), step, all n.1⟩ : VUse)
  match classOf w with
  | 3 => reads
  | 4 => writes
  | 5 => [⟨fld w 54 53, 2, 1, true, 0, 1, all 1⟩, ⟨fld w 54 53, 4, 1, true, 1, 1, all 1⟩]
  | 6 =>
    (if bit w 27 then [⟨fld w 26 25, 4, ceilDiv n.1 128, n.2, 0, 128, all (ceilDiv n.1 128)⟩] else []) ++
      (if isWe (fld w 19 16) then
        [⟨fld w 19 16 + 3, drainRowsOf (fld w 21 20), n.1, n.2, (15 + actLatency (fld w 24 22) : Nat), 1, drainLive img e q n.1⟩]
       else [])
  | 7 => []
  | _ => reads ++ writes

/-! ### Settling a matrix word -/

/-- The code width the loader knows of a record (R293). -/
def knownWidth (img : Bytes) (l rec : Nat) : Option Nat :=
  match (imgItems img (laneEntry img l)).find? fun it => decide (it.1 ≤ rec) && decide (rec + 8 ≤ it.1 + it.2.1) with
  | some it => some (nfld (rdLe (imgPool img (laneEntry img l)) (it.2.2 + (rec - it.1) + 5) 1) 1 0)
  | none => ((imgRefs img).find? fun r => wrResidence r == 0 && wrLane r == l && decide (wrWidth r ≤ 3) &&
      (rangePages (wrAddress r) (wrBytes r)).contains (rec / 4096)).map wrWidth

/-- Release events of a matrix word's rows: the cycle and page of each row in order (R234, R244). -/
def releaseRows (watch : List Nat) (mode : Nat) (q : VWord) (v : VState) (rows : List (Int × Nat)) : VState :=
  (rows.zipIdx).foldl (fun x r =>
    let next := (rows[r.2 + 1]?).map fun n => [n.2]
    let ps := (markPages mode [r.1.2] next).filter watch.contains
    if ps.isEmpty then x else addEvent x (2 * r.1.1 + 1) (.release ps) q.bundle) v

/-- The addresses of a load word's tile and record, if followed (R243). -/
def tileOf (q : VWord) : Option Nat := (vwA q (fld q.word 56 53)).map fun a => (a + 128 * fld q.word 52 36) % 16777216

/-- See `tileOf`. -/
def recordOf (q : VWord) : Option Nat := (vwA q (fld q.word 35 32)).map fun a => (a + 8 * fld q.word 31 20) % 16777216

/-- The checks of a LOAD word's addresses, and what it leaves unproven (R94, R293). -/
def loadChecks (img : Bytes) (l : Nat) (q : VWord) : List VFind :=
  let width := (recordOf q).bind (knownWidth img l)
  (match tileOf q with
   | some a => findIf (a % 128 != 0) 0x0402 q.bundle (a / 4096) ++
      findIf (!laneOwns img l a (tileBytes (width.getD 0))) 0x0404 q.bundle (a / 4096)
   | none => vfind 0 q.bundle 1 :: findIf (fld q.word 19 18 != 0) 0 q.bundle 4) ++
  (match recordOf q with
   | some a => findIf (a % 8 != 0 || !laneOwns img l a 8) 0x0404 q.bundle (a / 4096)
   | none => [vfind 0 q.bundle 2]) ++ findIf width.isNone 0 q.bundle 3

/-- A LOAD word issues: the port relations (R99 details 0x11 and 0x14), its accesses and release markers, and the tile it
brings. -/
def settleLoad (img : Bytes) (l : Nat) (bs : List (BitVec 256)) (watch : List Nat) (v : VState) (q : VWord) : VState × List VFind :=
  let u := q.due
  let width := (recordOf q).bind (knownWidth img l)
  let rows := loadRows (width.getD 0)
  let fin := width.map fun w => u + (loadRows w : Int)
  let busy := (match v.mx.load with
    | some p => decide (u < p.2.1.getD (p.1 + 32))
    | none => false) || v.mx.reloads.any fun r => decide (r.1 ≤ u) && decide (u < r.1 + 64)
  let late := (v.mx.reloads.filter fun r => decide (u < r.1) && decide (r.1 < u + (rows : Int))).map fun r =>
    (⟨0x0505, r.2, some q.bundle, 0x14⟩ : VFind)
  let places := match tileOf q with
    | some a => (List.range rows).map fun (i : Nat) => (u + (i : Int), pageOf ((a + 128 * i) % 16777216), bankOf (a + 128 * i))
    | none => []
  let accs := (match recordOf q with | some a => rowAccs q u [(pageOf a, bankOf a)] | none => []) ++
    places.flatMap fun p => rowAccs q p.1 [p.2]
  let r := vfold (addAcc bs) v accs
  let mode := fld q.word 19 18
  let v1 := if width.isSome then releaseRows watch mode q r.1 (places.map fun p => (p.1, p.2.1)) else r.1
  ({ v1 with
     blind := v1.blind || (mode != 0 && (tileOf q).isNone || mode != 0 && width.isNone)
     mx := { v1.mx with load := some (u, fin, q.bundle), shadow := some ⟨fin, width, tileOf q⟩ } },
   loadChecks img l q ++ findIf busy 0x0505 q.bundle 0x11 ++ late ++ r.2)

/-- The checks of a RUN word's activation walk, and what it leaves unproven (R263, R293). -/
def runChecks (img e : Bytes) (l : Nat) (q : VWord) : List VFind :=
  let w := q.word
  let m := wordCount img e q (bit w 32) (fld w 26 23) (fld w 22 17) (fld w 31 23 + 1)
  let d := (imgLoops img e).getD (fld w 53 48) []
  findIf (!m.2) 0 q.bundle 6 ++
  match vwA q (fld w 47 44) with
  | none => vfind 0 q.bundle 5 :: findIf (fld w 9 8 != 0) 0 q.bundle 7
  | some a => ((walkAddrs d (BitVec.ofNat 24 a) m.1 walkStart).filter fun x =>
      !laneOwns img l x (if bit w 54 then 256 else 128)).map fun x => vfind 0x0401 q.bundle (x / 4096)

/-- A RUN word issues: the relations of R99, the cycles of its rows and reloads (R81, R84), its accesses and release
markers. -/
def settleRun (img e : Bytes) (l : Nat) (bs : List (BitVec 256)) (watch : List Nat) (v : VState) (q : VWord) : VState × List VFind :=
  let w := q.word
  let u := q.due
  let acc := fld w 43 33
  let bank := accBank acc
  let swap := bit w 56
  let split := bit w 54
  let m := if bit w 32 then vwC q (fld w 26 23) else some (fld w 31 23 + 1)
  let tile := if swap then v.mx.shadow else v.mx.active
  let width := tile.bind (·.width)
  let bm := width == some 3
  let bad := fun (b : Bool) (d : Nat) => findIf b 0x0505 q.bundle d
  let finds := runChecks img e l q ++
    bad (swap && (match v.mx.shadow with | some t => (match t.ready with | some r => decide (u < r) | none => false) | none => true)) 0x10 ++
    bad (match v.mx.nextRun with | some n => decide (u < n) | none => false) 0x12 ++
    bad (v.vx.drains.any fun d => d.bank == bank && decide (u < d.t + (d.m : Int))) 0x13 ++
    bad (bm && (match v.mx.load with | some p => (match p.2.1 with | some f => decide (u < f) | none => false) | none => false)) 0x14
  let base : VMx := { v.mx with active := tile, shadow := if swap then none else v.mx.shadow }
  match width, m with
  | some wd, some m =>
    let np := passCount bm split
    let per : Int := if bm then max m 64 else m
    let o0 : Int := if bm && !swap then u + 64 else u
    let opens := fun (p : Nat) => o0 + (p : Int) * per
    let reloaded := (List.range np).filter fun p => decide (p + 1 < np) && (decide (0 < p) || !swap)
    let reloads := if bm then (u, q.bundle) :: reloaded.map fun p => (opens p, q.bundle)
      else []
    let d := (imgLoops img e).getD (fld w 53 48) []
    let rowsOf : Nat → List (Int × Nat) := fun p => match vwA q (fld w 47 44) with
      | some a => (walkAddrs d (BitVec.ofNat 24 a) m walkStart).zipIdx.map fun x =>
          (opens p + 1 + (x.2 : Int), addr24 (x.1 + (if passActHi bm split p then 128 else 0) : Nat))
      | none => []
    let planes := match tile.bind (·.addr) with
      | some a => (reloads.zipIdx).flatMap fun r =>
          let hi := if swap then r.2 % 2 == 1 else r.2 % 2 == 0
          (List.range 64).flatMap fun (i : Nat) =>
            rowAccs q (r.1.1 + (i : Int)) [(0, bankOf ((if hi then a else a + 8192) + 128 * i))]
      | none => []
    let accs := ((List.range np).flatMap fun p => (rowsOf p).flatMap fun x => rowAccs q x.1 [(pageOf x.2, bankOf x.2)]) ++ planes
    let r := vfold (addAcc bs) v accs
    let v1 := releaseRows watch (fld w 9 8) q r.1 ((rowsOf (np - 1)).map fun x => (x.1, pageOf x.2))
    ({ v1 with
       blind := v1.blind || (fld w 9 8 != 0 && (vwA q (fld w 47 44)).isNone)
       mx := { base with
         reloads := v.mx.reloads ++ reloads
         nextRun := some (opens (np - 1) + (m : Int))
         rows := v.mx.rows ++ (List.range np).map fun p => (bank, opens p + 1, opens p + (m : Int))
         active := tile.map fun t => { t with width := some wd } } }, finds ++ r.2)
  | _, _ => ({ v with
      blind := v.blind || fld w 9 8 != 0
      mx := { base with nextRun := none, dark := bank :: v.mx.dark } }, finds)

/-! ### Settling a vector word -/

/-- The pages a lane's pool items touch, met by a write (R230). -/
def poolHit (img : Bytes) (l a n : Nat) : Bool := (rangePages (a % 16777216) n).any (poolPages img l).contains

/-- One use of an end: its checks, accesses, and the walk's steps (R111, R230, R249, R250, R263). -/
def settleUse (img : Bytes) (l : Nat) (bs : List (BitVec 256)) (watch : List Nat) (q : VWord) (v : VState) (u : VUse) : VState × List VFind :=
  match v.ends.getD u.port none with
  | none => (v, findIf (u.n != 0) 0x0507 q.bundle 0x26)
  | some b =>
    match b.walk with
    | none => ({ v with blind := v.blind || b.mode != 0 }, vfind 0 q.bundle (10 + u.port) :: findIf (b.mode != 0) 0 q.bundle (20 + u.port))
    | some z =>
      let write := decide (4 ≤ u.port)
      let addrs := walkAddrs b.desc z.1 u.n z.2
      let finds := addrs.flatMap fun x => findIf (x % 128 != 0) 0x0402 q.bundle (x / 4096) ++
        findIf (!laneOwns img l x (128 * u.rows)) 0x0401 q.bundle (x / 4096) ++
        findIf (write && poolHit img l x (128 * u.rows)) 0x0305 q.bundle (x / 4096)
      let moved := fun (y : VState) => { y with ends := y.ends.set u.port (some { b with
        walk := if u.known then some (z.1, walkSteps b.desc u.n z.2) else none }) }
      match (if u.known then u.live else none) with
      | none => ({ moved v with blind := v.blind || b.mode != 0 }, finds)
      | some live =>
        let times := (addrs.zipIdx.filter fun x => live.getD x.2 true).map fun x =>
          (q.due + u.first + ((x.2 * u.step : Nat) : Int), accRows x.1 u.rows)
        let r := vfold (addAcc bs) v (times.flatMap fun x => rowAccs q x.1 x.2)
        (moved (times.foldl (fun y x =>
          addEvent y (2 * x.1) (.touch b.id write b.mode ((accPages x.2).filter watch.contains)) q.bundle) r.1), finds ++ r.2)

/-- The loop-back traffic of a word (R115, R125, R130): queues of which a count is not followed are no longer known. -/
def settleQueues (img e : Bytes) (q : VWord) (v : VState) : VState :=
  let w := q.word
  let n := vectorLen img e q
  let step := wordStep w
  let cls := classOf w
  let dsts := if cls = 6 then [fld w 19 16] else if cls ≤ 2 ∨ cls = 4 then [fld w 36 33, fld w 32 29] else []
  let pushes := (dsts.filter isLb).map (· - 4)
  let lat := if cls = 6 then 14 + actLatency (fld w 24 22) else classLatency cls - 1
  if !n.2 then
    { v with vx := { v.vx with lb := (popQueues w ++ pushes).foldl (fun (l : List (Option Nat)) k => l.set k none) v.vx.lb } }
  else
    (List.range n.1).foldl (fun x (i : Nat) =>
      let at0 : Int := q.due + ((i * step : Nat) : Int)
      let y := (popQueues w).foldl (fun y k => addEvent y (2 * at0) (.pop k) q.bundle) x
      pushes.foldl (fun y k => addEvent y (2 * (at0 + (lat : Int)) + 1) (.push k) q.bundle) y) v

/-- The rows of a bank are pending in a cycle, or its turnaround cycle is (R213). -/
def drainRelation (m : VMx) (bank : Nat) (u : Int) : Option Nat :=
  let rows := m.rows.filter fun r => r.1 == bank
  if m.dark.contains bank then none
  else if rows.any fun r => decide (r.2.1 ≤ u) && decide (u ≤ r.2.2 + 9) then some 0x30
  else if rows.any fun r => r.2.2 + 10 == u then some 0x31 else none

/-- A parameter bank that is not ready in a cycle (R123, R130). -/
def bankUnready (x : VVx) (b : Nat) (u : Int) : Bool := match x.banks.getD b none with | some r => decide (u < r) | none => true

/-- The vector engine's relations at the issue of a word, and the word's own part in them (R130, R213). -/
def settleUnit (img e : Bytes) (v : VState) (q : VWord) : VState × List VFind :=
  let w := q.word
  let u := q.due
  let x := v.vx
  let n := vectorLen img e q
  let bad := fun (b : Bool) (d : Nat) => findIf b 0x0507 q.bundle d
  let b55 := fld w 55 55
  match classOf w with
  | 1 =>
    let busy := match x.funcFree with | some f => decide (u < f) | none => false
    let free := if pairForm w then (if n.2 then some (u + 2 * (n.1 : Int)) else none) else x.funcFree
    ({ v with vx := { x with funcFree := free } }, bad busy 0x25)
  | 3 =>
    ({ v with vx := { x with fills := x.fills.set b55 (some u) } },
     (x.reads.filter fun r => r.1 == b55 && decide (u < r.2.1)).map fun r => ⟨0x0507, r.2.2, some q.bundle, 0x22⟩)
  | 4 =>
    ({ v with vx := { x with reads := x.reads ++ [(b55, u + (n.1 : Int) - 1, q.bundle)] } },
     bad (match x.fills.getD b55 none with | some f => decide (u < f + 129) | none => true) 0x22)
  | 5 =>
    ({ v with vx := { x with banks := x.banks.set b55 (some (u + 2)) } },
     bad (x.drains.any fun d => d.pbank == b55 && decide (u ≤ d.t + (d.m : Int) + 13 + (actLatency d.act : Int))) 0x23)
  | 6 =>
    let bank := fld w 55 54
    if n.2 && n.1 == 0 then (v, [])
    else
      ({ v with vx := { x with drains := x.drains ++ (if n.2 then [⟨u, n.1, bank, fld w 28 28, fld w 24 22⟩] else []) } },
       bad (bankUnready x (fld w 28 28) u) 0x23 ++
       bad (x.drains.any fun d => decide (u < d.t + (d.m : Int))) 0x24 ++
       (match drainRelation v.mx bank u with | some d => [vfind 0x0506 q.bundle d] | none => []))
  | _ => (v, [])

/-- A vector word issues. -/
def settleVector (img e : Bytes) (l : Nat) (bs : List (BitVec 256)) (watch : List Nat) (v : VState) (q : VWord) : VState × List VFind :=
  let w := q.word
  if classOf w = 7 then
    let k := fld w 55 53
    let v1 := match v.ends.getD k none with
      | some b => addEvent v (2 * q.due) (.close b.id) q.bundle
      | none => v
    let b : VEnd :=
      { id := v.nextId, desc := (imgLoops img e).getD (fld w 52 47) [], mode := fld w 42 41
        walk := (vwA q (fld w 46 43)).map fun a => (BitVec.ofNat 24 a, walkStart) }
    ({ v1 with ends := v1.ends.set k (some b), nextId := v.nextId + 1 }, [])
  else
    let r := settleUnit img e v q
    let s := vfold (settleUse img l bs watch q) r.1 (endUses img e q)
    (settleQueues img e q s.1, findIf (!(vectorLen img e q).2) 0 q.bundle 8 ++ r.2 ++ s.2)

/-! ### Move words -/

/-- The byte ranges of one side of a transfer over all repeats: start and length. -/
def sideRanges (start : Int) (rep : Int) (reps : Nat) (contig : Bool) (total block blocks : Nat) (stride : Int) : List (Int × Nat) :=
  (List.range reps).flatMap fun (r : Nat) =>
    if contig then [(start + r * rep, total)] else (List.range blocks).map fun (b : Nat) => (start + r * rep + b * stride, block)

/-- The checks of one side of a DMA or SEND (R160, R230, R263). -/
def sideChecks (img : Bytes) (bundle kind lane : Nat) (write : Bool) (rs : List (Int × Nat)) : List VFind :=
  rs.flatMap fun r =>
    if kind = 0 then findIf (decide (r.1 < 0) || decide ((imgWorkBytes img : Int) < r.1 + r.2)) 0x0401 bundle 0
    else if kind = 1 then
      let a := addr24 r.1
      findIf (!laneOwns img lane a r.2) 0x0401 bundle (a / 4096) ++ findIf (write && poolHit img lane a r.2) 0x0305 bundle (a / 4096)
    else []

/-- One side of a move word: its kind and lane, whether it writes, its marker mode, and its byte ranges, none when the
loader does not follow them. -/
structure VSide where
  kind : Nat
  lane : Nat
  write : Bool
  mode : Nat
  ranges : Option (List (Int × Nat))
deriving DecidableEq, Repr

/-- The repeats of a DMA word, if followed (R251). -/
def dmaReps (q : VWord) : Option Nat := if bit q.word 43 then vwC q (fld q.word 34 31) else some (fld q.word 42 31 + 1)

/-- The sides of a move word (R251 to R253, R316). A count that is not followed is taken as its declared maximum; how long a
PWF source is shows only in its bytes. -/
def moveSides (img e : Bytes) (l : Nat) (q : VWord) : List VSide :=
  let w := q.word
  match classOf w with
  | 0 =>
    let d := (imgXfers img e).getD (fld w 55 48) []
    let reps := (dmaReps q).getD (slotMax img e (fld w 30 25))
    let lane := fun (addr : Nat) => addr / 2 ^ 24 % 32
    let base := fun (kind addr : Nat) =>
      if kind = 1 ∧ lane addr = l then (vwA q (fld w 47 44)).map fun a => ((addr % 2 ^ 24 + a : Nat) : Int)
      else some (if kind = 1 then ((addr % 2 ^ 24 : Nat) : Int) else addr)
    [⟨tdSrcKind d, lane (tdSrcAddr d), false, tdSrcMode d,
        if tfPwf (tdTransform d) then none else (base (tdSrcKind d) (tdSrcAddr d)).map fun a =>
          sideRanges a (tdSrcRepStride d) reps (srcContig d) (decodedBytes d) (tdBlockBytes d) (tdBlocks d) (tdSrcBlockStride d)⟩,
     ⟨tdDstKind d, lane (tdDstAddr d), true, tdDstMode d, (base (tdDstKind d) (tdDstAddr d)).map fun a =>
          sideRanges a (tdDstRepStride d) reps (dstContig d) (outBytes d) (tdBlockBytes d) (tdBlocks d) (tdDstBlockStride d)⟩]
  | 1 =>
    let n := 128 * (fld w 42 31 + 1)
    [⟨1, l, false, fld w 30 29, (vwA q (fld w 50 47)).map fun a => [((a : Int), n)]⟩,
     ⟨1, fld w 55 51, true, fld w 28 27, (vwA q (fld w 46 43)).map fun a => [((a : Int), n)]⟩]
  | 2 =>
    [⟨1, fld w 54 50, !bit w 55, 2, (vwA q (fld w 49 46)).map fun a =>
        [((((a / 4096 + fld w 45 34) % 4096 * 4096 : Nat) : Int), 4096 * (fld w 33 22 + 1))]⟩]
  | _ => []

/-- A move word issues: its checks and what it leaves unproven (R263, R293). -/
def moveChecks (img e : Bytes) (l : Nat) (q : VWord) : List VFind :=
  let w := q.word
  let off := if classOf w = 1 then
      [fld w 50 47, fld w 46 43].flatMap fun r => match vwA q r with
        | some a => findIf (a % 128 != 0) 0x0402 q.bundle (a / 4096)
        | none => []
    else []
  findIf (classOf w == 0 && (dmaReps q).isNone) 0 q.bundle 9 ++ off ++
  (moveSides img e l q).zipIdx.flatMap fun p =>
    let side := p.1
    match side.ranges with
    | none => vfind 0 q.bundle (30 + 2 * p.2) :: findIf (side.kind == 1 && side.mode != 0) 0 q.bundle (31 + 2 * p.2)
    | some rs => if classOf w = 2 then [] else sideChecks img q.bundle side.kind side.lane side.write rs

/-- The pages of scratchpads that a move word writes or marks, as (lane, page): none when the loader does not follow
them. -/
def movePages (img e : Bytes) (l : Nat) (q : VWord) : Option (List (Nat × Nat)) :=
  ((moveSides img e l q).filter fun s => s.kind == 1 && (s.write || s.mode != 0)).foldl (fun acc s =>
    match acc, (if (classOf q.word == 0 && (dmaReps q).isNone) then none else s.ranges) with
    | some ps, some rs => some (ps ++ rs.flatMap fun r => (rangePages (addr24 r.1) r.2).map fun g => (s.lane, g))
    | _, _ => none) (some [])

/-! ### A lane in time -/

/-- What the loader needs of a lane: the image, the lane and its directory entry, its bundles, and the pages whose markers
it follows. -/
structure VLane where
  img : Bytes
  lane : Nat
  entry : Bytes
  bundles : List (BitVec 256)
  watch : List Nat

/-- A word issues. -/
def settleWord (x : VLane) (v : VState) (q : VWord) : VState × List VFind :=
  let r := fireBefore v (2 * q.due)
  let n := match q.slot with
    | 1 => if mxOpOf q.word = 0 then settleLoad x.img x.lane x.bundles x.watch r.1 q
        else settleRun x.img x.entry x.lane x.bundles x.watch r.1 q
    | 2 => settleVector x.img x.entry x.lane x.bundles x.watch r.1 q
    | _ => (r.1, moveChecks x.img x.entry x.lane q)
  (n.1, r.2 ++ n.2)

/-- The words before a cycle issue, and what comes before it has happened. -/
def settleBefore (x : VLane) (v : VState) (lim : Int) : VState × List VFind :=
  let r := vfold (settleWord x) { v with words := v.words.filter fun q => decide (lim ≤ q.due) } (v.words.filter fun q => decide (q.due < lim))
  let n := fireBefore r.1 (2 * lim)
  ({ n.1 with accs := n.1.accs.filter fun a => decide (lim ≤ a.due) }, r.2 ++ n.2)

/-- All words issue, everything they start happens, and the ends have made their last accesses. -/
def settleAll (x : VLane) (v : VState) : VState × List VFind :=
  let r := vfold (settleWord x) { v with words := [] } v.words
  let closes := r.1.ends.filterMap fun b => b.map fun y => (⟨0, .close y.id, v.t.pc⟩ : VEvent)
  let n := vfold fire { r.1 with events := [] } (r.1.events ++ closes)
  ({ n.1 with accs := [] }, r.2 ++ n.2)

/-- Time goes on by `n` cycles; what can matter no more is dropped. -/
def shiftTime (n : Int) (v : VState) : VState :=
  let le := fun (t : Int) => max 0 (t - n)
  { v with
    gaps := v.gaps.map fun (g : Int × Nat × Nat) => if g.1 < n then (-1, 0, 0) else (g.1 - n, g.2)
    words := v.words.map fun q => { q with due := q.due - n }
    accs := v.accs.map fun a => { a with due := a.due - n }
    events := v.events.map fun x => { x with key := x.key - 2 * n }
    mx := { v.mx with
      shadow := v.mx.shadow.map fun t => { t with ready := t.ready.map le }
      active := v.mx.active.map fun t => { t with ready := t.ready.map le }
      load := v.mx.load.bind fun p => if p.2.1.getD (p.1 + 32) ≤ n then none
        else some (p.1 - n, p.2.1.map (· - n), p.2.2)
      reloads := (v.mx.reloads.filter fun r => decide (n < r.1 + 64)).map fun r => (r.1 - n, r.2)
      nextRun := v.mx.nextRun.map le
      rows := (v.mx.rows.filter fun r => decide (n ≤ r.2.2 + 10)).map fun r => (r.1, r.2.1 - n, r.2.2 - n) }
    vx := { v.vx with
      fills := v.vx.fills.map fun f => f.map fun (t : Int) => max (-129) (t - n)
      reads := (v.vx.reads.filter fun r => decide (n ≤ r.2.1)).map fun r => (r.1, r.2.1 - n, r.2.2)
      banks := v.vx.banks.map fun b => b.map le
      drains := (v.vx.drains.filter fun d => decide (n ≤ d.t + (d.m : Int) + 13 + (actLatency d.act : Int))).map fun d => { d with t := d.t - n }
      funcFree := v.vx.funcFree.map le } }

/-- A state whose section has ended: what is still to come of it is old. -/
def endSection (v : VState) : VState :=
  { v with
    words := v.words.map fun q => { q with old := true }
    accs := v.accs.map fun a => { a with old := true } }

/-- Nothing of the ended section is still to come. -/
def sectionGone (v : VState) : Bool := !(v.words.any (·.old)) && !(v.accs.any (·.old))

/-- The states after a SYNC's release: at its nominal cycle, and, for the banks of the words that issue after it, at every
later cycle up to the last such word's (R290). -/
def syncStates (x : VLane) (v : VState) : List VState :=
  let last := (v.words.map (·.due)).foldl max 0
  let old := endSection v
  let after := { (settleBefore x old 1).1 with accs := [], late := true }
  old :: if v.late then [] else
    (List.range last.toNat).map fun (i : Nat) => shiftTime ((i : Int) + 1) (settleBefore x after ((i : Int) + 1)).1

/-- The engines after a macro (R279): ends unbound, loop-back queues empty, no shadow tile. -/
def afterMacroV (v : VState) : VState :=
  { shiftTime 1048576 v with
    ends := List.replicate 6 none
    gaps := List.replicate 3 (-1, 0, 0)
    mx := { VMx.start with active := some ⟨none, none, none⟩ }
    vx := { v.vx with
      lb := List.replicate 4 (some 0)
      fills := v.vx.fills.map fun f => f.map fun _ => -129
      reads := []
      banks := v.vx.banks.map fun b => b.map fun _ => 0
      drains := []
      funcFree := some 0 } }

/-- The kind a word counts as in one cycle of its queue (R196). -/
def kindOf (slot : Nat) (w : W64) : Nat := if slot = 1 ∧ mxOpOf w = 0 then 1 else if slot = 1 then 2 else 3

/-- A word issues before, or in the same cycle as, the word before it in its queue (R196). -/
def orderChecks (v : VState) (b : BitVec 256) : List VFind :=
  v.gaps.zipIdx.flatMap fun p =>
    let w := slotOf b (p.2 + 1)
    let k : Int := skewOf w
    if !validOf w then []
    else if k < p.1.1 then [⟨0x0504, v.t.pc, some p.1.2.2, 0x40⟩]
    else if k = p.1.1 ∧ (p.1.2.1 &&& kindOf (p.2 + 1) w) ≠ 0 then [⟨0x0504, v.t.pc, some p.1.2.2, 0x41⟩] else []

/-- The queues' latest issue cycles after a bundle's words. -/
def gapsAfter (v : VState) (b : BitVec 256) : List (Int × Nat × Nat) :=
  v.gaps.zipIdx.map fun p =>
    let w := slotOf b (p.2 + 1)
    let k : Int := skewOf w
    if !validOf w then p.1
    else if p.1.1 < k then (k, kindOf (p.2 + 1) w, v.t.pc) else (p.1.1, p.1.2.1 ||| kindOf (p.2 + 1) w, p.1.2.2)

/-- A bundle's words join those to issue (R195, R238). -/
def pushBundle (v : VState) (b : BitVec 256) : VState :=
  let ws := ([1, 2, 3].filter fun i => validOf (slotOf b i)).map fun i => pushedWord v i (slotOf b i)
  { v with words := ws.foldl (fun l q => insertBy wordKey q l) v.words, gaps := gapsAfter v b }

/-- Where the lane goes after a bundle: a loop whose count the loader does not follow runs at every count from 1 to its
maximum, a BREAK goes both ways (R190, R240, R291). -/
def successors (img e : Bytes) (v : VState) (w : W64) : List (Nat × List LoopFrame) :=
  let pc := v.t.pc
  match opOf w with
  | 0x3F => []
  | 0x10 =>
    let body := fld w 9 0
    let top := slotMax img e (fld w 32 27)
    let counts := if bit w 45 then (match followC v (fld w 36 33) with
        | some n => if top < n then [] else [n]
        | none => if top = 0 then [0] else (List.range top).map (· + 1))
      else [fld w 44 33 + 1]
    counts.map fun n => if n = 0 then nextBundle v.t.loops (pc + 1 + body) else (pc + 1, ⟨pc + 1, pc + 1 + body, n - 1⟩ :: v.t.loops)
  | 0x11 => [nextBundle v.t.loops pc, match v.t.loops with
      | f :: fs => nextBundle fs f.last
      | [] => nextBundle [] pc]
  | _ => [nextBundle v.t.loops pc]

/-- A macro's own pages: its output rows may not lie in a pool item's page (R230, R269); what is not followed is left to run
time (R293). -/
def macroChecks (img e : Bytes) (l : Nat) (v : VState) (w : W64) : List VFind :=
  let d := (imgLoops img e).getD (fld w 37 32) []
  let cnt := fun (i : Nat) => followC v (fld w 31 28 + i)
  let items := ([12, 13, 14, 15].filter fun r => (followA v r).isNone).map (fun r => vfind 0 v.t.pc (40 + r)) ++
    ((List.range 3).filter fun i => (cnt i).isNone).map fun i => vfind 0 v.t.pc (60 + i)
  items ++ match followA v 15, cnt 0, cnt 2 with
  | some a, some m, some n =>
    let out := if fld w 45 44 = 1 then 3 else fld w 16 15
    (List.range m).flatMap fun (i : Nat) => (List.range (ceilDiv n 128)).flatMap fun (j : Nat) =>
      let y := addr24 ((a : Int) + i * ldStride d 0 + j * ldStride d 1)
      findIf (poolHit img l y (128 * drainRowsOf out)) 0x0305 v.t.pc (y / 4096)
  | _, _, _ => []

/-- What a state of the loader finds at its bundle, and the states after it. A state after a late release is kept while
words or accesses of the ended section are still to come, and only its bank conflicts count (R290). -/
def followBundle (x : VLane) (v : VState) : List VFind × List VState :=
  let b := imgBundle x.img x.entry v.t.pc
  let w := slotOf b 0
  let op := opOf w
  let v0 := followOp v w
  let loopItem := findIf (op == 0x10 && bit w 45 && (followC v (fld w 36 33)).isNone) 0 v.t.pc 36
  let own := loopItem ++ (if op = 0x18 then macroChecks x.img x.entry x.lane v w else []) ++ orderChecks v0 b
  let starts := if op = 0x14 then (if v.late then [] else syncStates x v0) else [v0]
  let go := fun (y : VState) =>
    let z := pushBundle y b
    if op = 0x3F then ((settleAll x z).2, [])
    else if op = 0x18 then
      let r := settleAll x z
      (r.2, if y.late then [] else (successors x.img x.entry v w).map fun n =>
        { afterMacroV r.1 with t := { v0.t with pc := n.1, loops := n.2 } })
    else
      let r := settleBefore x z (advanceOf w)
      let z1 := shiftTime (advanceOf w) r.1
      (r.2, if y.late && sectionGone z1 then [] else
        (successors x.img x.entry v w).map fun n => { z1 with t := { v0.t with pc := n.1, loops := n.2 } })
  let all := starts.map fun y =>
    let r := go y
    ((if y.late then r.1.filter fun f => f.sub == 0x0503 else r.1), r.2)
  (own ++ all.flatMap (·.1), all.flatMap (·.2))

/-- Every state the loader reaches in a lane, breadth first, with registers narrowed to those every write followed. -/
def reachable (x : VLane) (ms : List (Option Mask)) : Nat → List VState → List VState → List VState
  | 0, _, seen => seen
  | _, [], seen => seen
  | fuel + 1, f :: fs, seen =>
    let new := (((f :: fs).flatMap fun v => if v.t.pc < leBundles x.entry then (followBundle x v).2 else []).map (narrow ms)).eraseDups.filter
      fun v => !seen.contains v
    reachable x ms fuel new (seen ++ new)

/-- The states of a lane under given masks. -/
def statesUnder (x : VLane) (ms : List (Option Mask)) : List VState := reachable x ms (2 ^ 200) [.start] [.start]

/-- The registers followed at each bundle in some states: those followed in all of them. -/
def masksOf (n : Nat) (vs : List VState) : List (Option Mask) :=
  vs.foldl (fun (ms : List (Option Mask)) v =>
    ms.set v.t.pc (some (match ms.getD v.t.pc none with | some m => meet m (maskOf v) | none => maskOf v)))
    (List.replicate n none)

/-- The masks under which the states follow exactly what every write that reaches their bundle lets them follow (R289). -/
def settleMasks (x : VLane) : Nat → List (Option Mask) → List (Option Mask)
  | 0, ms => ms
  | fuel + 1, ms =>
    let new := masksOf (leBundles x.entry) (statesUnder x ms)
    if new = ms then ms else settleMasks x fuel new

/-- The states the loader reaches in a lane. -/
def laneStates (x : VLane) : List VState :=
  statesUnder x (settleMasks x (65 * leBundles x.entry + 1) (List.replicate (leBundles x.entry) none))

/-- A lane of an image, with the pages to be watched. -/
def vlane (img : Bytes) (l : Nat) (watch : List Nat) : VLane := ⟨img, l, laneEntry img l, laneBundles img l, watch⟩

/-- The pages that move words of a lane write or mark, as (lane, page); none when one is not followed. -/
def laneMoves (img : Bytes) (l : Nat) : Option (List (Nat × Nat)) :=
  let x := vlane img l []
  (laneStates x).foldl (fun acc v =>
    let v0 := followOp v (slotOf (imgBundle img x.entry v.t.pc) 0)
    let w := slotOf (imgBundle img x.entry v.t.pc) 3
    match acc, (if validOf w then movePages img x.entry l (pushedWord v0 3 w) else some []) with
    | some ps, some qs => some (ps ++ qs)
    | _, _ => none) (some [])

/-- The pages of a lane whose markers the loader follows in time (R288 subcodes 0x0601 and 0x0602). DESIGN CHOICE (assumption
37): those that only scheduled accesses of the lane's own words mark; what a transfer moves is ordered by page tags alone,
and a pinned page keeps its tag. -/
def watched (img : Bytes) (l : Nat) : List Nat :=
  let e := laneEntry img l
  let moves := (presentLanes img).foldl (fun acc k => match acc, laneMoves img k with
    | some ps, some qs => some (ps ++ qs)
    | _, _ => none) (some ([] : List (Nat × Nat)))
  match moves with
  | none => []
  | some ps =>
    if (laneBundles img l).any fun b => opOf (slotOf b 0) == 0x18 then []
    else (ownedPages (lePagesLow e) (lePagesHigh e)).filter fun g =>
      !ps.contains (l, g) && !(poolPages img l).contains g && !(refPages img l).contains g

/-- What following a lane finds, items it cannot follow included. -/
def laneFinds (img : Bytes) (l : Nat) : List VFind :=
  let x := vlane img l (watched img l)
  ((laneStates x).flatMap fun v => (followBundle x v).1).eraseDups

end Sys2Proof.Machine
end

