-- ==== Sys2Proof/Machine/Verdict.lean ====
section
/-!
DEFINITION. The loader's verdict on an image (R287, R288): tokens and flags across lanes (subcodes 0x0603 to 0x0605), the
checks in the order of their subcodes, the items left to run time (R293) and the verify report (R294).
-/

namespace Sys2Proof.Machine

/-! ### Tokens and flags (0x0603 to 0x0605) -/

/-- The tokens an image's words and macros deliver: the lane and bundle, and the lane and token end (R251, R267). -/
def tokenSources (img : Bytes) : List ((Nat × Nat) × (Nat × Nat)) :=
  (presentLanes img).flatMap fun l => (laneBundles img l).zipIdx.flatMap fun b =>
    let w0 := slotOf b.1 0
    let w3 := slotOf b.1 3
    (if opOf w0 = 0x18 ∧ bit w0 13 then [((l, b.2), (fld w0 12 8, fld w0 7 5))] else []) ++
      (if validOf w3 ∧ classOf w3 ≤ 1 ∧ bit w3 24 then [((l, b.2), (fld w3 23 19, fld w3 18 16))] else [])

/-- The flags something in an image may set: the lane and bundle, and the lane and flag (R188, R189, R239). -/
def flagSources (img : Bytes) : List ((Nat × Nat) × (Nat × Nat)) :=
  (presentLanes img).flatMap fun l => (laneBundles img l).zipIdx.flatMap fun b =>
    let w0 := slotOf b.1 0
    let w3 := slotOf b.1 3
    (if opOf w0 = 0x13 ∧ bit w0 39 then [((l, b.2), (l, fld w0 45 40))] else []) ++
      (if opOf w0 = 0x12 ∧ bit w0 42 then [((l, b.2), (l, fld w0 26 21))] else []) ++
      (if validOf w3 ∧ classOf w3 = 3 then [((l, b.2), (fld w3 49 45, fld w3 55 50))] else [])

/-- The token ends the engine words of a bundle pop (R207). -/
def wordPops (b : BitVec 256) : List Nat :=
  [1, 2, 3].filterMap fun i => if validOf (slotOf b i) then tokenOf (slotOf b i) else none

/-- The token ends and the flags a SYNC names (R208). -/
def syncNames (w : W64) : List Nat × List Nat :=
  ((List.range 8).filter fun i => bit w (36 + i), ((List.range 16).filter fun j => bit w (18 + j)).map fun j => 16 * fld w 35 34 + j)

/-- A token is popped, or a SYNC waits, with no producer (0x0604). -/
def noProducer (toks flags : List (Nat × Nat)) (l : Nat) (b : BitVec 256) : Option Nat :=
  let w0 := slotOf b 0
  let n := syncNames w0
  let waits := n.1.map (fun i => toks.contains (l, i)) ++ n.2.map fun f => flags.contains (l, f)
  match (wordPops b).find? fun i => !toks.contains (l, i) with
  | some i => some i
  | none =>
    if opOf w0 = 0x14 then whenBad (!waits.isEmpty && (if bit w0 45 then waits.all (!·) else waits.any (!·))) (n.1.headD 0) else none

/-- How often bundle `i` runs in one iteration of a loop: the product of the counts of the loops within it around the
bundle; none when a counter or a BREAK settles one of them. -/
def timesIn (bs : List (BitVec 256)) (l : Nat × Nat) (i : Nat) : Option Nat :=
  ((laneLoops bs).filter fun m => decide (l.1 < m.1) && decide (m.2 ≤ l.2) && decide (m.1 < i) && decide (i ≤ m.2)).foldl
    (fun acc m => acc.bind fun n =>
      let w := slotOf (bs.getD m.1 0) 0
      if bit w 45 || (slice bs (m.1 + 1) (m.2 - m.1)).any (fun b => opOf (slotOf b 0) == 0x11) then none else some (n * (fld w 44 33 + 1)))
    (some 1)

/-- A count over the bundles of a loop body, each as often as it runs in an iteration. -/
def bodyCount (bs : List (BitVec 256)) (l : Nat × Nat) (f : Nat → BitVec 256 → Option Nat) : Option Nat :=
  ((bs.zipIdx.filter fun b => decide (l.1 < b.2) && decide (b.2 ≤ l.2))).foldl (fun acc b => acc.bind fun n =>
    (f b.2 b.1).bind fun k => if k = 0 then some n else (timesIn bs l b.2).map fun t => n + k * t) (some 0)

/-- Pops of a token end in a bundle; a SYNC that waits for any of several names pops a number nothing fixes. -/
def popsOf (k : Nat) (b : BitVec 256) : Option Nat :=
  let w := slotOf b 0
  let sync := opOf w == 0x14 && bit w (36 + k)
  if sync && bit w 45 then none else some ((wordPops b).count k + if sync then 1 else 0)

/-- The iterations of a loop when the LOOP bundle itself gives them. -/
def fixedCount (bs : List (BitVec 256)) (l : Nat × Nat) : Option Nat :=
  let w := slotOf (bs.getD l.1 0) 0
  if bit w 45 then none else some (fld w 44 33 + 1)

/-- What the producers matched with a loop body deliver to a token end per iteration (0x0603). DESIGN CHOICE (assumption
37): those in the body itself, when no other lane delivers to the end; or those in one loop body of another lane with the
same fixed count, when no other bundle delivers to it and nothing else of the lane pops it. -/
def matchedTokens (img : Bytes) (l : Nat) (body : Nat × Nat) (k : Nat) : Option Nat :=
  let bs := laneBundles img l
  let srcs := (tokenSources img).filter fun s => s.2 == (l, k)
  let inBody := fun (j : Nat × Nat) (s : (Nat × Nat) × (Nat × Nat)) => decide (j.1 < s.1.2) && decide (s.1.2 ≤ j.2)
  let delivered := fun (m : Nat) (j : Nat × Nat) =>
    bodyCount (laneBundles img m) j fun i _ => some (srcs.filter fun s => s.1 == (m, i)).length
  if srcs.any fun s => s.1.1 == l && inBody body s then (if srcs.all (fun s => s.1.1 == l) then delivered l body else none)
  else match srcs with
    | [] => none
    | s :: _ =>
      let m := s.1.1
      let other := (laneLoops (laneBundles img m)).find? fun j =>
        srcs.all (fun x => x.1.1 == m && inBody j x) && fixedCount (laneBundles img m) j == fixedCount bs body
      let only := bs.zipIdx.all fun b => (body.1 < b.2 && b.2 ≤ body.2) || popsOf k b.1 == some 0
      if m == l || !only || (fixedCount bs body).isNone then none else other.bind (delivered m)

/-- A loop body whose pops of a token end differ from what its matched producers deliver (0x0603). -/
def tokenImbalance (img : Bytes) (l i : Nat) (b : BitVec 256) : Option Nat :=
  let bs := laneBundles img l
  if opOf (slotOf b 0) ≠ 0x10 then none
  else
    let body := (i, i + 1 + fld (slotOf b 0) 9 0)
    (List.range 8).find? fun k => match bodyCount bs body fun _ c => popsOf k c with
      | some p => p != 0 && (matchedTokens img l body k).any (· != p)
      | none => false

/-- What the first run of a bundle waits for: of each group one name at least; a name is a token end, or a flag (`true`). -/
def bundleNeeds (b : BitVec 256) : List (List (Bool × Nat)) :=
  let w := slotOf b 0
  let n := syncNames w
  let names := n.1.map (fun i => (false, i)) ++ n.2.map fun f => (true, f)
  (wordPops b).map (fun i => [(false, i)]) ++
    if opOf w ≠ 0x14 then [] else if bit w 45 then (if names.isEmpty then [] else [names]) else names.map fun x => [x]

/-- The places that produce a name of a lane. -/
def producersOf (img : Bytes) (l : Nat) (name : Bool × Nat) : List (Nat × Nat) :=
  ((if name.1 then flagSources img else tokenSources img).filter fun s => s.2 == (l, name.2)).map (·.1)

/-- The groups of names that bundle `i` of a lane still waits for when every lane has come as far as `at0` says. -/
def openNeeds (img : Bytes) (at0 : List Nat) (l i : Nat) : List (List (Bool × Nat)) :=
  (bundleNeeds ((laneBundles img l).getD i 0)).filter fun g =>
    !g.any fun name => (producersOf img l name).any fun p => decide (p.2 < at0.getD p.1 0)

/-- How far every lane comes on its first way through its bundles. -/
def laneProgress (img : Bytes) : Nat → List Nat → List Nat
  | 0, at0 => at0
  | fuel + 1, at0 =>
    let new := (List.range 32).map fun l =>
      let n := if lanePresent img l then (laneBundles img l).length else 0
      ((List.range n).find? fun i => decide (at0.getD l 0 ≤ i) && !(openNeeds img at0 l i).isEmpty).getD n
    if new = at0 then at0 else laneProgress img fuel new

/-- The lanes that a lane's wait depends on: those of the producers of what it waits for. -/
def waitsOn (img : Bytes) (at0 : List Nat) (l : Nat) : List Nat :=
  ((openNeeds img at0 l (at0.getD l 0)).flatMap fun g => g.flatMap fun name => (producersOf img l name).map (·.1)).eraseDups

/-- The lanes reached along waits from some lanes. -/
def waitClosure (img : Bytes) (at0 : List Nat) : Nat → List Nat → List Nat
  | 0, ls => ls
  | fuel + 1, ls => waitClosure img at0 fuel (ls ++ ls.flatMap (waitsOn img at0)).eraseDups

/-- Waits for tokens or flags form a cycle across lanes (0x0605): the wait in the lowest lane, and the one it depends on
(R294). DESIGN CHOICE (assumption 37): the waits of each lane's first way through its bundles count. -/
def waitCycle (img : Bytes) : Option Finding :=
  let total := ((presentLanes img).map fun l => leBundles (laneEntry img l)).sum
  let at0 := laneProgress img (total + 1) (List.replicate 32 0)
  (presentLanes img).findSome? fun l =>
    let next := (List.range 32).find? fun m => m != l && (waitsOn img at0 l).contains m && (waitClosure img at0 32 [m]).contains l
    if at0.getD l 0 < leBundles (laneEntry img l) then
      next.map fun m => { finding 0x0605 l (at0.getD l 0) 0 (leCode (laneEntry img l) + 32 * at0.getD l 0) with
        otherLane := m
        otherBundle := at0.getD m 0 }
    else none

/-! ### The verdict -/

/-- What following every lane finds. -/
def allFinds (img : Bytes) : List (Nat × List VFind) := (presentLanes img).map fun l => (l, laneFinds img l)

/-- The finding of a subcode in a lane at its lowest bundle (R287). -/
def lowestFind (img : Bytes) (l : Nat) (fs : List VFind) (sub : Nat) : Option Finding :=
  ((fs.filter fun f => f.sub == sub).foldl (fun acc f => match acc with
    | none => some f
    | some g => if f.bundle < g.bundle then some f else some g) none).map fun f =>
      { finding sub l f.bundle f.detail (leCode (laneEntry img l) + 32 * f.bundle) with
        otherLane := if f.other.isSome then l else 0xFF
        otherBundle := f.other.getD 0 }

/-- The finding of a subcode in the lowest lane. -/
def lowestOfSub (img : Bytes) (fs : List (Nat × List VFind)) (sub : Nat) : Option Finding :=
  fs.findSome? fun p => lowestFind img p.1 p.2 sub

/-- The subcodes from 0x0201 to 0x0304 (R287). -/
def verifyTables (img : Bytes) : Option Finding :=
  let lanes := presentLanes img
  let e := laneEntry img
  firstBundle img 0x0201 (fun _ _ b => whenBad (badCode b) 0) <|>
  firstBundle img 0x0202 (fun _ _ b => whenBad (badReserved b) 0) <|>
  firstBundle img 0x0203 (fun l i b => whenBad (badEnd (leBundles (e l)) i b) 0) <|>
  (match imgSection img 2 with
   | some s => imgFail (decide (61 < s.1)) 0x0204 s.2
   | none => none) <|>
  firstBundle img 0x0205 (fun _ _ b => whenBad (validOf (slotOf b 3) && classOf (slotOf b 3) == 3 && decide (fld (slotOf b 3) 55 50 < 32)) 0) <|>
  (lanes.findSome? fun l =>
    laneBundle img 0x0206 (fun _ _ b => (namedLanes b).find? fun m => !lanePresent img m) l <|> laneXfer img 0x0206 (xferAbsent img) l) <|>
  firstBundle img 0x0301 (fun l i b => whenBad (opOf (slotOf b 0) == 0x10 && decide (8 ≤ loopDepth (laneLoops (laneBundles img l)) i)) 0) <|>
  firstBundle img 0x0302 (fun l i b => whenBad (opOf (slotOf b 0) == 0x10 &&
    bodyBad (laneBundles img l) (laneLoops (laneBundles img l)) (i, i + 1 + fld (slotOf b 0) 9 0)) 0) <|>
  (lanes.findSome? fun l =>
    ((imgLoops img (e l)).zipIdx.findSome? fun p =>
      if descBad p.1 then some (finding 0x0303 l 0 p.2 (leLoopOff (e l) + 64 * p.2)) else none) <|>
    laneBundle img 0x0303 (fun m _ b => whenBad ((namedDescs b).1.any (fun j => decide (leLoopCount (e m) ≤ j)) ||
      (namedDescs b).2.any fun j => decide (leXferCount (e m) ≤ j)) 0) l) <|>
  lanes.findSome? fun l =>
    (if manifestBad img (e l) then some (finding 0x0304 l 0 0 (leManOff (e l))) else none) <|>
    laneBundle img 0x0304 (fun m _ b => badSlot img (e m) b) l

/-- The subcodes from 0x0305 on, with what following the lanes found (R287, R288). -/
def verifyFlow (img : Bytes) (fs : List (Nat × List VFind)) : Option Finding :=
  let e := laneEntry img
  let flow := lowestOfSub img fs
  let toks := (tokenSources img).map (·.2)
  let flags := (flagSources img).map (·.2)
  (fs.findSome? fun p =>
    (if poolBad img p.1 then some (finding 0x0305 p.1 0 0 (lePoolOff (e p.1))) else none) <|> lowestFind img p.1 p.2 0x0305) <|>
  badRefs img <|> (presentLanes img).findSome? (laneXfer img 0x0307 xferBad) <|> flow 0x0401 <|> flow 0x0402 <|>
  firstBundle img 0x0403 (fun l _ b =>
    let w1 := slotOf b 1
    let w2 := slotOf b 2
    let m1 := if bit w1 32 then slotMax img (e l) (fld w1 22 17) else fld w1 31 23 + 1
    let m2 := if bit w2 44 then slotMax img (e l) (fld w2 34 29) else fld w2 43 35 + 1
    whenBad ((validOf w1 && mxOpOf w1 == 1 && decide (512 < fld w1 41 33 + m1)) ||
      (validOf w2 && classOf w2 == 6 && decide (512 < fld w2 53 45 + m2))) 0) <|>
  flow 0x0404 <|>
  firstBundle img 0x0405 (fun l _ b => (slotUses b).findSome? fun u =>
    u.2.2.bind fun lim => whenBad (decide (lim < slotMax img (e l) u.1)) u.1) <|>
  flow 0x0501 <|> flow 0x0502 <|> flow 0x0503 <|> flow 0x0504 <|> flow 0x0505 <|> flow 0x0506 <|> flow 0x0507 <|> flow 0x0601 <|>
  flow 0x0602 <|> firstBundle img 0x0603 (tokenImbalance img) <|>
  firstBundle img 0x0604 (fun l _ b => noProducer toks flags l b) <|> waitCycle img

/-- The loader's verdict on an image, for a context that may hold `pages` pages on a core (R287). -/
def verify (img : Bytes) (pages : Nat) : Option Finding :=
  badImage img pages <|> verifyTables img <|> verifyFlow img (allFinds img)

/-- The items of an image left to run time (R293). Of a rejected image, at whose first failure the loader stops, the spec
does not state the total: the command's operand (DESIGN CHOICE, assumption 37). -/
def unprovenOf (img : Bytes) (f : Option Finding) (told : Nat) : Nat :=
  if f.isSome then told % 2 ^ 32
  else ((allFinds img).map fun p => (((p.2.filter fun x => x.sub == 0).map fun x => (x.bundle, x.detail)).eraseDups).length).sum

/-- The verify report (R294). -/
def verifyReport (f : Option Finding) (unproven : Nat) : Bytes :=
  match f with
  | none => toLe 2 0 ++ toLe 1 0xFF ++ toLe 1 0xFF ++ toLe 4 0 ++ toLe 4 0 ++ toLe 4 0 ++ toLe 8 0 ++ toLe 4 unproven ++ toLe 4 0
  | some x => toLe 2 x.subcode ++ toLe 1 x.lane ++ toLe 1 x.otherLane ++ toLe 4 x.bundle ++ toLe 4 x.otherBundle ++
      toLe 4 x.detail ++ toLe 8 x.offset ++ toLe 4 unproven ++ toLe 4 0

end Sys2Proof.Machine
end

