-- ==== Sys2Proof/Machine/Loader.lean ====
section
/-!
DEFINITION. LOAD_PROGRAM and the loading of an accepted image at a batch boundary (R284 to R286, R294).
-/

namespace Sys2Proof.Machine

/-- An entry of ring `q` before the one at `idx` is open and passes a test. -/
def earlierOpen (s : State) (q idx : Nat) (p : Bytes → Bool) : Bool :=
  ((ringAt s q).entries.takeWhile fun e => e.index != idx).any fun e => entryOpen e && p e.bytes

/-- The work area an accepted image will use: the context's, when it is large enough, or a new one, for which the
candidate set may be evicted (R327). -/
def workFor (s : State) (c : Nat) (img : Bytes) : State × Option Nat :=
  let x := ctxAt s c
  match x.image with
  | some old => if imgWorkBytes img ≤ imgWorkBytes old then (s, some x.workBase) else allocEvict s c (imgWorkBytes img)
  | none => allocEvict s c (imgWorkBytes img)

/-- An image copied, verified and reported on (R284): a rejected one changes nothing else (R286). -/
def loadImage (s : State) (q idx c src report n told : Nat) : State :=
  match allocCtx s c n with
  | none => finishEntry s q idx 0x22 (shortKiB s c n)
  | some copy =>
    let s1 := hbmWrite s copy (hbmRead s src n)
    let img := hbmRead s1 copy n
    let found := verify img (ctxAt s c).pages
    let s2 := hbmWrite s1 report (verifyReport found (unprovenOf img found told))
    match found with
    | some f => finishEntry s2 q idx 0x10 f.subcode
    | none =>
      if (ctxAt s c).lanes < (presentLanes img).length then finishEntry s2 q idx 0x41 (ctxStateCode (ctxAt s c))
      else
      let short := shortKiB s2 c (n + imgWorkBytes img)
      match workFor (modCtx s2 c fun x => { x with newImage := some (img, copy, hbmEnd) }) c img with
      | (s3, some w) => modCtx s3 c fun x => { x with newImage := some (img, copy, w) }
      | (s3, none) => finishEntry (modCtx s3 c fun x => { x with newImage := none }) q idx 0x22 short

/-- The image's units corrected as they are read (R354). -/
def copyCorrected (s : State) (src : Nat) (us : List Nat) : State := us.foldl (fun t u => hbmCorrected t (src / 32 + u)) s

/-- LOAD_PROGRAM (R284): steps 1 to 4. An accepted image waits for PROGRAM_INSTALL. -/
def execLoadProgram (q : Nat) (ecc : Ecc) (unproven : Nat) (s : State) : Res :=
  .next (named s q 0x01 fun s1 e c =>
    let x := ctxAt s1 c
    let src := rdLe e.bytes 8 8
    let report := rdLe e.bytes 0x10 8
    let n := max (rdLe (hbmRead s1 src 256) 0x18 8) 256
    if !x.configured then finishEntry s1 q e.index 0x41 0
    else if x.newImage.isSome then s1
    else if hbmBad s1 src 256 then finishEntry s1 q e.index 0x40 8
    else if up4k x.hbmBytes < n then finishEntry s1 q e.index 0x22 (shortKiB s1 c n)
    else if !inUserHbm src n || hbmBad s1 src n then finishEntry s1 q e.index 0x40 8
    else match ecc with
      | .clean => loadImage (setRunning s1 q e) q e.index c src report n unproven
      | .corrected us => loadImage (setRunning (copyCorrected s1 src us) q e) q e.index c src report n unproven
      | .uncorrectable u us =>
        finishEntry (hbmUncorrected (copyCorrected s1 src us) (src / 32 + u) false) q e.index 0x40 8)

/-- The pages a lane of an image owns. -/
def lanePages (img : Bytes) (l : Nat) : List Nat := ownedPages (lePagesLow (laneEntry img l)) (lePagesHigh (laneEntry img l))

/-- A placed context keeps its cores under a new image: the same lanes, and pages that no other context owns and that
have been zeroed (R173, R481, R617). -/
def keepsCores (s : State) (c : Nat) (img : Bytes) : Bool :=
  let x := ctxAt s c
  !x.placed.isEmpty && x.placed.map (·.1) == presentLanes img &&
    x.placed.all fun p => (blockers s c p.2 (lanePages img p.1)).isEmpty &&
      (lanePages img p.1).all fun g => (ctxPages s c p.2).contains g || tagOf (coreAt s p.2).sp g == 0

/-- The pages of a context on core `k` under a new image: those it no longer owns are zeroed, and the pinned ones it
keeps are unpinned (R173, R230). -/
def repage (s : State) (c k : Nat) (img : Bytes) (l : Nat) : State :=
  let old := ctxPages s c k
  let gone := old.filter fun g => !(lanePages img l).contains g
  let kept := old.filter fun g => (lanePages img l).contains g && tagPinned (tagOf (coreAt s k).sp g)
  modCore (lockPages s k gone) k fun d => { d with sp := mapTags d.sp (fun t => BitVec.ofNat 8 (nfld t.toNat 4 3 * 8)) kept }

/-- PROGRAM_INSTALL (R284, R286): step 5, at a batch boundary of the context, after the batches its ring put before
it. -/
def execProgramInstall (c : Nat) (s : State) : Res :=
  .next (
    let x := ctxAt s c
    match x.newImage, runningEntry s 0x01 c fun _ => true with
    | some n, some p =>
      if x.batch.isSome || earlierOpen s p.1 p.2 (fun b => enOp b == 0x10 && enCtx b == c) then s
      else
        let keep := keepsCores s c n.1
        let s1 := if keep then x.placed.foldl (fun t l => repage t c l.2 n.1 l.1) s else unplace s c
        let s2 := modCtx s1 c fun y => { unresident y with
          image := some n.1
          newImage := none
          copyBase := n.2.1
          workBase := n.2.2 }
        let s3 := if keep then x.placed.foldl (fun t l => loadBank t c l.2 l.1) s2 else s2
        finishEntry s3 p.1 p.2 0 0
    | _, _ => s)

end Sys2Proof.Machine
end

