-- ==== Sys2Proof/Machine/Security.lean ====
section
/-!
DEFINITION. Boot images and boot-select records (R394 to R396, R568 to R571), attestation (R572, R573, R576), debug
sessions and the JTAG port (R577 to R580, R586).
-/

namespace Sys2Proof.Machine

/-- A byte string cut or filled with zeros to a length. -/
def fitBytes (n : Nat) (bs : Bytes) : Bytes := (List.range n).map fun i => bs.getD i 0

/-- The part has power (R615). -/
def powered (s : State) : Bool := s.pw.phase != .off

/-! ### Boot images (R568, R569) -/

/-- Fields of an image header (R568). -/
def fwKeySlot (b : Bytes) : Nat := rdLe b 6 1
def fwRevoke (b : Bytes) : Nat := rdLe b 7 1
def fwBytes (b : Bytes) : Nat := rdLe b 8 4
def fwVersion (b : Bytes) : Nat := rdLe b 0x0C 4
def fwSecurity (b : Bytes) : Nat := rdLe b 0x10 8

/-- The image digest D (R568). -/
def fwDigest (b : Bytes) : Bytes := Config.sha512 (slice b 0 0x60 ++ slice b 0xA0 (fwBytes b - 0xA0))

/-- The flash offset of a boot copy (R372). -/
def copyBase (copy : Bool) : Nat := if copy then 0x100000 else 0

/-- The sectors of a boot copy. -/
def copySectors (copy : Bool) : List Nat := (List.range 16).map fun i => copyBase copy / 65536 + i

/-- Bytes of a boot copy. DESIGN CHOICE: those of a word beyond correction are free values (assumption 42). -/
def romBytes (f : Flash) (a n : Nat) : Bytes :=
  (List.range n).map fun i => if wornBad f (a + i) 1 then Config.badWordByte (a + i) else flashByte f (a + i)

/-- The image in a boot copy: its header, and all of it when its length is in range. -/
def copyImage (f : Flash) (copy : Bool) : Bytes :=
  let head := romBytes f (copyBase copy) 256
  if 256 ≤ fwBytes head ∧ fwBytes head ≤ 1048576 then romBytes f (copyBase copy) (fwBytes head) else head

/-- The check of R569 that an image fails first, or 0: check 0x1 looks at the sectors given. -/
def imageCheck (s : State) (b : Bytes) (sectors : List Nat) : Nat :=
  if sectors.any s.flash.incomplete.contains then 1
  else if rdLe b 0 4 ≠ 0x57464241 ∨ rdLe b 4 2 ≠ 1 ∨ 15 < fwRevoke b ∨ (slice b 0x18 40).any (· != 0) ∨
      (slice b 0xA0 96).any (· != 0) then 2
  else if fwBytes b < 256 ∨ 1048576 < fwBytes b then 3
  else if s.sc.revoked.toNat.testBit (fwKeySlot b) ∨ (fwRevoke b).testBit (fwKeySlot b) then 4
  else if 3 < fwKeySlot b ∨ Config.sha512 (slice b 0x40 32) ≠ Config.keyDigest (fwKeySlot b) then 5
  else if fwSecurity b < s.sc.rollback ∨ 64 < fwSecurity b then 6
  else if !Config.ed25519Verify (slice b 0x40 32) (fwDigest b) (slice b 0x60 64) then 7
  else 0

/-! ### Boot-select records (R394 to R396) -/

/-- The record in page `p` of the BOOT_SELECT area, as (seq, page, copy), if it is valid and its sector is not
ERASE_INCOMPLETE. -/
def bootRecord (f : Flash) (p : Nat) : Option (Nat × Nat × Bool) :=
  let b := flashBytes f (0x200000 + 512 * p) 512
  let cell := slice b 0 32
  let read := !wornBad f (0x200000 + 512 * p) 32 && !wornBad f (0x200000 + 512 * p + 256) 32
  let good := cell == slice b 256 32 && rdLe cell 0 4 == 0x4C455342 && decide (rdLe cell 8 1 ≤ 1)
  if read && good && !f.incomplete.contains (32 + p / 128) then
    some (rdLe cell 4 4, p, rdLe cell 8 1 == 1)
  else none

/-- The active record: the valid one with the highest sequence number. -/
def activeRecord (f : Flash) : Option (Nat × Nat × Bool) :=
  ((List.range 256).filterMap (bootRecord f)).foldl (fun m r => match m with
    | some x => if x.1 < r.1 then some r else some x
    | none => some r) none

/-- A page of the BOOT_SELECT area is blank. -/
def blankRecord (f : Flash) (p : Nat) : Bool :=
  (flashBytes f (0x200000 + 512 * p) 512).all (· == 0xFF) && !f.incomplete.contains (32 + p / 128)

/-- A sector erased by firmware, with the wear entry of R400. -/
def fwErase (s : State) (sector : Nat) : State :=
  let s1 := { s with flash := flashErase s.flash sector }
  if look s1.flash.eraseCount sector 0 = 10000 then
    logAdd { s1 with flash := { s1.flash with wear := s1.flash.wear + 1 } }
      { logEntry 0 7 0x0304 1 with inst := sector / 1024, address := sector * 65536 }
  else s1

/-- A boot-select record of a copy programmed (R396): after the active record's page, or in page 0 of the other sector
once it is erased. -/
def writeBootRecord (s : State) (copy : Bool) : State :=
  let act := activeRecord s.flash
  let page := (act.map fun r => r.2.1).getD 0
  let last := page / 128 * 128 + 128
  let cell := toLe 4 0x4C455342 ++ toLe 4 (((act.map (·.1)).getD 0) + 1) ++ [if copy then 1 else 0] ++ List.replicate 23 0
  let rec1 := cell ++ List.replicate 224 0xFF ++ cell ++ List.replicate 224 0xFF
  match ((List.range (last - page)).map (page + ·)).find? (blankRecord s.flash) with
  | some p => { s with flash := flashProgram s.flash (0x200000 + 512 * p) rec1 }
  | none =>
    let other := 128 - page / 128 * 128
    let s1 := fwErase s (32 + other / 128)
    { s1 with flash := flashProgram s1.flash (0x200000 + 512 * other) rec1 }

/-- The commit of the running image (R492, R571): the fuses first, then the record. -/
def commitImage (s : State) : State :=
  let b := s.host.upd.runningImage
  let s1 := { s with sc := { s.sc with
    rollback := max s.sc.rollback (fwSecurity b)
    revoked := s.sc.revoked ||| BitVec.ofNat 4 (fwRevoke b) } }
  let s2 := writeBootRecord s1 s1.host.upd.bootCopy
  { s2 with host := { s2.host with upd := { s2.host.upd with trial := false } } }

/-! ### Attestation (R572, R573, R576) -/

/-- The four items of the compound device identifier (R572). -/
def cdiItems (s : State) (image : Bytes) : Bytes :=
  fitBytes 64 Config.romMeasurement ++ fitBytes 64 (fwDigest image) ++ [s.sc.lifecycle.setWidth 8, BitVec.ofNat 8 s.sc.rollback]

/-- SC_DEBUG bits [30:28]. -/
def debugOpen (s : State) : Nat := (if s.sc.silicon then 4 else 0) + (if s.sc.firmware then 2 else 0) + if s.sc.observe then 1 else 0

/-- The attestation report for a nonce (R573); keys and signatures are 0 where no keys are derived (R576). -/
def attestReport (s : State) (nonce : Bytes) : Bytes :=
  let run := s.host.upd.runningImage
  let keys := s.sc.identityValid
  let when0 := fun (n : Nat) (b : Bytes) => if keys then fitBytes n b else List.replicate n 0
  let middle := fitBytes 64 Config.romMeasurement ++ fitBytes 64 (fwDigest s.host.upd.bootImage) ++
    when0 32 (Config.aliasKey s.sc.cdi) ++ when0 32 Config.deviceIdKey
  let body := toLe 4 0x54535441 ++ toLe 2 1 ++ [s.sc.lifecycle.setWidth 8] ++
    toLe 1 ((if s.sc.debugged then 1 else 0) + if s.host.upd.trial then 2 else 0) ++ toLe 4 (fwVersion run) ++
    toLe 1 (if s.host.upd.bootCopy then 1 else 0) ++ toLe 1 (debugOpen s) ++ [0, 0] ++ toLe 8 (fwSecurity run) ++
    toLe 8 s.sc.rollback ++ fitBytes 32 nonce ++ middle ++
    when0 64 (Config.deviceIdSign (Config.sha512 middle)) ++ fitBytes 64 s.calico.digest
  body ++ when0 64 (Config.aliasSign s.sc.cdi (Config.sha512 body))

/-! ### Debug sessions (R577, R586) -/

/-- HI_DBG_OPEN written (R586). -/
def writeDbgOpen (s : State) (v : W32) : State :=
  let s1 := if v.toNat.testBit 0 then { s with sc := { s.sc with observe := true, debugged := true } } else s
  if v.toNat.testBit 1 then { s1 with sc := { s1.sc with observe := false } } else s1

/-- HI_DBG_OPEN_OPEN (R586). -/
def execDbgOpenOpen (s : State) : Res := .next (writeDbgOpen s 1)

/-- HI_DBG_OPEN_CLOSE (R586). -/
def execDbgOpenClose (s : State) : Res := .next (writeDbgOpen s 2)

/-! ### The JTAG port (R578, R579) -/

/-- An instruction loaded, and what it shifts out; the port is dead without power (R609). -/
def jtag (s : State) (ir : Nat) (out : Bytes) : State :=
  if powered s then { s with sc := { s.sc with jtagIr := BitVec.ofNat 8 ir, tdo := out } } else s

/-- An instruction that selects the one-bit bypass register, which captures 0 (R578). -/
def jtagBypass (s : State) (ir : Nat) : State := jtag s ir [0]

/-- EXTEST (R578): the boundary register drives the pins and is shifted out. -/
def execExtest (s : State) : Res := .next (jtag s 0x00 (toLe 4 s.sc.boundary))

/-- SAMPLE/PRELOAD (R578): the boundary register captures the pins' levels, free values; cells of domains powered off
in Felt are among them. -/
def execSamplePreload (s : State) : Res :=
  .next (if powered s then
    let v := (Config.freeWord s.freeCtr 0).toNat
    jtag { nextEpoch s with sc := { s.sc with boundary := v } } 0x01 (toLe 4 v)
  else s)

/-- IDCODE (R578). -/
def execIdcode (s : State) : Res := .next (jtag s 0x02 (toLe 4 (0x0320 * 2 ^ 12 + Config.jedec.toNat * 2 + 1)))

/-- CLAMP (R578). -/
def execClamp (s : State) : Res := .next (jtagBypass s 0x03)

/-- HIGHZ (R578). -/
def execHighz (s : State) : Res := .next (jtagBypass s 0x04)

/-- BYPASS (R578). -/
def execBypass (s : State) : Res := .next (jtagBypass s 0xFF)

/-- TAP_RESET (R577): the instruction register holds IDCODE; sessions stay open. -/
def execTapReset (s : State) : Res :=
  .next (if powered s then { s with sc := { s.sc with jtagIr := 0x02, tdo := [] } } else s)

/-- SC_STATUS (R582). -/
def scStatus (s : State) : Nat :=
  let x := s.sc
  let b := fun (c : Bool) (i : Nat) => if c then 2 ^ i else 0
  x.lifecycle.toNat * 2 ^ 30 + b x.identityValid 29 + b x.decomDone 28 + x.revoked.toNat * 2 ^ 24 +
    x.unlockFailures.toNat * 2 ^ 8 + x.rollback % 128

/-- SC_DEBUG (R584). -/
def scDebug (s : State) : Nat := (if s.sc.debugged then 2 ^ 31 else 0) + debugOpen s * 2 ^ 28

/-- DBG_STATUS (R578): SC_DEBUG, then SC_STATUS. -/
def execDbgStatus (s : State) : Res := .next (jtag s 0x10 (toLe 4 (scDebug s) ++ toLe 4 (scStatus s)))

/-- The 96-byte challenge of a level (R579). -/
def challengeBytes (s : State) (level : BitVec 2) (random : Bytes) : Bytes :=
  [0x44, 0x42, 0x47, 0x43, level.setWidth 8, s.sc.lifecycle.setWidth 8, 0, 0] ++ fitBytes 32 random ++
    (if s.sc.lifecycle = 2 then List.replicate 32 0 else fitBytes 32 Config.deviceIdKey) ++ List.replicate 24 0

/-- A session of a level opens (R577). -/
def openLevel (x : Sc) (level : BitVec 2) : Sc :=
  { x with
    debugged := true
    firmware := x.firmware || level == 2
    silicon := x.silicon || level == 3 }

/-- DBG_CHALLENGE (R578, R579): in MANUFACTURE it opens the level at once. -/
def execDbgChallenge (level : BitVec 2) (random : Bytes) (s : State) : Res :=
  .next (
    if !powered s then s
    else if level = 2 ∨ (level = 3 ∧ s.sc.lifecycle = 0) then
      let c := challengeBytes s level random
      let s1 := jtag s 0x11 c
      if s.sc.lifecycle = 0 then { s1 with sc := { openLevel s1.sc level with challenge := none } }
      else { s1 with sc := { s1.sc with challenge := some (level, c) } }
    else jtagBypass s 0x11)

/-- DBG_RESPONSE (R578, R579): good for one response; a failed one is counted, and after four every response fails. -/
def execDbgResponse (key sig : Bytes) (inTime : Bool) (s : State) : Res :=
  .next (
    match (if powered s then s.sc.challenge else none) with
    | none => jtagBypass s 0x12
    | some c =>
      let s1 := jtag { s with sc := { s.sc with challenge := none } } 0x12 []
      let known := (List.range 4).any fun k => !s.sc.revoked.toNat.testBit k && Config.sha512 key == Config.keyDigest k
      if inTime && decide (s.sc.unlockFailures.toNat < 4) && known && Config.ed25519Verify key (Config.sha512 c.2) sig then
        { s1 with sc := openLevel s1.sc c.1 }
      else { s1 with sc := { s1.sc with unlockFailures := if s.sc.unlockFailures.toNat < 4 then s.sc.unlockFailures + 1 else 4 } })

/-- DBG_CLOSE (R577, R578): FIRMWARE and SILICON sessions end, and with them the hold on the processors. -/
def execDbgClose (s : State) : Res :=
  .next (if powered s then
    let s1 := jtag s 0x13 []
    { s1 with
      sc := { s1.sc with
        firmware := false
        silicon := false
        fwHalted := false }
      pw := { s1.pw with wdtSince := if s.sc.fwHalted then s.timeUs else s1.pw.wdtSince } }
  else s)

/-- FW_ACCESS (R578, R580): the scheduler processors' debug port, which may hold one halted; the firmware watchdog is
suspended meanwhile and restarts in full (R589). -/
def execFwAccess (halt : Bool) (s : State) : Res :=
  .next (
    if s.sc.firmware then
      let s1 := jtag s 0x20 []
      if powered s then { s1 with
        sc := { s1.sc with fwHalted := halt }
        pw := { s1.pw with wdtSince := if s.sc.fwHalted && !halt then s.timeUs else s1.pw.wdtSince } }
      else s1
    else jtagBypass s 0x20)

/-- SCAN (R578, R580): internal scan, in Active only; what the chains hold is a free value. -/
def execScan (s : State) : Res :=
  .next (if s.sc.silicon && s.pw.phase == .active then jtag (nextEpoch s) 0x30 [Config.freeByte s.freeCtr 0] else jtagBypass s 0x30)

end Sys2Proof.Machine
end

