-- ==== Sys2Proof/Machine/Power.lean ====
section
/-!
DEFINITION. Clocks and the core divider (R533 to R537), low-power entry, wake and exit (R544 to R554), and the passing
of time.
-/

namespace Sys2Proof.Machine

/-! ### The core divider (R534 to R536) -/

/-- The effective divider: the slowest of the request and the two limits (R534). -/
def effectiveDiv (p : Pw) : BitVec 2 :=
  BitVec.ofNat 2 (max p.reqDiv.toNat (max p.capLimit.toNat p.thermalLimit.toNat))

/-- The core supply of a divider, in millivolts (R535). -/
def coreVolts (d : BitVec 2) : Nat := [850, 780, 750, 700].getD d.toNat 850

/-- The divider and the core supply follow the effective divider: a slower one at once, then the lower voltage; for a faster
one the voltage first, and the divider when the rail has settled (R534, R535). In Felt the rail stays at its retention level
(R613). -/
def redivide (p : Pw) : Pw :=
  let d := effectiveDiv p
  let volts := match p.phase with
    | .felt => p.vddCore
    | .exiting true => p.vddCore
    | _ => coreVolts d
  if p.curDiv.toNat < d.toNat then { p with curDiv := d, pendingDiv := none, vddCore := volts }
  else if d.toNat < p.curDiv.toNat then { p with pendingDiv := some d, vddCore := volts }
  else { p with pendingDiv := none, vddCore := volts }

/-- PW_DVFS_WRITE (R534, R560). -/
def execPwDvfsWrite (v : W32) (s : State) : Res :=
  .next (if powered s then { s with pw := redivide { s.pw with reqDiv := BitVec.ofNat 2 (v.toNat % 4) } } else s)

/-- RAIL_SETTLED (R535): the rail stands at the voltage of the faster divider, which takes effect. -/
def execRailSettled (s : State) : Res :=
  .next (match s.pw.pendingDiv with
    | some d => { s with pw := { s.pw with
        curDiv := d
        pendingDiv := none } }
    | none => s)

/-- The cap in force, in watts (R561). -/
def capWatts (p : Pw) : Nat := max 75 (min 240 p.cap.toNat)

/-- POWER_SAMPLE (R536): MG_POWER_TOTAL, in 1/8 W, against the cap. The counts start again when the limit moves. -/
def execPowerSample (s : State) : Res :=
  .next (
    let p := s.pw
    let w := (s.mg.powers.getD 0 0).toNat
    let hot := decide (8 * capWatts p < w)
    let cool := decide (10 * w < 9 * 8 * capWatts p)
    let up := if hot then p.above + 1 else 0
    let dn := if cool then p.below + 1 else 0
    if !powered s then s
    else if 2 ≤ up ∧ p.capLimit.toNat < 3 then
      { s with pw := redivide { p with
        capLimit := p.capLimit + 1
        above := 0
        below := 0
        capExceeded := false } }
    else if 10 ≤ dn ∧ 0 < p.capLimit.toNat then
      { s with pw := redivide { p with
        capLimit := p.capLimit - 1
        above := 0
        below := 0
        capExceeded := false } }
    else { s with pw := { p with
      above := min up 2
      below := min dn 10
      capExceeded := hot && p.curDiv == 3 } })

/-! ### Temperature (R537, R562) -/

/-- The alarm in force: not above the grade's maximum junction temperature (R562). -/
def alarmCode (p : Pw) : Nat := min p.alarm.toNat (if Config.gradeX then 0xA9 else 0x9F)

/-- A sensor stands at or above the alarm; a code of 0 is no sample (R510). -/
def alarmed (s : State) : Bool := s.mg.temps.any fun t => t != 0 && decide (alarmCode s.pw ≤ t.toNat)

/-- Every sensor has fallen below the alarm less the hysteresis. -/
def cooled (s : State) : Bool := s.mg.temps.all fun t => decide (t.toNat + s.pw.hysteresis.toNat < alarmCode s.pw)

/-- THERMAL_STEP (R537). -/
def execThermalStep (s : State) : Res :=
  .next (
    let p := s.pw
    if !powered s then s
    else if alarmed s && p.phase == .active && decide (p.thermalLimit.toNat < 3) then
      { s with pw := redivide { p with thermalLimit := p.thermalLimit + 1 } }
    else if cooled s && decide (0 < p.thermalLimit.toNat) then { s with pw := redivide { p with thermalLimit := p.thermalLimit - 1 } }
    else s)

/-- TELEMETRY_SAMPLE (R511): in Felt only sensor 7 and the package power. -/
def execTelemetrySample (temps : List Byte) (total core hbm : W16) (s : State) : Res :=
  .next (
    if !powered s then s
    else if s.pw.phase = .felt then { s with mg := { s.mg with
      temps := s.mg.temps.set 7 (temps.getD 7 0)
      powers := s.mg.powers.set 0 total } }
    else { s with mg := { s.mg with
      temps := (List.range 8).map fun i => temps.getD i 0
      powers := [total, core, hbm] } })

/-! ### Dispatch and the states -/

/-- Dispatch resumes, unless firmware does not run, HBM is not trained, an error holds it or an update does (R358, R539,
R548, R588). -/
def resumeDispatch (s : State) : State :=
  { s with host := { s.host with dispatch := s.host.fwReady && s.hbm.trained == 3 && !s.log.fatal && !s.host.upd.handover } }

/-- The result of a power request, with its alert (R513, R523, R556). -/
def powerResult (s : State) (r : Nat) : State :=
  raiseAlert { s with pw := { s.pw with result := BitVec.ofNat 4 r } } 0x20

/-- An accepted request that has been carried out (R523). -/
def powerDone (s : State) : State := if s.pw.result = 1 then powerResult s 2 else s

/-- The wake port is the first lane of a port of the mode, out of reset (R440). -/
def wakePortOk (s : State) : Bool :=
  !s.net.wakeEnable || (portInMode s.net.mode s.net.wakePort.toNat && !s.net.portReset.toNat.testBit s.net.wakePort.toNat)

/-- LOAD_WEIGHTS entries that a Felt entry abandoned complete (R331). -/
def endAborted (s : State) : State :=
  let s1 := s.pw.abortLoads.foldl (fun t q => match (ringAt t q).entries.find? fun e => e.stage == .running && enOp e.bytes == 0x02 with
    | some e => finishEntry t q e.index 0x25 0
    | none => t) s
  { s1 with pw := { s1.pw with abortLoads := [] } }

/-- The stream engine accepts frames again (R548, R554). -/
def acceptFrames (s : State) : State := { s with net := { s.net with dropping := s.log.fatal } }

/-- MOD_LPMODE of every module: asserted for a cage that does not carry the wake port when `felt`, else as its bring-up
left it (R443, R547). -/
def setLpModes (s : State) (felt : Bool) : State :=
  let keep := if s.net.wakeEnable then [cageOf s s.net.wakePort.toNat] else []
  { s with net := { s.net with cages := s.net.cages.zipIdx.map fun p =>
      { p.1 with lpMode := if felt && !keep.contains p.2 then true else p.1.present && !p.1.active } } }

/-- An entry abandoned at abort point `ap`: the steps completed are undone in reverse order (R548, R549). -/
def abandonEntry (s : State) (felt : Bool) (ap : Nat) : State :=
  let s5 := if felt && decide (5 ≤ ap) then
      setLpModes { s with
        net := { s.net with ptpRuns := true }
        pw := { s.pw with timerArmed := false } } false
    else s
  let s4 := if felt && decide (4 ≤ ap) then { s5 with hbm := { s5.hbm with srState := [0, 0] } } else s5
  let s3 := if felt && decide (3 ≤ ap) then
      endAborted { s4 with pw := { s4.pw with
        wdtSuspended := false
        wdtSince := s4.timeUs } }
    else s4
  let s2 := if felt && decide (2 ≤ ap) then acceptFrames s3 else s3
  raiseAlert (resumeDispatch { s2 with pw := { s2.pw with
    phase := .active
    wakePending := false
    aborted := true
    wakeSrc := s2.pw.wakeSrc ||| 0x80 } }) 0x20

/-- A step of an entry has ended at an abort point (R547, R548): the entry goes on, or is abandoned. -/
def reachAp (s : State) (felt : Bool) (ap : Nat) : State :=
  let s1 := { s with pw := { s.pw with
    lastAp := BitVec.ofNat 3 ap
    phase := .entering felt ap } }
  if s.pw.wakePending then abandonEntry s1 felt ap else s1

/-- A wake by the sources of PW_WAKE_SRC bits 6 to 0 (R548 to R551). -/
def wakeBy (s : State) (sources port : Nat) : State :=
  let p := s.pw
  let felt : Bool := match p.phase with
    | .entering f _ => f
    | .felt => true
    | _ => false
  let s4 := if felt then sources % 128 else sources % 128 - (if sources.testBit 2 then 4 else 0)
  let bits := if felt && !s.net.wakeEnable && s4.testBit 1 then s4 - 2 else s4
  let src := bits + (if bits.testBit 1 then (port % 8) * 256 else 0)
  if bits = 0 then s
  else match p.phase with
    | .entering _ _ =>
      if p.wakePending then s else { s with pw := { p with
        wakePending := true
        wakeSrc := BitVec.ofNat 13 src } }
    | .voile => raiseAlert { s with pw := { p with
        phase := .exiting false
        timerArmed := false
        wakeSrc := BitVec.ofNat 13 src } } 0x20
    | .felt => raiseAlert { s with pw := { p with
        phase := .exiting true
        timerArmed := false
        wakeSrc := BitVec.ofNat 13 (4096 + src) } } 0x20
    | _ => s

/-- A request to the power controller (R22, R522, R544, R545): `who` is 1 for the host and 2 for the management port,
`target` 0 Active, 1 Voile, 2 Felt, and `mask` the blocks retained. -/
def powerAsk (s : State) (who target mask : Nat) : State :=
  let p := s.pw
  let s1 := { s with pw := { p with requester := BitVec.ofNat 2 who } }
  let low : Bool := match p.phase with
    | .voile => true
    | .felt => true
    | .entering _ _ => true
    | .exiting _ => true
    | _ => false
  let moving : Bool := match p.phase with
    | .entering _ _ => true
    | .exiting _ => true
    | _ => false
  if !powered s ∨ 2 < target then s
  else if target = 0 ∧ low then wakeBy { s1 with pw := { s1.pw with result := 1 } } 32 0
  else if moving ∨ s.host.upd.handover ∨ p.inReset then powerResult s1 3
  else if target = 2 ∧ (s.sc.firmware ∨ s.sc.silicon) then powerResult s1 4
  else if p.phase = .tripped ∨ (target = 1 ∧ low) ∨ (target = 2 ∧ p.phase = .felt) then powerResult s1 5
  else if target = 2 ∧ !wakePortOk s then powerResult s1 6
  else if target = 0 then powerResult s1 2
  else { s1 with pw := { s1.pw with
    phase := .entering (target == 2) 0
    wakePending := false
    lastAp := 0
    aborted := false
    result := 1
    rb := if target = 2 then BitVec.ofNat 8 mask else p.rb
    wakeSrc := 0 } }

/-! ### Entry (R547) -/

/-- Step 1 ends: dispatch stops. -/
def stopDispatch (s : State) (felt : Bool) : State := reachAp { s with host := { s.host with dispatch := false } } felt 1

/-- VOILE_ENTRY (R547): step 1 ends at AP_1. -/
def execVoileEntry (s : State) : Res := .next (if s.pw.phase = .entering false 0 then stopDispatch s false else s)

/-- FELT_ENTRY (R547): step 1 ends at AP_1. -/
def execFeltEntry (s : State) : Res := .next (if s.pw.phase = .entering true 0 then stopDispatch s true else s)

/-- No batch runs, and every core is idle (R547). -/
def coresIdle (s : State) : Bool :=
  s.host.ctxs.all (fun x => x.batch.isNone) && s.cores.all fun c => !c.started && c.mv.xfers.isEmpty && c.mv.flagWrites.isEmpty

/-- PW_WAKE_TIMER starts at the end of an entry (R559). -/
def armTimer (s : State) : State := { s with pw := { s.pw with timerArmed := s.pw.wakeTimer != 0 } }

/-- AP_2_CORES_QUIESCED (R547): Voile gates CLK_CORE; a Felt entry goes on to step 3, where data frames are dropped. -/
def execAp2CoresQuiesced (s : State) : Res :=
  .next (
    if !coresIdle s then s
    else match s.pw.phase with
      | .entering false 1 =>
        let s1 := reachAp s false 2
        if s.pw.wakePending then s1 else powerDone (armTimer { s1 with pw := { s1.pw with phase := .voile } })
      | .entering true 1 =>
        let s1 := reachAp s true 2
        if s.pw.wakePending then s1 else { s1 with net := { s1.net with dropping := true } }
      | _ => s)

/-- A LOADING or REFETCHING slot abandoned by a Felt entry (R331). -/
def feltSlot (sl : Slot) : Slot :=
  if sl.state = .loading then { Slot.reset with refs := sl.refs }
  else if sl.state = .refetching then { sl with
    state := .evicted
    staged := []
    refs := sl.refs - reloadRef sl
    reload := []
    relayNext := (0, 0)
    relayed := []
    fwdFailed := false }
  else sl

/-- AP_3_STATE_SAVED (R331, R393, R444, R547): step 3 ends once no flash operation is open. The state it saves stays in
place here. -/
def execAp3StateSaved (s : State) : Res :=
  .next (
    if s.pw.phase ≠ .entering true 2 ∨ s.flash.ch0.op.isSome ∨ s.flash.ch1.op.isSome then s
    else
      let s1 := (List.range 8).foldl (fun t c => writeLife t c false) s
      let loads := s1.host.ctxs.flatMap fun x => [x.slotA, x.slotB].filterMap fun sl => if sl.state = .loading then sl.loadRing else none
      let s2 := { s1 with
        flash := { s1.flash with
          ch0 := { s1.flash.ch0 with unlocked := false }
          ch1 := { s1.flash.ch1 with unlocked := false } }
        host := { s1.host with ctxs := s1.host.ctxs.map fun x => { x with slotA := feltSlot x.slotA, slotB := feltSlot x.slotB } }
        pw := { s1.pw with
          abortLoads := loads
          wdtSuspended := true } }
      reachAp s2 true 3)

/-- AP_4_HBM_IN_SELF_REFRESH (R547). -/
def execAp4HbmInSelfRefresh (s : State) : Res :=
  .next (if s.pw.phase = .entering true 3 then reachAp { s with hbm := { s.hbm with srState := [1, 1] } } true 4 else s)

/-- What powering down loses at once: links, and the flash controller's clocks and supply (R402, R403, R543, R547); both
compute rails go to their retention level (R613). -/
def enterFelt (s : State) : State :=
  { s with
    net := { s.net with ports := s.net.ports.map fun _ => Port.reset }
    flash := { s.flash with
      scanDone := false
      clkDiv := 0
      waitStates := 0xF
      supplyLow := false
      supplyInForce := false }
    pw := { s.pw with
      phase := .felt
      vddCore := 600
      vddSram := 600
      pllLocked := false } }

/-- AP_5_GATES_COMMANDED (R547): Felt is reached unless a wake has come. -/
def execAp5GatesCommanded (s : State) : Res :=
  .next (
    if s.pw.phase ≠ .entering true 4 then s
    else
      let s1 := setLpModes (armTimer { s with net := { s.net with ptpRuns := false } }) true
      let s2 := reachAp s1 true 5
      if s.pw.wakePending then s2 else powerDone (enterFelt s2))

/-! ### Wake and exit (R550 to R554) -/

/-- WAKE (R550, R551). -/
def execWake (sources : BitVec 7) (port : Nat) (s : State) : Res :=
  .next (wakeBy s sources.toNat (match s.pw.phase with
    | .felt => s.net.wakePort.toNat
    | _ => port))

/-- THERMAL_ALARM (R537, R550): an alert, and a wake in a low-power state. -/
def execThermalAlarm (sensor : Nat) (s : State) : Res :=
  .next (
    let t := s.mg.temps.getD sensor 0
    if powered s && t != 0 && decide (alarmCode s.pw ≤ t.toNat) then wakeBy (raiseAlert s 0x08) 16 0 else s)

/-- WAKE_TIMER (R550, R559). -/
def execWakeTimer (s : State) : Res :=
  .next (if s.pw.timerArmed && (s.pw.phase == .voile || s.pw.phase == .felt) then wakeBy s 8 0 else s)

/-- A port's MAC address: the one set for it, or the part's base address plus the port's number (R525). -/
def portMac (s : State) (p : Nat) : Nat := if s.net.macs.getD p 0 = 0 then Config.baseMac + p else s.net.macs.getD p 0

/-- A frame received in Felt is a wake frame (R440). -/
def isWakeFrame (s : State) (port dstMac : Nat) (frame : Bytes) : Bool :=
  let off := min 112 s.net.wakeOffset.toNat
  s.net.wakeEnable && port == s.net.wakePort.toNat && dstMac == portMac s port && decide (off + 16 ≤ frame.length) &&
    (List.range 16).all fun i => (frame.getD (off + i) 0 ^^^ s.net.wakePattern.getD i 0) &&& s.net.wakeMask.getD i 0 == 0

/-- WAKE_FRAME (R440, R550): also during a Felt entry, whose frames are examined beside their usual handling. -/
def execWakeFrame (port dstMac : Nat) (frame : Bytes) (s : State) : Res :=
  .next (
    let listens : Bool := match s.pw.phase with
      | .felt => true
      | .entering true _ => true
      | _ => false
    if listens && isWakeFrame s port dstMac frame then wakeBy s 2 port else s)

/-- VOILE_EXIT (R552). -/
def execVoileExit (s : State) : Res :=
  .next (if s.pw.phase = .exiting false then powerDone (resumeDispatch { s with pw := { s.pw with phase := .active } }) else s)

/-- A page lies in a retained block (R175, R546). -/
def retained (rb : Byte) (page : Nat) : Bool := rb.toNat.testBit (page / 512)

/-- The scratchpad's registers of the core reset domain at their reset values (R177 to R186). -/
def spRegs (sp : Sp) : Sp :=
  { sp with
    turns := []
    corr := []
    marks := []
    busy := []
    used := []
    waits := []
    zeroing := []
    fault := false
    spFault := 0
    spFaultBundle := 0
    tagIndex := 0
    scrubOn := true
    scrubPasses := 0
    scrubRow := 0
    scrubDone := []
    breakerCount := 0 }

/-- A core after Felt (R176, R542, R553): retained blocks keep data and tags, lost blocks are zero with tags 0x00, the
engines and registers are as after a core reset. Program banks are restored, and firmware has the pages zeroed that were to
be. -/
def feltCore (rb : Byte) (epoch : Nat) (c : Core) : Core :=
  { Core.reset with
    mx := Mx.reset epoch
    mv := { Core.reset.mv with nextId := c.mv.nextId }
    banks := c.banks
    sp := { spRegs c.sp with
      cells := c.sp.cells.filter fun p => retained rb (pageOf p.1)
      undef := c.sp.undef.filter fun p => retained rb p.1
      written := c.sp.written.filter (retained rb)
      errPages := c.sp.errPages.filter (retained rb)
      tags := c.sp.tags.filter fun p => retained rb p.1
      flips := c.sp.flips.filter fun p => retained rb (p.1 / 32)
      coded := c.sp.coded.filter fun r => retained rb (r / 32)
      zeroing := (c.sp.zeroing.filter fun j => retained rb j.page).map fun j => ⟨j.page, [], 0⟩ } }

/-- FELT_EXIT (R553): steps 1 to 7. The flash scan comes by its own command. -/
def execFeltExit (s : State) : Res :=
  .next (
    if s.pw.phase ≠ .exiting true then s
    else
      let s1 := { nextEpoch s with
        cores := s.cores.map (feltCore s.pw.rb s.freeCtr)
        hbm := { s.hbm with srState := [0, 0] }
        net := { s.net with ptpRuns := true }
        pw := { s.pw with
          phase := .active
          curDiv := effectiveDiv s.pw
          pendingDiv := none
          vddCore := coreVolts (effectiveDiv s.pw)
          vddSram := 750
          pllLocked := true
          wdtSuspended := false
          wdtSince := s.timeUs } }
      powerDone (resumeDispatch (acceptFrames (endAborted (setLpModes s1 false)))))

/-! ### Errors of the power controller and of firmware -/

/-- A device-fatal error that finds firmware not running: it completes no entry (R588). -/
def fatalNoFw (s : State) (e : LogEntry) : State :=
  let s1 := deviceFatal { s with host := { s.host with fwReady := false } } e
  { s1 with host := { s1.host with fwReady := s.host.fwReady } }

/-- THERMAL_TRIP (R537, R611): every clock but CLK_AON stops. -/
def execThermalTrip (s : State) : Res :=
  .next (
    if !powered s || s.pw.phase == .tripped then s
    else
      let s1 := fatalNoFw s (logEntry 2 0x0D 0x0601 2)
      { s1 with
        net := { s1.net with ptpRuns := false }
        pw := { s1.pw with
          phase := .tripped
          pllLocked := false
          thermTripPin := true } })

/-- The firmware watchdog counts: not while it is suspended (R589). -/
def wdtCounts (s : State) : Bool := s.pw.wdtRunning && !s.pw.wdtSuspended && !s.sc.fwHalted && powered s

/-- Service of the firmware watchdog (R564, R589). -/
def kickWdt (s : State) : State := { s with pw := { s.pw with wdtSince := s.timeUs } }

/-- FW_WATCHDOG_KICK (R564, R589). -/
def execFwWatchdogKick (s : State) : Res := .next (if s.pw.wdtRunning then kickWdt s else s)

/-- FW_WATCHDOG_EXPIRE (R588, R589): a period without service; firmware no longer runs. -/
def execFwWatchdogExpire (s : State) : Res :=
  .next (
    if wdtCounts s && decide (s.pw.wdtSince + 1000 * max 10 s.pw.wdtPeriod.toNat ≤ s.timeUs) && s.pw.phase != .tripped then
      let s1 := fatalNoFw s (logEntry 2 0x0C 0x0602 2)
      { s1 with
        host := { s1.host with fwReady := false }
        pw := { s1.pw with wdtRunning := false } }
    else s)

/-! ### Time -/

/-- A microsecond passes (assumption 38): the log's clock counts in every state but Off (R591), and the PTP clock while
it runs (R421). -/
def idle (s : State) : State :=
  if powered s then { s with
    timeUs := s.timeUs + 1
    net := { s.net with ptp := if s.net.ptpRuns then s.net.ptp + 1000 else s.net.ptp } }
  else s

end Sys2Proof.Machine
end

