-- ==== Sys2Proof/Machine/Resets.lean ====
section
/-!
DEFINITION. Resets and start-up (R171, R174, R538 to R542), boot (R395, R569, R575), decommissioning, rail faults
(R615), and cores out of service (R598 to R600).
-/

namespace Sys2Proof.Machine

/-! ### Core reset (R174, R541) -/

/-- A core after a core reset: tags LOCKED with their other fields, data in place, engines and registers as after
reset, entry contents free values of the epoch given. Requests of other cores stay. -/
def coreAfterReset (k epoch : Nat) (c : Core) : Core :=
  { Core.reset with
    mx := Mx.reset epoch
    mv := { Core.reset.mv with nextId := c.mv.nextId }
    banks := c.banks
    tokensWaiting := c.tokensWaiting.filter fun p => p.2 != k
    sp := { spRegs c.sp with
      reqs := c.sp.reqs.filter fun r => r.core != k
      tags := (List.range 4096).map fun p => (p, tagWith (tagOf c.sp p) 2) } }

/-- CORE_RESET's effect (R541): what the core's move engine had started ends undelivered, and a batch running there
fails. -/
def resetCore (s : State) (k : Nat) : State :=
  let s1 := match (coreAt s k).ctx with
    | some i => if coreRuns s k then modBatch s i fun b => { b with failing := true } else s
    | none => s
  { nextEpoch s1 with
    cores := s1.cores.zipIdx.map fun p =>
      if p.2 = k then coreAfterReset k s.freeCtr p.1
      else { p.1 with
        tokensWaiting := p.1.tokensWaiting.filter fun t => t.2 != k
        sp := { p.1.sp with reqs := p.1.sp.reqs.filter fun r => r.core != k } }
    mesh := s1.mesh.filter fun m => m.req.core != k }

/-- CORE_RESET (R541): firmware resets a core only when its batch has failed or none runs on it. -/
def execCoreReset (k : Nat) (s : State) : Res :=
  .next (
    let failed := match (coreAt s k).ctx with
      | some i => match (ctxAt s i).batch with
        | some b => b.failing
        | none => true
      | none => true
    if fwRuns s && decide (k < s.cores.length) && (!coreRuns s k || failed) then resetCore s k else s)

/-- CORE_OUT_OF_SERVICE (R598): at once when no batch runs on the core. -/
def execCoreOutOfService (k : Nat) (s : State) : Res :=
  .next (if decide (k < s.cores.length) && !coreRuns s k then
    { s with log := { s.log with coreService := s.log.coreService ||| BitVec.ofNat 32 (2 ^ k) } } else s)

/-- The scrub of step 3 (R599): zero data and tags 0x00. -/
def scrubCore (c : Core) : Core :=
  { c with sp := { c.sp with
    cells := []
    undef := []
    flips := []
    coded := []
    written := []
    errPages := []
    tags := []
    corr := []
    zeroing := [] } }

/-- Pinned pages of a context on a core written from their staged copies (R330, R599). -/
def reloadPinned (s : State) (c k : Nat) : State :=
  if !(ctxCores (ctxAt s c)).contains k then s
  else match residentSlot (ctxAt s c) with
    | some i =>
      if (stagedBad s c i (some k)).isEmpty then fillPinned (fillPool s c k) c i (some k)
      else refetchFor (fillPool s c k) c i (stagedBad s c i (some k))
    | none => fillPool s c k

/-- The class 0 contexts placed on a core lose their streams (R600). -/
def unbindOn (s : State) (k : Nat) : State :=
  let sids := (s.net.streams.filter fun st => streamValid st && (ctxAt s (seCtx st.entry)).cls == 0 &&
    (ctxCores (ctxAt s (seCtx st.entry))).contains k).map (·.sid)
  sids.foldl unbindStream s

/-- CORE_CHECK (R599, R600): the return to service after the check program. A failed check keeps the core out until the
next warm reset. -/
def execCoreCheck (k : Nat) (pass : Bool) (s : State) : Res :=
  .next (
    if !fwRuns s || !s.log.coreService.toNat.testBit k || s.log.coreFailed.toNat.testBit k || coreRuns s k then s
    else
      let s1 := resetCore s k
      if pass then
        let s2 := (List.range 16).foldl (fun t c => reloadPinned t c k) (modCore s1 k scrubCore)
        { s2 with log := { s2.log with coreService := s2.log.coreService &&& ~~~ BitVec.ofNat 32 (2 ^ k) } }
      else
        let s2 := logAdd s1 { logEntry 1 0x0C 0x0505 1 with core := k }
        unbindOn { s2 with log := { s2.log with coreFailed := s2.log.coreFailed ||| BitVec.ofNat 32 (2 ^ k) } } k)

/-! ### Warm and cold resets (R538 to R542) -/

/-- The registers of the management soft reset domain at their reset values (R510, R515, R519, R521). -/
def softRegs (g : Mg) : Mg :=
  { g with
    held := []
    longState := 0
    shortState := 0
    longSteps := 0
    longResult := 0
    shortResult := 0
    long := .none
    shortFlash := false
    mailbox := none
    arg := 0
    bufPtr := 0
    buf := List.replicate 512 0
    winAddr := 0
    winData := 0
    winBusy := false
    winError := false
    winHigh := 0
    winLow := none }

/-- A core after a warm reset: zero data, tags 0x00, SP_ registers of the cold reset domain kept (R171, R542). -/
def coreAfterWarm (epoch : Nat) (c : Core) : Core :=
  { Core.reset with
    mx := Mx.reset epoch
    sp := { Sp.reset with
      eccCorrected := c.sp.eccCorrected
      eccUncorrected := c.sp.eccUncorrected
      eccLast := c.sp.eccLast } }

/-- HBM after a warm reset (R360 to R368, R542): contents kept, writes accepted included (assumption 39). -/
def hbmAfterWarm (h : Hbm) : Hbm :=
  let pend := h.chans.flatMap fun p => p.2.writes
  { Hbm.reset with
    cells := pend.foldl (fun m w => w.data.zipIdx.foldl (fun n b => match b.1 with
      | some v => memWrite n zeroDflt (w.unit * 32 + b.2) [v]
      | none => n) m) h.cells
    bad := h.bad
    eccCorrected := h.eccCorrected
    eccUncorrected := h.eccUncorrected
    caAlerts := h.caAlerts
    caDropped := h.caDropped
    errLast := h.errLast }

/-- The flash after a reset (R389, R398): its array and cells stay; an operation under way is abandoned, so that a page
being programmed is undefined (assumption 40) and an erase leaves its flag open. -/
def flashAfterReset (f : Flash) (epoch : Nat) : Flash :=
  let f1 := match runningStep f with
    | some op => if op.opcode = 1 then { f with
        cells := memDrop f.cells op.addr 512
        freePages := put f.freePages (flashPage op.addr) epoch } else f
    | none => f
  { Flash.reset with
    cells := f1.cells
    freePages := f1.freePages
    eraseCount := f1.eraseCount
    openFlags := f1.openFlags
    password := f1.password
    regions := f1.regions
    worn := f1.worn
    lives := f1.lives
    record := f1.record
    ch0 := FlashChan.reset epoch
    ch1 := FlashChan.reset epoch }

/-- The network after a warm reset: NW_WAKE_ registers, cages and what has been sent are kept (R451, R452). -/
def netAfterWarm (n : Net) : Net :=
  { Net.reset with
    wakeOffset := n.wakeOffset
    wakeEnable := n.wakeEnable
    wakePort := n.wakePort
    wakePattern := n.wakePattern
    wakeMask := n.wakeMask
    ports := n.ports.map fun _ => .reset
    cages := n.cages
    out := n.out }

/-- The host interface after a warm or cold reset: what the host holds is the host's. -/
def hostAfterReset (h : HostIf) : HostIf :=
  { HostIf.reset with
    rings := h.rings.map fun _ => .reset
    flags := h.flags.map fun _ => 0
    ctxs := h.ctxs.map fun _ => .reset
    hostMem := h.hostMem
    msix := h.msix
    bar2Out := h.bar2Out }

/-- A warm reset (R539, R540, R542). -/
def warmReset (s : State) (pin : Bool) : State :=
  let low : Bool := match s.pw.phase with
    | .voile => true
    | .felt => true
    | .entering _ _ => true
    | .exiting _ => true
    | _ => false
  let s0 := if pin || low then wakeBy s 64 0 else s
  let e := s.freeCtr
  { nextEpoch s0 with
    cores := s0.cores.map (coreAfterWarm e)
    mesh := []
    hbm := hbmAfterWarm s0.hbm
    flash := { flashAfterReset s0.flash e with
      attempts := s0.flash.attempts
      eccCorrected := s0.flash.eccCorrected
      eccUncorrected := s0.flash.eccUncorrected
      errLast := s0.flash.errLast }
    net := netAfterWarm s0.net
    host := hostAfterReset s0.host
    log := { s0.log with
      fatal := false
      coreService := 0
      coreFailed := 0 }
    mg := { softRegs s0.mg with fatal := false }
    calico := Calico.reset
    pw := { Pw.reset with
      lastAp := s0.pw.lastAp
      aborted := s0.pw.aborted
      capExceeded := s0.pw.capExceeded
      result := s0.pw.result
      requester := s0.pw.requester
      rb := s0.pw.rb
      wakeSrc := s0.pw.wakeSrc
      wakeTimer := s0.pw.wakeTimer
      hysteresis := s0.pw.hysteresis
      alarm := s0.pw.alarm
      thermTripPin := s0.pw.thermTripPin }
    sc := { s0.sc with
      resultA := 0xF
      resultB := 0xF
      booted := false
      copy := false
      keySlot := 0
      debugged := false
      silicon := false
      firmware := false
      observe := false
      fwHalted := false
      challenge := none } }

/-- WARM_RESET (R538, R539): by a pin, or by PW_CTRL through the power controller. -/
def execWarmReset (pin : Bool) (s : State) : Res := .next (if powered s then warmReset s pin else s)

/-- The state as power goes: what is not volatile, what the outside holds and the model's own counters stay (R542,
R566). -/
def powerLost (s : State) : State :=
  { State.reset with
    pending := s.pending
    freeCtr := s.freeCtr + 1
    readOut := s.readOut
    cores := s.cores.map fun _ => { Core.reset with mx := Mx.reset s.freeCtr }
    flash := flashAfterReset s.flash s.freeCtr
    net := { Net.reset with
      ports := s.net.ports.map fun _ => .reset
      cages := s.net.cages.map fun _ => .reset
      out := s.net.out }
    host := hostAfterReset s.host
    mg := { Mg.reset with ibis := s.mg.ibis }
    sc := { Sc.reset with
      revoked := s.sc.revoked
      rollback := s.sc.rollback
      lifecycle := s.sc.lifecycle
      udsErased := s.sc.udsErased
      decomDone := s.sc.decomDone
      tdo := s.sc.tdo } }

/-- COLD_RESET (R538, R542): MADDR's level sets the static address (R506, R610). -/
def execColdReset (maddr : Nat) (s : State) : Res :=
  .next { powerLost s with mg := { (powerLost s).mg with staticAddr := 0x58 + maddr % 4 } }

/-- RAIL_FAULT (R615): the device stops as in Off. -/
def execRailFault (s : State) : Res := .next { powerLost s with pw := { (powerLost s).pw with phase := .off } }

/-! ### Start-up (R539) -/

/-- PLL_LOCK (R539): the clocks run. A warm reset that ends a thermal trip is held until every sensor reads below the
alarm (R537). -/
def execPllLock (s : State) : Res :=
  .next (
    if s.pw.phase ≠ .active ∨ !s.pw.inReset ∨ (s.pw.thermTripPin ∧ alarmed s) then s
    else { s with
      net := { s.net with ptpRuns := true }
      pw := { s.pw with
        inReset := false
        thermTripPin := false
        pllLocked := true } })

/-- Decommissioning from step 2 on (R575): the secret is erased, then the protected sectors, then the fuse; a warm reset
follows. -/
def decommissionEnd (s : State) : State :=
  let secs := (s.flash.regions.filter (·.on)).flatMap fun r => (List.range (r.last + 1 - r.first)).map (r.first + ·)
  let s1 := (secs.eraseDups.filter fun x => decide (34 ≤ x) && decide (x ≤ 16383)).foldl fwErase
    { s with sc := { s.sc with udsErased := true } }
  warmReset { s1 with sc := { s1.sc with decomDone := true } } false

/-- DECOMMISSION (R575): SC_DECOMMISSION written through the management window; no keys are derived any more (R576). -/
def execDecommission (v : W32) (s : State) : Res :=
  .next (
    if !powered s || s.sc.lifecycle == 2 then s
    else if v = 0xDEC00001 then { s with sc := { s.sc with decomKey := true } }
    else if v = 0xDEC00002 ∧ s.sc.decomKey then
      decommissionEnd { s with sc := { s.sc with decomKey := false, lifecycle := 2, identityValid := false } }
    else { s with sc := { s.sc with decomKey := false } })

/-- DECOMMISSION_CANCEL (R575): the gap is too long. -/
def execDecommissionCancel (s : State) : Res := .next { s with sc := { s.sc with decomKey := false } }

/-- A boot copy started (R395, R569, R572, R589): results recorded, keys derived, the watchdog started. -/
def startCopy (s : State) (copy : Bool) : State :=
  let b := copyImage s.flash copy
  { s with
    host := { s.host with upd := { s.host.upd with
      bootCopy := copy
      runningImage := b
      bootImage := b } }
    pw := { s.pw with
      wdtRunning := true
      wdtSince := s.timeUs }
    sc := { s.sc with
      booted := true
      copy := copy
      keySlot := BitVec.ofNat 2 (fwKeySlot b)
      identityValid := s.sc.lifecycle != 2
      cdi := cdiItems s b } }

/-- The check result of a copy recorded (R569, R583). -/
def recordCheck (s : State) (copy : Bool) (r : Nat) : State :=
  { s with sc := if copy then { s.sc with resultB := BitVec.ofNat 4 r } else { s.sc with resultA := BitVec.ofNat 4 r } }

/-- BOOT (R395, R539, R569, R570, R575): once after each reset, when the scan has ended. -/
def execBoot (s : State) : Res :=
  .next (
    if !s.pw.pllLocked || !s.flash.scanDone || s.sc.booted || s.sc.resultA != 0xF || s.sc.resultB != 0xF then s
    else if s.sc.lifecycle == 2 && !s.sc.decomDone then decommissionEnd s
    else
      let first := ((activeRecord s.flash).map (·.2.2)).getD false
      let r1 := imageCheck s (copyImage s.flash first) (copySectors first)
      let s1 := recordCheck s first r1
      if r1 = 0 then startCopy s1 first
      else
        let r2 := imageCheck s (copyImage s.flash (!first)) (copySectors (!first))
        let s2 := recordCheck s1 (!first) r2
        if r2 = 0 then startCopy s2 (!first) else s2)

/-- FW_READY (R358, R539): after training has ended. -/
def execFwReady (s : State) : Res :=
  .next (
    if s.sc.booted && s.hbm.trainDone && !s.host.fwReady && s.pw.wdtRunning then
      resumeDispatch { s with host := { s.host with fwReady := true } }
    else s)

end Sys2Proof.Machine
end

