-- ==== Sys2Proof/Machine/Service.lean ====
section
/-!
DEFINITION. The service mailbox of PF1 (R488, R504), the error log's bytes (R590, R591), live update (R489 to R492) and
the host's power requests (R544).
-/

namespace Sys2Proof.Machine

/-! ### The error log as bytes (R590, R591) -/

/-- The 64 bytes of a log entry (R591). -/
def logBytes (e : LogEntry) : Bytes :=
  toLe 4 e.seq ++ toLe 1 e.cls ++ toLe 1 e.unit ++ toLe 2 e.code ++ toLe 8 e.timeUs ++ toLe 1 e.plane ++ toLe 1 e.ctx ++
    toLe 1 e.core ++ toLe 1 e.inst ++ toLe 4 e.bundle ++ toLe 8 e.address ++ toLe 4 e.detail ++ toLe 1 e.ring ++
    [0, 0, 0] ++ toLe 4 e.tag ++ toLe 4 e.count ++ List.replicate 16 0

/-- The bytes of slot `i` of the log; a slot never written is all zero (R590). -/
def logSlot (s : State) (i : Nat) : Bytes :=
  match s.log.entries.find? fun e => (e.seq - 1) % 256 == i % 256 with
  | some e => logBytes e
  | none => List.replicate 64 0

/-- `n` slots of the log from slot `i`. -/
def logRange (s : State) (i n : Nat) : Bytes := (List.range n).flatMap fun j => logSlot s (i + j)

/-! ### Mailbox commands -/

/-- Firmware takes mailbox commands: it runs, and no debug session holds its processors (R539, R580). -/
def fwServes (s : State) : Bool := fwRuns s && !s.sc.fwHalted && !(s.log.fatal && s.pw.phase == .tripped)

/-- HI_SVC_CMD written with a command, and firmware serving it (R488, assumption 41). -/
def mailCmd (s : State) (op : Nat) (f : State → State) : State :=
  if s.host.mail.busy then { s with host := { s.host with mail := { s.host.mail with result := 0x0201 } } }
  else if !fwServes s then s
  else f { s with host := { s.host with mail := { s.host.mail with
    busy := true
    running := some op
    progress := 0 } } }

/-- The mailbox buffer with bytes written from its start. -/
def mailBuf (s : State) (bs : Bytes) : State :=
  { s with host := { s.host with mail := { s.host.mail with buf := splice (fitBytes 4096 s.host.mail.buf) 0 bs } } }

/-- ARG0 and ARG1. -/
def arg0 (s : State) : Nat := s.host.mail.arg0.toNat
def arg1 (s : State) : Nat := s.host.mail.arg1.toNat

/-- GET_INFO (R488): the manual does not lay the reply out, so its bytes are free values. -/
def execGetInfo (s : State) : Res :=
  .next (mailCmd s 0x01 fun t => mailDone (mailBuf (nextEpoch t) ((List.range 4096).map (Config.infoByte t.freeCtr))) 0)

/-- READ_TELEMETRY (R488): temperatures, then powers, in the order of the direct map. -/
def execReadTelemetry (s : State) : Res :=
  .next (mailCmd s 0x02 fun t =>
    mailDone (mailBuf t (t.mg.temps ++ (List.range 3).flatMap fun i => toLe 2 (t.mg.powers.getD i 0).toNat)) 0)

/-- READ_LOG (R488, R590). -/
def execReadLog (s : State) : Res := .next (mailCmd s 0x03 fun t => mailDone (mailBuf t (logRange t (arg0 t) 64)) 0)

/-- Bytes read through the flash's read path (R373, R374). DESIGN CHOICE: those of a word that returns an error response are
free values (assumption 42). -/
def flashReadBytes (s : State) (off n : Nat) : State × Bytes :=
  let words := if n = 0 then [] else (List.range ((off + n - 1) / 32 + 1 - off / 32)).map (off / 32 + ·)
  let r := words.foldl (fun (p : State × Bytes) w =>
    let q := readWord p.1 (32 * w) .clean
    if q.2.error then (nextEpoch q.1, p.2 ++ (List.range 32).map fun i => Config.freeByte q.1.freeCtr (32 * w + i))
    else (q.1, p.2 ++ q.2.data)) (s, [])
  (r.1, slice r.2 (off % 32) n)

/-- FLASH_READ of the mailbox (R488): ARG0 is the offset and ARG1 the bytes, at most 4,096 (assumption 42). -/
def execSvcFlashRead (s : State) : Res :=
  .next (mailCmd s 0x10 fun t =>
    let n := min 4096 (arg1 t)
    if 1073741824 < arg0 t + n then mailDone t 0x0204
    else
      let r := flashReadBytes t (arg0 t) n
      mailDone (mailBuf r.1 r.2) 0)

/-- A flash command of firmware on channel 0 for the mailbox; refused at once when the channel is busy or Felt entry has
begun (R382, R389). -/
def mailFlash (s : State) (opcode off : Nat) (arg : W64) (data : Bytes) : State :=
  if s.flash.ch0.op.isSome then mailDone s 0x0101
  else if feltBegun s then mailDone s 0x010B
  else
    let s1 := modFlash s 0 fun c => { c with
      addr := BitVec.ofNat 30 off
      arg := arg }
    flashCommand (if data.isEmpty then s1 else modFlash s1 0 fun c => bufWrite c 0 data) 0 opcode 0 false

/-- A flash offset the host may neither program nor erase: the boot areas (R488). -/
def bootArea (off : Nat) : Bool := decide (areaOf (sectorOf off) ≤ 2)

/-- FLASH_PROGRAM of the mailbox (R488): ARG0 is the page's offset. -/
def execSvcFlashProgram (s : State) : Res :=
  .next (mailCmd s 0x11 fun t =>
    if 1073741824 ≤ arg0 t then mailDone t 0x010A
    else if bootArea (arg0 t) then mailDone t 0x0102
    else mailFlash t 1 (arg0 t) 0 (fitBytes 512 t.host.mail.buf))

/-- FLASH_ERASE of the mailbox (R488): ARG0 is any offset in the sector. -/
def execSvcFlashErase (s : State) : Res :=
  .next (mailCmd s 0x12 fun t =>
    if 1073741824 ≤ arg0 t then mailDone t 0x010A
    else if bootArea (arg0 t) then mailDone t 0x0102
    else mailFlash t 2 (arg0 t) 0 [])

/-- FLASH_UNLOCK of the mailbox (R393, R488): the password is in ARG0. -/
def execSvcFlashUnlock (s : State) : Res := .next (mailCmd s 0x13 fun t => mailFlash t 4 0 t.host.mail.arg0 [])

/-! ### Live update (R489 to R492) -/

/-- The inactive boot copy. -/
def idleCopy (s : State) : Bool := !s.host.upd.bootCopy

/-- The update's state with a change. -/
def modUpd (s : State) (f : Update → Update) : State := { s with host := { s.host with upd := f s.host.upd } }

/-- UPDATE_BEGIN (R488): the inactive copy is erased through channel 0 (assumption 43). -/
def execUpdateBegin (s : State) : Res :=
  .next (mailCmd s 0x20 fun t =>
    let secs := copySectors (idleCopy t)
    if t.flash.ch0.op.isSome ∨ secs.any (underErase t.flash) then mailDone t 0x0101
    else if secs.any (flashLocked t.flash t.flash.ch0) then mailDone t 0x0102
    else
      let t1 := secs.foldl fwErase t
      mailDone (modUpd { t1 with host := { t1.host with mail := { t1.host.mail with progress := 16 } } } fun u => { u with
        written := []
        verified := false }) 0)

/-- UPDATE_WRITE (R488): 4 KiB of the new image at image offset ARG0 (assumption 43). -/
def execUpdateWrite (s : State) : Res :=
  .next (mailCmd s 0x21 fun t =>
    let a := copyBase (idleCopy t) + arg0 t
    let sec := sectorOf a
    if arg0 t % 4096 ≠ 0 ∨ 1048576 ≤ arg0 t then mailDone t 0x0204
    else if t.flash.ch0.op.isSome ∨ underErase t.flash sec then mailDone t 0x0101
    else if flashLocked t.flash t.flash.ch0 sec then mailDone t 0x0102
    else if t.flash.incomplete.contains sec then mailDone t 0x0104
    else if (flashBytes t.flash a 4096).any (· != 0xFF) then mailDone t 0x0103
    else mailDone (modUpd { t with flash := flashProgram t.flash a (fitBytes 4096 t.host.mail.buf) } fun u => { u with
      written := sec :: u.written.filter (· != sec)
      verified := false }) 0)

/-- UPDATE_VERIFY (R570): the manual gives no result code for a failed check, so it is a free value. -/
def execUpdateVerify (s : State) : Res :=
  .next (mailCmd s 0x22 fun t =>
    if imageCheck t (copyImage t.flash (idleCopy t)) t.host.upd.written = 0 then
      mailDone (modUpd t fun u => { u with verified := true }) 0
    else mailDone (modUpd (nextEpoch t) fun u => { u with verified := false }) ((Config.freeWord t.freeCtr 0).toNat % 65536))

/-- UPDATE_ACTIVATE (R489, R570): dispatch stops, and the command runs until the handover. -/
def execUpdateActivate (s : State) : Res :=
  .next (mailCmd s 0x23 fun t =>
    if !t.host.upd.verified || t.sc.firmware || t.sc.silicon then mailDone t 0x0202
    else
      let t1 := modUpd t fun u => { u with
        handover := true
        trialSec := if arg0 t = 0 then 60 else arg0 t }
      { t1 with host := { t1.host with dispatch := false } })

/-- An entry that a handover waits for is in progress (R489 step 1). -/
def loadsRunning (s : State) : Bool :=
  s.host.rings.any (fun r => r.entries.any fun e => e.stage == .running && (enOp e.bytes == 0x01 || enOp e.bytes == 0x02))

/-- What waited for the end of a handover is acted on (R490). -/
def afterHandover (s : State) : State :=
  let s1 := if s.host.upd.bmeWait then loseDriver (modUpd s fun u => { u with bmeWait := false }) else s
  if s1.host.upd.flrWait then flrPf0 (modUpd s1 fun u => { u with flrWait := false }) else s1

/-- HANDOVER (R489 to R491): steps 3 to 6, once nothing is left that step 1 or 3 waits for. The firmware watchdog
restarts in full (R589). -/
def execHandover (accept : Bool) (s : State) : Res :=
  .next (
    if !s.host.upd.handover ∨ s.flash.ch0.op.isSome ∨ loadsRunning s ∨ !fwServes s ∨
        s.host.ctxs.any fun x => (match x.batch with | some b => b.ring.isSome | none => false) then s
    else
      let s1 := modUpd { s with pw := { s.pw with wdtSince := s.timeUs } } fun u =>
        if accept then { u with
          handover := false
          trial := true
          bootCopy := !u.bootCopy
          runningImage := copyImage s.flash (!u.bootCopy) }
        else { u with handover := false }
      let s2 := resumeDispatch s1
      afterHandover (if s.host.mail.running = some 0x23 then mailDone s2 (if accept then 0 else 0x0203) else s2))

/-- UPDATE_COMMIT (R492); with no trial running it completes with E_SVC_STATE (assumption 44). -/
def execUpdateCommit (s : State) : Res :=
  .next (mailCmd s 0x24 fun t => if t.host.upd.trial then mailDone (commitImage t) 0 else mailDone t 0x0202)

/-- TRIAL_END (R492): not after a device-fatal error. -/
def execTrialEnd (s : State) : Res := .next (if s.host.upd.trial && !s.log.fatal && fwRuns s then commitImage s else s)

/-! ### Attestation and power -/

/-- ATTEST of the mailbox (R573). -/
def execSvcAttest (s : State) : Res :=
  .next (mailCmd s 0x30 fun t => mailDone (mailBuf t (attestReport t (slice (fitBytes 32 t.host.mail.buf) 0 32))) 0)

/-- POWER_REQUEST (R492, R544): ARG0 holds the state and the blocks, and ARG1 receives the result. During an activation it
completes beside it with result 0x3. -/
def execPowerRequest (s : State) : Res :=
  .next (
    let answer := fun (t : State) (r : Nat) => { t with host := { t.host with mail := { t.host.mail with
      arg1 := BitVec.ofNat 64 (setFld t.host.mail.arg1.toNat 3 0 r) } } }
    if s.host.mail.running = some 0x23 ∧ fwServes s then
      let t := powerAsk s 1 (arg0 s % 4) (arg0 s / 256 % 256)
      let t1 := answer t t.pw.result.toNat
      sendMsix { t1 with host := { t1.host with mail := { t1.host.mail with result := 0 } } } 1 0
    else mailCmd s 0x40 fun t =>
      let t1 := powerAsk t 1 (arg0 t % 4) (arg0 t / 256 % 256)
      mailDone (answer t1 t1.pw.result.toNat) 0)

end Sys2Proof.Machine
end

