-- ==== Sys2Proof/Machine/Registers.lean ====
section
/-!
DEFINITION. The register space (R7 to R10, R25, R29): what a read of each register answers, and what a write of each does
by its access code. The direct map's own registers are read here; writes to it are in Access.lean.
-/

namespace Sys2Proof.Machine

/-! ### Fields and tables -/

/-- A one-bit field at bit `i`. -/
def bitAt (b : Bool) (i : Nat) : Nat := if b then 2 ^ i else 0

/-- A field with its lowest bit at `i`. -/
def fieldAt (v i : Nat) : Nat := v * 2 ^ i

/-- A 64-bit register as its two 32-bit words (R7, R520). -/
def wide (off v : Nat) : List (Nat × Nat) := [(off, v % 2 ^ 32), (off + 4, v / 2 ^ 32 % 2 ^ 32)]

/-- The state a command answers. -/
def nextOf (s : State) (r : Res) : State :=
  match r with
  | .next t => t
  | _ => s

/-! ### The direct map (R510 to R528) -/

/-- The power state as MG_STATUS and PW_STATUS code it (R512, R556). -/
def phaseCode (p : PwPhase) : Nat :=
  match p with
  | .voile => 1
  | .felt => 2
  | .entering _ _ => 3
  | .exiting _ => 3
  | _ => 0

/-- MG_STATUS (R512). -/
def mgStatus (s : State) : Nat :=
  bitAt s.mg.fatal 7 + bitAt (fwServes s) 6 + bitAt s.host.attached 5 + bitAt s.host.upd.handover 4 +
    fieldAt (phaseCode s.pw.phase) 2 + bitAt s.flash.scanDone 1 + bitAt (s.hbm.trained == 3) 0

/-- Contexts owned by Calico, one bit each (R510). -/
def calicoCtxs (s : State) : Nat := ((List.range 16).map fun c => bitAt (ctxAt s c).calico.isSome c).sum

/-- Streams bound by Calico (R529). -/
def calicoStreams (s : State) : List Stream := s.net.streams.filter fun st => st.calico && streamValid st

/-- The registers of the direct map as (offset, bytes, value); write-only registers read 0 (R9, R510). -/
def mgRegs (s : State) : List (Nat × Nat × Nat) :=
  let g := s.mg
  [(0x00, 2, 0x0320), (0x02, 1, 0), (0x03, 1, g.grade.toNat), (0x04, 1, 1), (0x05, 1, g.staticAddr), (0x08, 1, mgStatus s),
    (0x09, 1, g.alert.toNat), (0x0A, 1, g.alertEn.toNat),
    (0x0C, 1, fieldAt g.longState.toNat 6 + fieldAt g.shortState.toNat 4 + g.longSteps.toNat),
    (0x0D, 1, g.longResult.toNat), (0x0E, 1, g.shortResult.toNat), (0x10, 8, g.arg.toNat), (0x18, 2, g.bufPtr.toNat),
    (0x1A, 1, (g.buf.getD g.bufPtr.toNat 0).toNat), (0x21, 1, g.pwrRb.toNat), (0x22, 1, s.pw.result.toNat),
    (0x23, 1, s.pw.wakeSrc.toNat % 256)] ++
  ((List.range 8).map fun i => (0x30 + i, 1, (g.temps.getD i 0).toNat)) ++
  ((List.range 3).map fun i => (0x40 + 2 * i, 2, (g.powers.getD i 0).toNat)) ++
  [(0x46, 1, capWatts s.pw), (0x50, 1, fieldAt s.calico.state.toNat 6 + s.calico.skipped.toNat), (0x51, 2, calicoCtxs s),
    (0x53, 1, min 255 (calicoStreams s).length), (0x60, 6, g.winAddr.toNat), (0x66, 4, g.winData.toNat),
    (0x6B, 1, bitAt g.winBusy 7 + bitAt g.winError 6)]

/-- The register of the direct map that holds an offset; a reserved offset is one byte that reads 0 (R10). -/
def mgReg (s : State) (off : Nat) : Nat × Nat × Nat :=
  ((mgRegs s).find? fun r => decide (r.1 ≤ off) && decide (off < r.1 + r.2.1)).getD (off, 1, 0)

/-- A byte of the direct map as it stands. -/
def mgByte (s : State) (off : Nat) : Byte := (toLe 8 (mgReg s off).2.2).getD (off - (mgReg s off).1) 0

/-! ### Reads -/

/-- HI_STATUS (R494). -/
def hiStatus (s : State) : Nat :=
  bitAt s.host.fwReady 31 + bitAt s.host.attached 30 + bitAt s.host.flrDrain 29 + bitAt s.host.upd.handover 28 +
    bitAt s.host.upd.trial 27 + bitAt s.host.upd.bootCopy 26

/-- The code of a ring's state (R502). -/
def ringCode (r : RingState) : Nat :=
  match r with
  | .idle => 0
  | .active => 1
  | .blocked => 2
  | .stopped => 3
  | .orphaned => 4

/-- The registers of a ring, at offsets from 0x2000 + 0x40 × nn (R500 to R502). -/
def ringRegs (r : Ring) : List (Nat × Nat) :=
  wide 0 r.sqBase.toNat ++ wide 8 r.cqBase.toNat ++
    [(0x10, bitAt r.enable 31 + fieldAt r.sizeLog2.toNat 24 + fieldAt r.coalesceUs.toNat 16 + bitAt r.irqEn 7 + r.vector.toNat),
     (0x14, fieldAt (ringCode r.state) 29 + fieldAt r.sqHead.toNat 16 + r.cqTail.toNat)] ++ wide 0x18 r.resBase.toNat

/-- HI_WS_STATUS of a context (R338). -/
def wsStatus (x : Ctx) : Nat :=
  fieldAt x.ptr 31 + (if x.batch.isSome then fieldAt (x.latched.getD 0) 30 else 0) + bitAt x.batch.isSome 29 +
    fieldAt (slotCode x.slotB.state) 20 + fieldAt (slotCode x.slotA.state) 16 + fieldAt (x.slotB.refs % 256) 8 + x.slotA.refs % 256

/-- The HI_ block (R460, R493 to R504, R301 to R305, R338). -/
def hiRead (s : State) (off : Nat) : Nat :=
  let h := s.host
  if off < 0x1000 then
    look ([(0, 0x03200000), (4, hiStatus s), (8, bitAt h.attached 31 + fieldAt h.eventVector.toNat 16 + h.timeoutMs.toNat),
      (0x0C, h.heartbeat.toNat), (0x10, h.waitTimeoutMs.toNat)] ++ wide 0x18 h.bar2Base.toNat) off 0
  else if off < 0x1200 then
    (if off % 8 = 0 then (ringAt s ((off - 0x1000) / 8)).tail.toNat else (ringAt s ((off - 0x1000) / 8)).cqHead.toNat)
  else if off < 0x2000 then 0
  else if off < 0x3000 then look (ringRegs (ringAt s ((off - 0x2000) / 64))) (off % 64) 0
  else if off < 0x4000 then 0
  else if off < 0x4800 then leNat (memRead h.msixTable0 (fun _ => 0) (off - 0x4000) 4)
  else if off < 0x8000 then 0
  else if off < 0x9000 then
    look ([(0x8004, bitAt h.mail.busy 31 + fieldAt h.mail.progress.toNat 16 + h.mail.result.toNat)] ++
      wide 0x8008 h.mail.arg0.toNat ++ wide 0x8010 h.mail.arg1.toNat) off 0
  else if off < 0xA000 then rdLe (fitBytes 4096 h.mail.buf) (off - 0x9000) 4
  else if off < 0xB000 then 0
  else if off < 0xB100 then leNat (memRead h.msixTable1 (fun _ => 0) (off - 0xB000) 4)
  else if off < 0xC000 then 0
  else if off < 0xC400 then (h.flags.getD ((off - 0xC000) / 4) 0).toNat
  else if off < 0xD000 then 0
  else if off < 0xD040 then wsStatus (ctxAt s ((off - 0xD000) / 4))
  else if off < 0xE000 then 0
  else if off < 0xE100 then
    look [(0xE000, bitAt h.dbgKeep 30 + h.dbgCtx.toNat), (0xE008, h.dbgSel.toNat),
      (0xE00C, bitAt h.dbgReady 31 + bitAt h.dbgError 30)] off 0
  else if off < 0xE200 then look (wide 0 (h.dbgStops.getD ((off - 0xE100) / 8) 0).toNat) (off % 8) 0
  else if off < 0xF000 then 0
  else if h.dbgReady then rdLe (fitBytes 4096 h.dbgBuf) (off - 0xF000) 4 else 0

/-- The MC_ block (R360 to R368). -/
def mcRegs (h : Hbm) : List (Nat × Nat) :=
  [(0, bitAt h.fatal 31 + bitAt h.panic 30 + bitAt (h.srState.getD 1 0 == 1) 27 + bitAt (h.srState.getD 0 0 == 1) 26 +
      fieldAt h.trained.toNat 24 + h.failedPc.toNat),
    (4, h.rtLevel), (8, h.panicCount.toNat), (0x0C, bitAt h.srEnable 31 + h.srIdleUs.toNat), (0x18, h.eccUncorrected.toNat),
    (0x1C, fieldAt h.caAlerts.toNat 16 + h.caDropped.toNat),
    (0x30, bitAt h.trainDone 31 + bitAt h.trainFailed 30 + fieldAt h.minWindow.toNat 16 + fieldAt h.failLane.toNat 8)] ++
  wide 0x10 h.eccCorrected.toNat ++ wide 0x20 h.errLast.toNat

/-- A word of the ERASE_INCOMPLETE bitmap (R404). -/
def eiWord (f : Flash) : Nat := ((List.range 32).map fun b => bitAt (f.incomplete.contains (32 * f.eiIndex.toNat + b)) b).sum

/-- The registers of a flash command channel, at offsets from 0x100 + 0x40 × n (R408 to R412). -/
def chanRegs (c : FlashChan) : List (Nat × Nat) :=
  [(8, c.addr.toNat), (0x20, bitAt c.op.isSome 31 + bitAt c.unlocked 30 + fieldAt c.steps.toNat 8 + c.result.toNat)] ++
    wide 0x18 c.resultReg.toNat

/-- The FL_ block (R401 to R413). -/
def flRead (f : Flash) (off : Nat) : Nat :=
  if off < 0x100 then
    look [(0, bitAt f.scanDone 31 + bitAt f.password.isSome 30 + bitAt (decide (8 ≤ f.attempts)) 29 +
        fieldAt (min f.attempts 8) 25 + min f.incomplete.length 0x7FFF),
      (4, fieldAt f.clkDiv.toNat 4 + f.waitStates.toNat), (8, bitAt f.supplyLow 0), (0x20, f.eiIndex.toNat), (0x24, eiWord f),
      (0x30, f.eccCorrected.toNat), (0x34, f.eccUncorrected.toNat), (0x38, f.errLast.toNat), (0x40, f.wear)] off 0
  else if off < 0x180 then look (chanRegs (chanOf f ((off - 0x100) / 64))) (off % 64) 0
  else if off < 0x200 then 0
  else if off < 0x240 then
    let r := f.regions.getD ((off - 0x200) / 4) ⟨false, 0, 0⟩
    bitAt r.on 31 + fieldAt r.last 16 + r.first
  else if off < 0x1000 then 0
  else if off < 0x1400 then rdLe (bufBytes (chanOf f ((off - 0x1000) / 512))) (off % 512) 4
  else 0

/-- The NW_ block (R447 to R452). -/
def nwRead (n : Net) (off : Nat) : Nat :=
  if off < 0x30 then
    look [(0, fieldAt n.portReset.toNat 8 + bitAt n.cageWidth 2 + n.mode.toNat),
      (0x10, fieldAt n.resultPcp.toNat 12 + fieldAt n.creditPcp.toNat 8 + n.lossless.toNat), (0x14, n.ecnStep.toNat),
      (0x20, fieldAt n.wakeOffset.toNat 4 + bitAt n.wakeEnable 3 + n.wakePort.toNat)] off 0
  else if off < 0x40 then rdLe n.wakePattern (off - 0x30) 4
  else if off < 0x50 then rdLe n.wakeMask (off - 0x40) 4
  else if off < 0x100 then 0
  else if off < 0x300 then
    let p := n.ports.getD ((off - 0x100) / 64) Port.reset
    if off % 64 = 0 then bitAt p.linkUp 31 + fieldAt p.xoffSent.toNat 16 + fieldAt p.paused.toNat 8 else 0
  else if off < 0x320 then
    let g := n.cages.getD ((off - 0x300) / 4) Cage.reset
    bitAt g.present 31 + bitAt g.active 30 + bitAt g.wear 29 + fieldAt g.failStep.toNat 26 + g.maxBias.toNat
  else 0

/-- The ST_ block (R453 to R456). -/
def stRead (n : Net) (off : Nat) : Nat :=
  if off = 0 then bitAt n.stEnable 31 + n.udpPort.toNat
  else if 0x40 ≤ off ∧ off < 0x5C then (n.drops.getD ((off - 0x40) / 4) 0).toNat
  else if 0x100 ≤ off ∧ off < 0x180 then look (wide 0 (n.ctxBatch.getD ((off - 0x100) / 8) 0).toNat) (off % 8) 0
  else if 0x200 ≤ off ∧ off < 0x280 then look (wide 0 (n.ctxResult.getD ((off - 0x200) / 8) 0).toNat) (off % 8) 0
  else 0

/-- The PW_ block (R556 to R564). -/
def pwRegs (p : Pw) : List (Nat × Nat) :=
  [(0, fieldAt (phaseCode p.phase) 30 + fieldAt p.lastAp.toNat 27 + bitAt p.aborted 26 + bitAt (decide (p.reqDiv.toNat < p.capLimit.toNat)) 25 +
      bitAt (decide (p.reqDiv.toNat < p.thermalLimit.toNat)) 24 + bitAt p.capExceeded 23 + fieldAt p.result.toNat 16 +
      fieldAt p.requester.toNat 14 + p.rb.toNat),
    (8, p.wakeSrc.toNat), (0x0C, p.wakeTimer.toNat), (0x10, fieldAt (effectiveDiv p).toNat 4 + p.reqDiv.toNat), (0x14, p.cap.toNat),
    (0x18, fieldAt p.hysteresis.toNat 8 + p.alarm.toNat), (0x20, bitAt (p.wdtRunning && !p.wdtSuspended) 31 + p.wdtPeriod.toNat)]

/-- SC_BOOT_STATUS (R583). -/
def scBoot (x : Sc) : Nat :=
  fieldAt x.resultA.toNat 28 + fieldAt x.resultB.toNat 24 + bitAt x.booted 23 + bitAt x.copy 22 + fieldAt x.keySlot.toNat 20

/-- The EL_ block (R590, R604 to R607): the log's slots lie from 0x1000 on. -/
def elRead (s : State) (off : Nat) : Nat :=
  let l := s.log
  if off < 0x1000 then
    look [(0, bitAt l.fatal 31 + l.entries.length), (4, l.nextSeq.toNat), (8, l.folded.toNat), (0x10, l.coreService.toNat),
      (0x14, l.coreFailed.toNat)] off 0
  else if off < 0x5000 then rdLe (logSlot s ((off - 0x1000) / 64)) (off % 64) 4
  else 0

/-- The control core waits for space in the queue of the next slot it has to push (R215, R238). -/
def queueWaits (c : Core) : Bool :=
  canProcess c && decide (1 ≤ c.ctl.pushed) && queueFull c c.ctl.pushed &&
    (match bundleAt c.ctl c.ctl.pc with | some b => validOf (slotOf b c.ctl.pushed) | none => false)

/-- CC_STATUS (R215). -/
def ccStatus (c : Core) : Nat :=
  bitAt c.regs.fault 31 + bitAt c.regs.stopped 30 + bitAt (holdCause c != 0) 29 + fieldAt (holdCause c) 26 +
    bitAt c.ctl.syncWait 25 + bitAt (queueWaits c) 24 + fieldAt c.ctl.loops.length 16 +
    (c.ctl.ibuf.filter fun p => decide (c.ctl.high ≤ p.1)).length

/-- The CC_ block (R215 to R222, R282, R283, R302, R303). -/
def ccRegs (c : Core) : List (Nat × Nat) :=
  let r := c.regs
  [(0, ccStatus c), (4, r.ccFault.toNat), (8, r.ccFaultBundle.toNat), (0x20, r.holdWdt.toNat), (0x30, r.holdTag.toNat),
    (0x34, r.holdToken.toNat), (0x38, r.holdLate.toNat), (0x3C, r.holdEcc.toNat), (0x40, r.syncWaitCycles.toNat),
    (0x48, bitAt r.seqActive 31 + fieldAt r.seqOp.toNat 29 + r.seqSplits.toNat), (0x4C, r.seqTiles.toNat),
    (0x58, bitAt r.halted 31)] ++
  wide 0x10 c.ctl.cycle ++ wide 0x18 c.ctl.sectionBase ++
  wide 0x28 ((c.ctl.tokens.zipIdx.map fun p => p.1 % 256 * 256 ^ p.2).sum) ++ wide 0x50 c.ctl.stopAt.toNat

/-- The SP_ block (R177 to R186). -/
def spRegsOf (c : Core) : List (Nat × Nat) :=
  let s := c.sp
  [(0, bitAt s.fault 31 + bitAt (!c.hold.pages.isEmpty) 30 + bitAt (!s.zeroing.isEmpty) 29 +
      ((c.hold.pages.head?.map (·.1)).getD 0)),
    (4, s.spFault.toNat), (8, s.spFaultBundle.toNat), (0x10, s.tagIndex.toNat), (0x14, (tagOf s s.tagIndex.toNat).toNat),
    (0x28, s.eccUncorrected.toNat), (0x2C, s.eccLast.toNat),
    (0x30, bitAt s.scrubOn 31 + fieldAt s.scrubPasses.toNat 16 + s.scrubRow.toNat), (0x34, s.breakerCount.toNat)] ++
  wide 0x20 s.eccCorrected.toNat

/-- MX_STATUS (R104). -/
def mxStatus (m : Mx) : Nat :=
  let busy := (m.run.map (·.opened)).getD false
  bitAt m.fault 31 + fieldAt ((m.active.map (·.emax)).getD 0) 19 + fieldAt ((m.active.map (·.width)).getD 0) 17 +
    bitAt m.active.isSome 16 + (if m.loading.isSome then 2 ^ 14 else bitAt m.shadow.isSome 15) + bitAt busy 11 +
    (if busy then fieldAt ((m.run.map (·.pass)).getD 0) 9 else 0) + m.ovf.toNat

/-- The MX_ block (R104 to R109). -/
def mxRegs (m : Mx) : List (Nat × Nat) :=
  [(0, mxStatus m), (4, m.mxFault.toNat), (8, m.mxFaultBundle.toNat), (0x20, m.loadCount.toNat)] ++
    wide 0x10 m.rowCount.toNat ++ wide 0x18 m.idleCount.toNat

/-- The level of a loop-back queue as VX_STATUS codes it (R134). -/
def lbCode (n : Nat) : Nat := if n = 0 then 0 else if n ≤ 4 then 1 else if n ≤ 7 then 2 else 3

/-- VX_STATUS (R134). -/
def vxStatus (c : Core) : Nat :=
  let v := c.vx
  let ready := fun (p : ParamBank) => p.ready && decide (p.readyAt ≤ c.ctl.cycle)
  bitAt v.fault 31 + bitAt v.t1.full 13 + bitAt v.t0.full 12 + bitAt (ready v.p1) 11 + bitAt (ready v.p0) 10 +
    bitAt (v.drains.any fun d => decide (c.ctl.cycle < d.t + d.m)) 9 +
    (v.lb.zipIdx.map fun p => fieldAt (lbCode p.1.length) (2 * p.2)).sum

/-- The VX_ block (R134 to R138). -/
def vxRegs (c : Core) : List (Nat × Nat) :=
  let v := c.vx
  [(0, vxStatus c), (4, v.vxFault.toNat), (0x44, v.seq.toNat), (0x48, v.snap.produced.toNat), (0x4C, v.snap.clipHigh.toNat),
    (0x50, v.snap.clipLow.toNat), (0x54, v.snap.underflow.toNat)]

/-- A core's 1 MiB window (R25, R29). -/
def coreRead (c : Core) (off : Nat) : Nat :=
  match off / 0x10000 with
  | 0 => look (ccRegs c) (off % 0x10000) 0
  | 1 => look (spRegsOf c) (off % 0x10000) 0
  | 2 => look (mxRegs c.mx) (off % 0x10000) 0
  | 3 => look (vxRegs c) (off % 0x10000) 0
  | _ => 0

/-- Where a register address leads: the block's number in the register map, or 0x10 + n for core n's window, and the
offset in it; none where no block lies (R25, R29). -/
def regBlock (addr : Nat) : Option (Nat × Nat) :=
  if addr < 0x003000000000 ∨ 0x003003000000 ≤ addr then none
  else
    let off := addr - 0x003000000000
    if off < 0x0A0000 then some (off / 0x10000, off % 0x10000)
    else if off < 0x1000000 then none
    else some (0x10 + (off - 0x1000000) / 0x100000, off % 0x100000)

/-- What a register reads as now, without the effects a read may have. -/
def blockRead (s : State) (blk off : Nat) : Nat :=
  match blk with
  | 0 => hiRead s off
  | 1 => look (mcRegs s.hbm) off 0
  | 2 => flRead s.flash off
  | 3 => nwRead s.net off
  | 4 => stRead s.net off
  | 5 => look (pwRegs s.pw) off 0
  | 6 => look [(0, bitAt s.pw.pllLocked 31 + s.pw.curDiv.toNat)] off 0
  | 7 => look [(0, scStatus s), (4, scBoot s.sc), (8, scDebug s)] off 0
  | 8 => elRead s off
  | 9 => if off < 0x400 then (mgByte s (off / 4)).toNat else 0
  | k => coreRead (coreAt s (k - 0x10)) off

/-- A read's effect: FL_EI_DATA and SP_TAG_DATA move their index on (R180, R404). -/
def blockTouch (s : State) (blk off : Nat) : State :=
  if blk = 2 ∧ off = 0x24 then nextOf s (execFlEiDataRead s)
  else if 0x10 ≤ blk ∧ off = 0x10014 then nextOf s (execSpTagDataRead (blk - 0x10) s)
  else s

/-- The low halves of 64-bit registers (R7, R520). -/
def isWide (blk off : Nat) : Bool :=
  match blk with
  | 0 => off == 0x18 || (decide (0x2000 ≤ off ∧ off < 0x3000) && (off % 64 == 0 || off % 64 == 8 || off % 64 == 0x18)) ||
      off == 0x8008 || off == 0x8010 || (decide (0xE100 ≤ off ∧ off < 0xE200) && off % 8 == 0)
  | 1 => off == 0x10 || off == 0x20
  | 2 => off == 0x110 || off == 0x118 || off == 0x150 || off == 0x158
  | 4 => (decide (0x100 ≤ off ∧ off < 0x180) || decide (0x200 ≤ off ∧ off < 0x280)) && off % 8 == 0
  | 5 => false
  | 6 => false
  | 7 => false
  | 8 => false
  | 9 => false
  | 3 => false
  | _ => [0x10, 0x18, 0x28, 0x50, 0x10020, 0x20010, 0x20018].contains off

/-- The block's domain is powered and clocked: the management island's blocks always are, the others not in Felt nor
once the clocks have stopped (R21, R537, R543). -/
def blockUp (s : State) (blk off : Nat) : Bool :=
  let island := blk == 5 || blk == 7 || (blk == 8 && off != 0x10 && off != 0x14) || blk == 9 ||
    (blk == 3 && ((decide (0x20 ≤ off) && decide (off < 0x50)) || (decide (0x300 ≤ off) && decide (off < 0x320))))
  let rest : Bool := match s.pw.phase with
    | .active => true
    | .voile => true
    | .entering _ _ => true
    | .exiting f => !f
    | _ => false
  powered s && (island || rest)

/-! ### Writes -/

/-- The mailbox command of an opcode written to HI_SVC_CMD (R488); a reserved one gives E_SVC_COMMAND. -/
def mailboxCmd (s : State) (op : Nat) : State :=
  nextOf s (match op with
    | 0x01 => execGetInfo s
    | 0x02 => execReadTelemetry s
    | 0x03 => execReadLog s
    | 0x10 => execSvcFlashRead s
    | 0x11 => execSvcFlashProgram s
    | 0x12 => execSvcFlashErase s
    | 0x13 => execSvcFlashUnlock s
    | 0x20 => execUpdateBegin s
    | 0x21 => execUpdateWrite s
    | 0x22 => execUpdateVerify s
    | 0x23 => execUpdateActivate s
    | 0x24 => execUpdateCommit s
    | 0x30 => execSvcAttest s
    | 0x40 => execPowerRequest s
    | _ => .next (mailCmd s op fun t => mailDone t 0x0204))

/-- A ring's registers written, at offsets from 0x2000 + 0x40 × nn: base writes only while the ring is IDLE (R463, R500,
R501). -/
def ringWrite (s : State) (q off v : Nat) : State :=
  let base := BitVec.ofNat 36 (v / 4096 * 4096)
  let idleOnly := fun (f : Ring → Ring) => modRing s q fun r => if r.state = .idle then f r else r
  match off with
  | 0 => idleOnly fun r => { r with sqBase := base }
  | 8 => idleOnly fun r => { r with cqBase := base }
  | 0x10 => writeQCtrl s q (BitVec.ofNat 32 v)
  | 0x18 => idleOnly fun r => { r with resBase := base }
  | _ => s

/-- The HI_ block written: the service mailbox and MSI-X tables, the bisection registers, and the rest (R301 to R304,
R460, R493 to R504, R586). `pf0` says that the write came through PF0. -/
def hiWrite (s : State) (pf0 : Bool) (off v : Nat) : State :=
  let h := s.host
  let w := BitVec.ofNat 32 v
  if off = 0x08 then writeDriverCfg s w
  else if off = 0x0C then nextOf s (execHeartbeat w s)
  else if off = 0x10 then { s with host := { h with waitTimeoutMs := BitVec.ofNat 16 v } }
  else if off = 0x18 then { s with host := { h with bar2Base := BitVec.ofNat 36 (v / 0x10000000 * 0x10000000) } }
  else if 0x1000 ≤ off ∧ off < 0x1200 then
    nextOf s (if off % 8 = 0 then execSqDoorbell ((off - 0x1000) / 8) w s else execCqHeadWrite ((off - 0x1000) / 8) w s)
  else if 0x2000 ≤ off ∧ off < 0x3000 then ringWrite s ((off - 0x2000) / 64) (off % 64) v
  else if 0x4000 ≤ off ∧ off < 0x4800 then
    { s with host := { h with msixTable0 := memWrite h.msixTable0 zeroDflt (off - 0x4000) (toLe 4 v) } }
  else if off = 0x8000 then mailboxCmd s (v % 256)
  else if off = 0x8008 then { s with host := { h with mail := { h.mail with arg0 := BitVec.ofNat 64 v } } }
  else if off = 0x8010 then { s with host := { h with mail := { h.mail with arg1 := BitVec.ofNat 64 v } } }
  else if 0x9000 ≤ off ∧ off < 0xA000 then
    { s with host := { h with mail := { h.mail with buf := splice (fitBytes 4096 h.mail.buf) (off - 0x9000) (toLe 4 v) } } }
  else if 0xB000 ≤ off ∧ off < 0xB100 then
    { s with host := { h with msixTable1 := memWrite h.msixTable1 zeroDflt (off - 0xB000) (toLe 4 v) } }
  else if off = 0xE000 then writeDbgCtrl s w
  else if off = 0xE008 then nextOf s (execDbgSel w s)
  else if off = 0xE010 then (if pf0 then writeDbgOpen s w else s)
  else if 0xE100 ≤ off ∧ off < 0xE200 ∧ off % 8 = 0 then
    (if s.sc.observe then
      { s with host := { h with
          dbgStops := h.dbgStops.set ((off - 0xE100) / 8) (BitVec.ofNat 64 v &&& 0x800FFFFFFFFFFFFF)
          dbgArmed := true } }
     else s)
  else s

/-- The FL_ block written (R381, R402 to R410). -/
def flWrite (s : State) (off v : Nat) : State :=
  let f := s.flash
  let n := (off - 0x100) / 64
  if off = 0x04 then { s with flash := { f with
    clkDiv := BitVec.ofNat 2 (nfld v 5 4)
    waitStates := BitVec.ofNat 4 v } }
  else if off = 0x08 then { s with flash := { f with supplyLow := v.testBit 0 } }
  else if off = 0x20 then { s with flash := { f with eiIndex := BitVec.ofNat 9 v } }
  else if off = 0x100 ∨ off = 0x140 then flashCommand s n (v % 256) (nfld v 31 28) (v.testBit 27)
  else if off = 0x108 ∨ off = 0x148 then modFlash s n fun c => { c with addr := BitVec.ofNat 30 v }
  else if off = 0x110 ∨ off = 0x150 then modFlash s n fun c => { c with arg := BitVec.ofNat 64 v }
  else if 0x1000 ≤ off ∧ off < 0x1400 then modFlash s ((off - 0x1000) / 512) fun c => bufWrite c (off % 512) (toLe 4 v)
  else s

/-- The NW_ block written (R446 to R451): mode and cage_width only while every port is held in reset. -/
def nwWrite (s : State) (off v : Nat) : State :=
  let n := s.net
  if off = 0 then
    let held := n.portReset == 0xFF
    writePortReset { s with net := { n with
      cageWidth := if held then v.testBit 2 else n.cageWidth
      mode := if held then BitVec.ofNat 2 v else n.mode } } (BitVec.ofNat 8 (nfld v 15 8))
  else if off = 0x10 then { s with net := { n with
    resultPcp := BitVec.ofNat 3 (nfld v 14 12)
    creditPcp := BitVec.ofNat 3 (nfld v 10 8)
    lossless := BitVec.ofNat 8 v } }
  else if off = 0x14 then { s with net := { n with ecnStep := BitVec.ofNat 6 v } }
  else if off = 0x20 then { s with net := { n with
    wakeOffset := BitVec.ofNat 7 (nfld v 10 4)
    wakeEnable := v.testBit 3
    wakePort := BitVec.ofNat 3 v } }
  else if 0x30 ≤ off ∧ off < 0x40 then { s with net := { n with wakePattern := splice n.wakePattern (off - 0x30) (toLe 4 v) } }
  else if 0x40 ≤ off ∧ off < 0x50 then { s with net := { n with wakeMask := splice n.wakeMask (off - 0x40) (toLe 4 v) } }
  else s

/-- The ST_ block written (R453 to R455): a new batch limit counts at once. -/
def stWrite (s : State) (off v : Nat) : State :=
  let n := s.net
  let w := BitVec.ofNat 64 v
  if off = 0 then { s with net := { n with
    stEnable := v.testBit 31
    udpPort := BitVec.ofNat 16 v } }
  else if 0x100 ≤ off ∧ off < 0x180 ∧ off % 8 = 0 then
    let c := (off - 0x100) / 8
    dispatch { s with net := { n with ctxBatch := n.ctxBatch.set c (w &&& 0xFFFFF03F000001FF) } } c
  else if 0x200 ≤ off ∧ off < 0x280 ∧ off % 8 = 0 then { s with net := { n with ctxResult := n.ctxResult.set ((off - 0x200) / 8) w } }
  else s

/-- The PW_ block written (R557 to R564): the request and the watchdog by firmware only. -/
def pwWrite (s : State) (firmware : Bool) (off v : Nat) : State :=
  let p := s.pw
  match off with
  | 0x04 => if firmware then powerAsk s 1 (v % 4) (nfld v 15 8) else s
  | 0x0C => { s with pw := { p with wakeTimer := BitVec.ofNat 32 v } }
  | 0x10 => nextOf s (execPwDvfsWrite (BitVec.ofNat 32 v) s)
  | 0x14 => { s with pw := { p with cap := BitVec.ofNat 8 v } }
  | 0x18 => { s with pw := { p with
      hysteresis := BitVec.ofNat 8 (nfld v 15 8)
      alarm := BitVec.ofNat 8 v } }
  | 0x1C => if v.testBit 0 then warmReset s false else s
  | 0x20 =>
    if firmware then
      let s1 := { s with pw := { p with wdtPeriod := BitVec.ofNat 16 v } }
      if v.testBit 30 && p.wdtRunning then kickWdt s1 else s1
    else s
  | _ => s

/-- A core's window written (R104, R136, R180, R181, R185, R220, R302). -/
def coreWrite (s : State) (path : RegPath) (k off v : Nat) : State :=
  let w := BitVec.ofNat 32 v
  match off with
  | 0x20 => modCore s k fun c => { c with regs := { c.regs with holdWdt := BitVec.ofNat 5 v } }
  | 0x50 => modCore s k fun c => { c with ctl := { c.ctl with stopAt := BitVec.ofNat 64 v &&& 0x800FFFFFFFFFFFFF } }
  | 0x10010 => modCore s k fun c => { c with sp := { c.sp with tagIndex := BitVec.ofNat 12 v } }
  | 0x10014 => nextOf s (execSpTagDataWrite k path w s)
  | 0x10030 => modCore s k fun c => { c with sp := { c.sp with scrubOn := v.testBit 31 } }
  | 0x20000 => modCore s k fun c => { c with mx := { c.mx with ovf := c.mx.ovf &&& ~~~ BitVec.ofNat 4 v } }
  | 0x30040 => if v.testBit 0 then nextOf s (execVxStatClose k s) else s
  | _ => s

/-- A register written by its access code, through firmware, the host's functions or the window (R9, R25, R29). Read-only
registers, reserved fields and unassigned offsets ignore the write. -/
def blockWrite (s : State) (path : RegPath) (blk off v : Nat) : State :=
  match blk with
  | 0 => hiWrite s (path == .pf0) off v
  | 1 => if off = 0x0C then { s with hbm := { s.hbm with
      srEnable := v.testBit 31
      srIdleUs := BitVec.ofNat 14 v } } else s
  | 2 => flWrite s off v
  | 3 => nwWrite s off v
  | 4 => stWrite s off v
  | 5 => pwWrite s (path == .firmware) off v
  | 6 => s
  | 7 => if path = .window ∧ off = 0x10 then nextOf s (execDecommission (BitVec.ofNat 32 v) s) else s
  | 8 => s
  | 9 => s
  | k => coreWrite s path (k - 0x10) off v

end Sys2Proof.Machine
end

