-- ==== Sys2Proof/Machine/Management.lean ====
section
/-!
DEFINITION. The management port (R505 to R524): its commands, the buffer and latched reads, the soft reset, power requests,
the common command codes of I3C, and reads through the indirect window.
-/

namespace Sys2Proof.Machine

/-! ### Short and long commands (R513 to R518) -/

/-- The port's logic is clocked: not in Felt, nor without power (R524, R609). -/
def mgUp (s : State) : Bool := powered s && s.pw.phase != .felt

/-- The management registers mapped. -/
def modMg (s : State) (f : Mg → Mg) : State := { s with mg := f s.mg }

/-- A long command written to MG_CMD: E_MG_BUSY while one is in progress or has data ready (R516). -/
def mgLongCmd (s : State) (f : State → State) : State :=
  if !mgUp s then s
  else if s.mg.longState = 1 ∨ s.mg.longState = 2 then
    (if s.mg.shortState = 1 then modMg s fun g => { g with shortResult := 0x40 } else mgShort s 0x40)
  else f (modMg s fun g => { g with
    longState := 1
    longSteps := 0 })

/-- A short command written to MG_CMD: discarded while one runs; one that writes the buffer gives E_MG_BUSY while a
dump's data is ready (R516). -/
def mgShortCmd (s : State) (buffer : Bool) (f : State → State) : State :=
  if !mgUp s || s.mg.shortState == 1 then s
  else if buffer && s.mg.longState == 2 then mgShort s 0x40
  else f s

/-- The buffer with bytes written from its start. -/
def mgBuf (s : State) (bs : Bytes) : State := modMg s fun g => { g with buf := splice g.buf 0 bs }

/-- A flash command of the port on channel 1 (R382, R389, R397, R514). Until the scan has ended the channel accepts none;
the result of such a command is not stated, so it is a free value. -/
def mgFlash (s : State) (opcode : Nat) (refuse : State → Nat → State) : State :=
  if s.flash.ch1.op.isSome then refuse s 0x01
  else if feltBegun s then refuse s 0x0B
  else if !flashUp s || !s.flash.scanDone then refuse (nextEpoch s) ((Config.freeWord s.freeCtr 0).toNat % 256)
  else flashCommand (modFlash s 1 fun c => { c with
    addr := BitVec.ofNat 30 s.mg.arg.toNat
    arg := s.mg.arg }) 1 opcode 0 false

/-- A short flash command: it runs until the channel has served it. -/
def mgShortFlash (s : State) (buffer : Bool) (opcode : Nat) : State :=
  mgShortCmd s buffer fun t => mgFlash (modMg t fun g => { g with
    shortState := 1
    shortFlash := true }) opcode mgShort

/-- MG_FLASH_READ (R513, R514): data or status words; bytes beyond the flash are refused. -/
def execMgFlashRead (s : State) : Res :=
  .next (mgShortCmd s true fun t =>
    let off := fld t.mg.arg 29 0
    let n := fld t.mg.arg 41 32 + 1
    if 512 < n ∨ 1073741824 < off + n then mgShort t 0x42
    else
      let r := flashReadBytes t off n
      mgShort (mgBuf r.1 r.2) 0)

/-- MG_FLASH_PROGRAM (R513, R514): the buffer is copied to the page buffer as it starts. -/
def execMgFlashProgram (s : State) : Res :=
  .next (mgLongCmd s fun t =>
    let t1 := modMg t fun g => { g with long := .program }
    mgFlash (if t.flash.ch1.op.isSome then t1 else modFlash t1 1 fun c => bufWrite c 0 (fitBytes 512 t.mg.buf)) 1 mgLong)

/-- MG_FLASH_ERASE (R513, R514). -/
def execMgFlashErase (s : State) : Res :=
  .next (mgLongCmd s fun t => mgFlash (modMg t fun g => { g with long := .erase }) 2 mgLong)

/-- MG_FLASH_READ_INFO (R411, R513). -/
def execMgFlashReadInfo (s : State) : Res := .next (mgShortFlash s true 3)

/-- MG_FLASH_UNLOCK (R393, R513). -/
def execMgFlashUnlock (s : State) : Res := .next (mgShortFlash s false 4)

/-- MG_FLASH_LOCK (R393, R513). -/
def execMgFlashLock (s : State) : Res := .next (mgShortFlash s false 5)

/-- LOG_READ (R513, R590): eight entries from the one given. -/
def execLogRead (s : State) : Res :=
  .next (mgShortCmd s true fun t => mgShort (mgBuf t (logRange t (fld t.mg.arg 7 0) 8)) 0)

/-- A step of LOG_DUMP (R517): up to eight entries to the buffer; the last step ends the command. -/
def dumpStep (s : State) (first left : Nat) : State :=
  let n := min 8 left
  let s1 := mgBuf (modMg s fun g => { g with longSteps := g.longSteps + 1 }) (logRange s first n)
  if left ≤ 8 then mgLong s1 0
  else raiseAlert (modMg s1 fun g => { g with
    longState := 2
    long := .dump (first + n) (left - n) }) 0x10

/-- LOG_DUMP (R513, R517). -/
def execLogDump (s : State) : Res :=
  .next (mgLongCmd s fun t =>
    let n := fld t.mg.arg 16 8
    if n = 0 ∨ 256 < n then mgLong t 0x42 else dumpStep t (fld t.mg.arg 7 0) n)

/-- CONTINUE (R517): the next step of a dump; without one it has nothing to start. -/
def execMgContinue (s : State) : Res :=
  .next (mgShortCmd s false fun t =>
    match t.mg.long with
    | .dump first left => mgShort (dumpStep (modMg t fun g => { g with longState := 1 }) first left) 0
    | _ => mgShort t 0)

/-- MG_ABORT (R388, R516, R517): a dump ends at once; a flash operation at its step boundary. -/
def execMgAbort (s : State) : Res :=
  .next (mgShortCmd s false fun t =>
    match t.mg.long with
    | .dump _ _ => mgShort (modMg t fun g => { g with
        longState := 3
        longResult := 0x44
        long := .none }) 0
    | .none => mgShort t 0
    | _ => mgShort (flashCommand t 1 8 0 false) 0)

/-! ### Mailbox commands (R518) -/

/-- FW_INFO's effect (R513): the manual does not lay the 16 bytes out, so they are free values. -/
def fwInfo (s : State) : State := mgShort (mgBuf (nextEpoch s) ((List.range 16).map (Config.infoByte s.freeCtr))) 0

/-- ATTEST's effect (R513, R573). -/
def mgAttest (s : State) : State := mgShort (mgBuf s (attestReport s (slice s.mg.buf 0 32))) 0

/-- A command passed to firmware: taken at once while firmware serves the mailbox, else waiting for it (R518). -/
def mgMail (s : State) (buffer : Bool) (op : Nat) (f : State → State) : State :=
  mgShortCmd s buffer fun t =>
    if fwServes t then f t
    else modMg t fun g => { g with
      shortState := 1
      mailbox := some op }

/-- FW_INFO (R513). -/
def execFwInfo (s : State) : Res := .next (mgMail s true 0x80 fwInfo)

/-- ATTEST of the management port (R573). -/
def execMgAttest (s : State) : Res := .next (mgMail s true 0x85 mgAttest)

/-- MAILBOX_TIMEOUT (R518). -/
def execMailboxTimeout (s : State) : Res :=
  .next (match s.mg.mailbox with
    | some _ => mgShort (modMg s fun g => { g with mailbox := none }) 0x43
    | none => s)

/-- MG_SOFT_RESET (R519): the long command ends, its flash operation at the step boundary. -/
def softReset (s : State) : State :=
  let flashy : Bool := match s.mg.long with
    | .program => true
    | .erase => true
    | _ => false
  let s1 := modMg s fun g => { g with
    long := .none
    shortFlash := false }
  modMg (if flashy then flashCommand s1 1 8 0 false else s1) softRegs

/-- MG_SOFT_RESET (R519). -/
def execMgSoftReset (s : State) : Res := .next (if mgUp s then softReset s else s)

/-! ### The buffer and latched reads (R507, R508, R510) -/

/-- The buffer's pointer moves on, wrapping at 512. -/
def bumpBuf (g : Mg) : Mg := { g with bufPtr := g.bufPtr + 1 }

/-- MG_BUF_DATA read or written (R510). -/
def bufAccess (s : State) (write : Bool) (v : Byte) : State :=
  if !mgUp s then s
  else modMg s fun g =>
    if write then bumpBuf { g with
      buf := g.buf.set g.bufPtr.toNat v
      regOffset := 0x1B }
    else bumpBuf { g with
      lastRead := [g.buf.getD g.bufPtr.toNat 0]
      regOffset := 0x1B }

/-- MG_BUF_DATA_ACCESS (R510). -/
def execMgBufDataAccess (write : Bool) (v : Byte) (s : State) : Res := .next (bufAccess s write v)

/-- MULTIBYTE_LATCH_READ (R507, R508): the lowest byte of a register latches all of it; its other bytes come from what was
latched. -/
def execMultibyteLatchRead (off : Nat) (s : State) : Res :=
  .next (
    let o := off % 256
    let r := mgReg s o
    let now := toLe r.2.1 r.2.2
    if !mgUp s then s
    else if o = 0x1A then bufAccess s false 0
    else modMg s fun g =>
      let latches := if r.2.1 = 1 ∨ o ≠ r.1 then g.latches else put g.latches r.1 now
      { g with
        latches := latches
        lastRead := [(if r.2.1 = 1 then now else look latches r.1 now).getD (o - r.1) 0]
        regOffset := (o + 1) % 256 })

/-! ### Power (R522 to R524) -/

/-- MG_PWR_REQ (R522). -/
def execMgPwrReq (v : Byte) (s : State) : Res := .next (if mgUp s then powerAsk s 2 v.toNat s.mg.pwrRb.toNat else s)

/-- The port's current address (R506). -/
def portAddr (g : Mg) : Nat := g.dynAddr.getD g.staticAddr

/-- MG_ADDRESS_MATCH (R524, R550): in Felt the comparator wakes the device for the port's own address. -/
def execMgAddressMatch (addr : Nat) (s : State) : Res :=
  .next (if s.pw.phase = .felt ∧ addr = portAddr s.mg ∧ addr ≠ 0x7E then wakeBy s 4 0 else s)

/-! ### Common command codes of I3C (R506, R509) -/

/-- A common command the port takes while its logic is clocked. -/
def ccc (s : State) (f : Mg → Mg) : State := if mgUp s then modMg s f else s

/-- The answer to a GET command, whose value the manual leaves to the part. -/
def cccAnswer (s : State) (code n : Nat) : State := ccc s fun g => { g with lastRead := (List.range n).map (Config.cccByte code) }

/-- ENTDAA (R506): a port without a dynamic address takes one. -/
def execEntdaa (addr : Nat) (s : State) : Res := .next (ccc s fun g => { g with dynAddr := g.dynAddr <|> some (addr % 128) })

/-- SETDASA (R506): by the static address. -/
def execSetdasa (statAddr addr : Nat) (s : State) : Res :=
  .next (ccc s fun g => if statAddr = g.staticAddr then { g with dynAddr := g.dynAddr <|> some (addr % 128) } else g)

/-- SETNEWDA (R506): a new address for one assigned before. -/
def execSetnewda (addr : Nat) (s : State) : Res := .next (ccc s fun g => { g with dynAddr := g.dynAddr.map fun _ => addr % 128 })

/-- RSTDAA (R506). -/
def execRstdaa (s : State) : Res := .next (ccc s fun g => { g with dynAddr := none })

/-- ENEC (R506, R509): bit 0 of the event byte enables in-band interrupts. -/
def execEnec (ev : Byte) (s : State) : Res := .next (ccc s fun g => { g with ibiEnabled := g.ibiEnabled || ev.toNat.testBit 0 })

/-- DISEC (R506). -/
def execDisec (ev : Byte) (s : State) : Res := .next (ccc s fun g => { g with ibiEnabled := g.ibiEnabled && !ev.toNat.testBit 0 })

/-- GETPID (R506): 48 bits. -/
def execGetpid (s : State) : Res := .next (ccc s fun g => { g with lastRead := fitBytes 6 Config.pid })

/-- GETBCR (R506). -/
def execGetbcr (s : State) : Res := .next (cccAnswer s 0x8E 1)

/-- GETDCR (R506). -/
def execGetdcr (s : State) : Res := .next (cccAnswer s 0x8F 1)

/-- GETSTATUS (R506): two bytes of status, which the manual does not lay out, so a fresh free value each time. -/
def execGetstatus (s : State) : Res :=
  .next (ccc (if mgUp s then nextEpoch s else s) fun g => { g with lastRead := (List.range 2).map (Config.freeByte s.freeCtr) })

/-- GETMWL (R506): the greatest write length, two bytes. -/
def execGetmwl (s : State) : Res := .next (cccAnswer s 0x8B 2)

/-- GETMRL (R506): the greatest read length, and that of an in-band interrupt. -/
def execGetmrl (s : State) : Res := .next (cccAnswer s 0x8C 3)

/-! ### The indirect window (R520, R521, R581) -/

/-- A window access that may not be made (R21, R25, R521, R581). -/
def winRefused (s : State) (write : Bool) (addr : Nat) : Bool :=
  match regBlock addr with
  | none => true
  | some p => !blockUp s p.1 p.2 || (p.1 == 0 && decide (0xE000 ≤ p.2)) || (write && p.1 == 7 && p.2 != 0x10)

/-- The window's address, word aligned. -/
def winAddress (g : Mg) : Nat := g.winAddr.toNat / 4 * 4

/-- MG_WIN_DATA and MG_WIN_STATUS after an access. -/
def winDone (s : State) (error : Bool) (v : W32) : State :=
  modMg s fun g => { g with
    winError := error
    winData := v }

/-- The window reads MG_WIN_ADDR: a low half latches the high half, which a read of the high half then returns (R520). -/
def windowRead (s : State) : State :=
  let a := winAddress s.mg
  match (if winRefused s false a then none else regBlock a) with
  | none => winDone s true 0xFFFFFFFF
  | some p =>
    let v := BitVec.ofNat 32 (blockRead s p.1 p.2)
    let s1 := blockTouch s p.1 p.2
    if isWide p.1 p.2 then
      winDone (modMg s1 fun g => { g with winHigh := BitVec.ofNat 32 (blockRead s p.1 (p.2 + 4)) }) false v
    else if 4 ≤ p.2 && isWide p.1 (p.2 - 4) then winDone s1 false s.mg.winHigh
    else winDone s1 false v

/-- WINDOW_READ (R520): 0x01 written to MG_WIN_CTRL. -/
def execWindowRead (s : State) : Res := .next (if mgUp s && !s.mg.winBusy then windowRead s else s)

/-- The window writes MG_WIN_DATA to MG_WIN_ADDR: a low half is held until its high half is written (R520). -/
def windowWrite (s : State) : State :=
  let a := winAddress s.mg
  let v := s.mg.winData
  match (if winRefused s true a then none else regBlock a) with
  | none => winDone s true v
  | some p =>
    if isWide p.1 p.2 then winDone (modMg s fun g => { g with winLow := some (a, v) }) false v
    else if 4 ≤ p.2 && isWide p.1 (p.2 - 4) then
      let low := match s.mg.winLow with
        | some l => if l.1 + 4 = a then l.2.toNat else blockRead s p.1 (p.2 - 4)
        | none => blockRead s p.1 (p.2 - 4)
      blockWrite (winDone (modMg s fun g => { g with winLow := none }) false v) .window p.1 (p.2 - 4) (v.toNat * 2 ^ 32 + low)
    else blockWrite (winDone s false v) .window p.1 p.2 v.toNat

/-- WINDOW_WRITE (R520): 0x02 written to MG_WIN_CTRL. -/
def execWindowWrite (s : State) : Res := .next (if mgUp s && !s.mg.winBusy then windowWrite s else s)

end Sys2Proof.Machine
end

