-- ==== Sys2Proof/Machine/Calico.lean ====
section
/-!
DEFINITION. Calico mode (R525 to R531): the configuration record and the catalogue, the start, the streams it binds and
unbinds, and its stop.
-/

namespace Sys2Proof.Machine

/-! ### The configuration record (R525) -/

/-- A record that fails its checks: magic, version, CRC, fields and reserved bytes. -/
def badRecord (r : Bytes) : Bool :=
  let mode := rdLe r 7 1
  rdLe r 0 4 != 0x434C4143 || rdLe r 4 2 != 1 || rdLe r 0xFC 4 != crc32 (slice r 0 252) || decide (1 < rdLe r 6 1) ||
    decide (7 < mode) || mode % 4 == 3 || (mode % 4 == 2 && decide (mode < 4)) || rdLe r 0x0E 1 / 8 % 2 == 1 ||
    decide (127 < rdLe r 0x0E 1) || (slice r 0xC0 8).any (fun b => decide (128 < b.toNat)) || (slice r 0xCA 50).any (· != 0)

/-- A record with a sequence number, and the CRC that fits it. -/
def withSeq (r : Bytes) (seq : Nat) : Bytes :=
  let b := slice (splice r 8 (toLe 4 seq)) 0 252
  b ++ toLe 4 (crc32 b)

/-- CALICO_WRITE_CONFIG's effect (R525): a record that passes is stored with the next sequence number. -/
def writeRecord (s : State) : State :=
  let r := slice (fitBytes 512 s.mg.buf) 0 256
  if badRecord r then mgShort s 0x42
  else mgShort { s with flash := { s.flash with record := withSeq r (rdLe s.flash.record 8 4 + 1) } } 0

/-! ### The catalogue (R526) -/

/-- Fields of a catalogue entry (R526). -/
def caOn (e : Bytes) : Bool := rdLe e 0 1 % 2 == 1
def caType (e : Bytes) : Nat := rdLe e 1 1
def caFirst (e : Bytes) : Nat := rdLe e 4 2
def caLast (e : Bytes) : Nat := rdLe e 6 2
def caLanes (e : Bytes) : Nat := rdLe e 8 1
def caPer (e : Bytes) : Nat := rdLe e 0x0A 2
def caDeadline (e : Bytes) : Nat := rdLe e 0x0C 4
def caImage (e : Bytes) : Nat := rdLe e 0x10 8
def caImageBytes (e : Bytes) : Nat := rdLe e 0x18 4
def caPages (e : Bytes) : Nat := rdLe e 0x1C 2
def caSlots (e : Bytes) : Nat := rdLe e 0x1E 2
def caWeights (e : Bytes) : Nat := rdLe e 0x20 8
def caSlotBytes (e : Bytes) : Nat := rdLe e 0x28 4

/-- Where the directory lies, and its bytes: a header of 64 and 16 entries of 128 (R526). -/
def dirOffset : Nat := 0x04000000
def dirBytes : Nat := 2112

/-- Entry `i` of a directory. -/
def catalogue (dir : Bytes) (i : Nat) : Bytes := slice dir (64 + 128 * i) 128

/-- The header's magic, version, CRC and zero bytes. -/
def dirValid (dir : Bytes) : Bool :=
  rdLe dir 0 4 == 0x4C544143 && rdLe dir 4 2 == 1 && rdLe dir 60 4 == crc32 (slice dir 64 2048) && (slice dir 6 54).all (· == 0)

/-- An entry CALICO_WRITE_ENTRY refuses for one of its fields; of a disabled entry only flags and reserved bytes are
checked (assumption 46). -/
def badCatalogue (e : Bytes) : Bool :=
  decide (3 < rdLe e 0 1) || rdLe e 9 1 != 0 || (slice e 0x50 48).any (· != 0) ||
    (caOn e &&
      (decide (2 < caType e) || decide (caLast e < caFirst e) || decide (4095 < caLast e) || caLanes e == 0 || decide (32 < caLanes e) ||
        caPer e == 0 || decide (64 < caPer e) || caDeadline e == 0 || decide (1000000 < caDeadline e) ||
        decide (1073741824 < caImage e + max 256 (caImageBytes e)) || caPages e == 0 || decide (4096 < caPages e) ||
        decide (caSlots e < 2) || decide (4096 < caSlots e) || decide (1073741824 < caWeights e + 64) || caSlotBytes e == 0 ||
        caSlotBytes e % 4096 != 0 || decide (1048576 < caSlotBytes e) || rdLe e 0x2C 4 % 64 != 0 || decide (65535 < rdLe e 0x2C 4) ||
        rdLe e 0x30 8 % 64 != 0 || decide (2 ^ 48 ≤ rdLe e 0x30 8) || (slice e 0x40 16).any fun b => decide (127 < b.toNat)))

/-- The stream ranges of two enabled entries overlap. -/
def rangesMeet (a b : Bytes) : Bool := caOn a && caOn b && decide (caFirst a ≤ caLast b) && decide (caFirst b ≤ caLast a)

/-- The directory with an entry replaced, under a header that fits. -/
def newDir (dir : Bytes) (i : Nat) (e : Bytes) : Bytes :=
  let entries := (List.range 16).flatMap fun j => if j = i then e else if dirValid dir then catalogue dir j else List.replicate 128 0
  toLe 4 0x4C544143 ++ toLe 2 1 ++ List.replicate 54 0 ++ toLe 4 (crc32 entries) ++ entries

/-- CALICO_WRITE_ENTRY's effect (R526): the sector is erased and programmed again with the new directory, the rest of it
as it was (assumption 46). -/
def writeEntry (s : State) : State :=
  let i := fld s.mg.arg 3 0
  let e := slice (fitBytes 512 s.mg.buf) 0 128
  let dir := flashBytes s.flash dirOffset dirBytes
  if badCatalogue e || (dirValid dir && (List.range 16).any fun j => j != i && rangesMeet e (catalogue dir j)) then mgShort s 0x42
  else
    let f := { s.flash with
      eraseCount := put s.flash.eraseCount 1024 (look s.flash.eraseCount 1024 0 + 1)
      freePages := s.flash.freePages.filter fun p => decide (p.1 < dirOffset / 512) || decide (dirOffset / 512 + 5 ≤ p.1) }
    mgShort { s with flash := flashProgram f dirOffset (newDir dir i e) } 0

/-! ### The start (R527) -/

/-- Step 2: ports, addresses, priorities and the stream engine as the record has them (R525). -/
def setNetwork (s : State) (r : Bytes) : State :=
  let pm := rdLe r 7 1
  let s1 := if s.net.mode.toNat = pm % 4 ∧ s.net.cageWidth = pm.testBit 2 then s else nwWrite (nwWrite s 0 0xFF00) 0 (0xFF00 + pm)
  let s2 := { s1 with net := { s1.net with
    macs := (List.range 8).map fun i => rdBe r (0x10 + 6 * i) 6
    ips := (List.range 8).map fun i => slice r (0x40 + 16 * i) 16
    prefixes := slice r 0xC0 8
    stEnable := true
    udpPort := BitVec.ofNat 16 (rdLe r 0x0C 2) } }
  nwWrite (nwWrite s2 0x10 (rdLe r 0x0E 1 / 16 % 8 * 4096 + rdLe r 0x0E 1 % 8 * 256 + rdLe r 0x0F 1)) 0 pm

/-- The image of an entry copied, verified and installed as LOAD_PROGRAM does. -/
def startImage (s : State) (c : Nat) (e : Bytes) : Option State :=
  let head := flashData s (caImage e) 256
  let n := max 256 (rdLe head 0x18 8)
  if flashLost s.flash (caImage e) n ∨ 1073741824 < caImage e + n then none
  else match allocCtx s c n with
    | none => none
    | some copy =>
      let s1 := hbmWrite s copy (flashData s (caImage e) n)
      let img := hbmRead s1 copy n
      if (verify img (ctxAt s c).pages).isSome ∨ (ctxAt s c).lanes < (presentLanes img).length then none
      else
        let s2 := modCtx s1 c fun x => { x with
          image := some img
          copyBase := copy
          workBase := hbmEnd }
        (allocCtx s2 c (imgWorkBytes img)).map fun w => modCtx s2 c fun x => { x with workBase := w }

/-- The weight set of an entry staged in slot A as LOAD_WEIGHTS does, all of it from flash. -/
def startSet (s : State) (c : Nat) (e : Bytes) : Option State :=
  let head := flashData s (caWeights e) 64
  let n := 64 + 64 * rdLe head 6 2
  let d := flashData s (caWeights e) n
  if flashLost s.flash (caWeights e) n || decide (1073741824 < caWeights e + n) || (badSet d).isSome ||
      (List.range (wsTensors d)).any fun i => teKind (wsEntry d i) != 1 then none
  else match (if stageBytes d = 0 then some 0 else allocCtx s c (stageBytes d)) with
    | none => none
    | some b =>
      let s1 := modSlot s c 0 fun z => { Slot.reset with
        state := .loading
        desc := d
        staged := layOut d b
        refs := z.refs }
      match fetchSet c 0 false .ok [] (List.range (wsTensors d)) s1 with
      | (s2, .ok, _) => some (modSlot s2 c 0 fun z => { z with state := .ready })
      | _ => none

/-- Step 3 for entry `i`: the highest UNLOADED context takes it, or it is skipped and logged. -/
def startEntry (s : State) (i : Nat) : State :=
  let e := catalogue s.calico.dir i
  let go : Option State := do
    let c ← (List.range 16).reverse.find? fun c => !(ctxAt s c).configured
    let base ← allocShare s (rdLe e 0x38 8)
    let s1 := modCtx s c fun _ => { Ctx.reset with
      configured := true
      lanes := caLanes e
      pages := caPages e
      wdtExp := 20
      useWindow := 10
      hbmBase := base
      hbmBytes := rdLe e 0x38 8
      calico := some i }
    let s2 ← startImage s1 c e
    let s3 ← startSet s2 c e
    let s4 := stWrite s3 (0x100 + 8 * c) (min 1000000 (caDeadline e) * 2 ^ 44 + 63 * 2 ^ 32 + (caPer e - 1))
    let s5 := stWrite s4 (0x200 + 8 * c) (rdLe e 0x2C 4 * 2 ^ 48 + rdLe e 0x30 8)
    some { s5 with calico := { s5.calico with started := s5.calico.started ++ [(i, c)] } }
  match go with
  | some t => t
  | none => logAdd { s with calico := { s.calico with skipped := BitVec.ofNat 4 (satAdd 4 s.calico.skipped.toNat 1) } }
      { logEntry 0 0x0C 0x0503 1 with detail := i }

/-- Step 4: the catalogue digest over the directory and what was started (R337, R527). -/
def catalogueDigest (s : State) : Bytes :=
  Config.sha512 (s.calico.dir ++ s.calico.started.flatMap fun p =>
    ((ctxAt s p.2).image.getD []) ++ (ctxAt s p.2).slotA.desc)

/-- MG_CALICO_STATUS.state changes (R513, R528). -/
def calicoState (s : State) (v : Nat) : State := raiseAlert { s with calico := { s.calico with state := BitVec.ofNat 2 v } } 0x40

/-- Calico starts (R527). -/
def calicoStart (s : State) : State :=
  let r := s.flash.record
  if r.isEmpty ∨ rdLe r 6 1 % 2 = 0 then (if s.calico.state = 0 then s else calicoState s 0)
  else
    let s1 := setNetwork (calicoState s 1) r
    let dir := flashBytes s1.flash dirOffset dirBytes
    let s2 := { s1 with calico := { s1.calico with
      dir := dir
      started := []
      reported := []
      skipped := 0 } }
    let on := if dirValid dir then (List.range 16).filter fun i => caOn (catalogue dir i) else []
    let s3 := on.foldl startEntry s2
    calicoState { s3 with calico := { s3.calico with digest := catalogueDigest s3 } } 2

/-- CALICO_START (R527): at the end of firmware start-up. -/
def execCalicoStart (s : State) : Res := .next (if fwRuns s && s.calico.state == 0 then calicoStart s else s)

/-! ### Stop and restart (R527, R531) -/

/-- Every Calico context taken over (R531); one whose batch runs follows when the batch has ended. -/
def takeOverAll (s : State) : State := (List.range 16).foldl takeOver s

/-- CALICO_STOP's effect (R531). -/
def calicoStop (s : State) : State := mgShort (calicoState (takeOverAll s) 3) 0

/-- CALICO_RESTART's effect (R527): what runs is taken over first (assumption 47). -/
def calicoRestart (s : State) : State := mgShort (calicoStart (takeOverAll s)) 0

/-- CALICO_WRITE_CONFIG (R525). -/
def execCalicoWriteConfig (s : State) : Res := .next (mgMail s false 0x81 writeRecord)

/-- CALICO_WRITE_ENTRY (R526). -/
def execCalicoWriteEntry (s : State) : Res := .next (mgMail s false 0x82 writeEntry)

/-- CALICO_RESTART (R527). -/
def execCalicoRestart (s : State) : Res := .next (mgMail s false 0x83 calicoRestart)

/-- CALICO_STOP (R531). -/
def execCalicoStop (s : State) : Res := .next (mgMail s false 0x84 calicoStop)

/-! ### Streams (R529, R530) -/

/-- The started entry whose range holds a stream ID: its index and context, while Calico still owns it. -/
def entryFor (s : State) (sid : Nat) : Option (Nat × Nat) :=
  s.calico.started.find? fun p => decide (caFirst (catalogue s.calico.dir p.1) ≤ sid) && decide (sid ≤ caLast (catalogue s.calico.dir p.1)) &&
    (ctxAt s p.2).calico == some p.1

/-- The lowest rank of a context that no stream has. -/
def freeRank (s : State) (c : Nat) : Option Nat :=
  (List.range 64).find? fun r => !(s.net.streams.any fun st => streamValid st && seCtx st.entry == c && seRank st.entry == r)

/-- The stream entry of a Calico binding (R433, R529); its reassembly time, which the manual does not give, is a free
value. -/
def calicoEntry (e : Bytes) (p : SspPacket) (c rank base reassembly : Nat) : Bytes :=
  [5] ++ toLe 1 c ++ toLe 1 (caType e) ++ [0] ++ slice e 2 2 ++ toLe 1 rank ++ [0] ++ toLe 8 base ++ toLe 4 (caSlotBytes e) ++
    toLe 2 (caSlots e) ++ toLe 2 reassembly ++ toBe 16 p.srcAddr ++ toLe 2 p.srcPort ++ [0, 0] ++ List.replicate 20 0

/-- UNBOUND_REPORT (R529): the report of a packet dropped as unbound, and the binding firmware makes of it. -/
def unboundReport (s : State) (p : SspPacket) : State :=
  let recent := s.calico.reported.any fun r => r.1 == p.stream && decide (s.timeUs < r.2 + 10000)
  match entryFor s p.stream with
  | none => s
  | some ic =>
    let e := catalogue s.calico.dir ic.1
    if !fwRuns s || s.calico.state != 2 || !s.net.stEnable || malformed p || (boundStream s p).isSome || recent then s
    else
      let s1 := { s with calico := { s.calico with reported := put s.calico.reported p.stream s.timeUs } }
      let taken := ((streamOf s p.stream).map streamValid).getD false
      match freeRank s ic.2, allocCtx s ic.2 (caSlots e * caSlotBytes e) with
      | some r, some base =>
        if taken || !(p.ptype == 3 || p.ptype == caType e) then s1
        else
          let us := 1 + (Config.freeWord s.freeCtr 0).toNat % 65535
          let s2 := bindSid (nextEpoch s1) p.stream (calicoEntry e p ic.2 r base us) true
          if p.ptype = 3 then
            (match boundStream s2 p with
             | some st => controlPacket s2 st p
             | none => s2)
          else s2
      | _, _ => s1

/-- UNBOUND_REPORT (R529). -/
def execUnboundReport (p : SspPacket) (s : State) : Res := .next (unboundReport s p)

/-- CALICO_IDLE_UNBIND (R530): the stream's entry is invalid and its rank free; frames admitted complete. -/
def execCalicoIdleUnbind (sid : Nat) (s : State) : Res :=
  .next (match streamOf s sid with
    | some st => if fwRuns s && st.calico && streamValid st then unbindStream s sid else s
    | none => s)

end Sys2Proof.Machine
end

