-- ==== Sys2Proof/Machine/Access.lean ====
section
/-!
DEFINITION. Register writes by every path (R7, R9, R25, R460, R507, R508, R520), and the firmware and clock that run while no
command waits.
-/

namespace Sys2Proof.Machine

/-- A command started by writing its opcode to MG_CMD (R513); a reserved opcode gives E_MG_COMMAND. -/
def mgCommand (s : State) (op : Nat) : State :=
  nextOf s (match op with
    | 0x01 => execMgFlashRead s
    | 0x02 => execMgFlashProgram s
    | 0x03 => execMgFlashErase s
    | 0x04 => execMgFlashReadInfo s
    | 0x05 => execMgFlashUnlock s
    | 0x06 => execMgFlashLock s
    | 0x08 => execLogRead s
    | 0x09 => execLogDump s
    | 0x0A => execMgContinue s
    | 0x0F => execMgAbort s
    | 0x80 => execFwInfo s
    | 0x81 => execCalicoWriteConfig s
    | 0x82 => execCalicoWriteEntry s
    | 0x83 => execCalicoRestart s
    | 0x84 => execCalicoStop s
    | 0x85 => execMgAttest s
    | _ => .next (mgShortCmd s false fun t => mgShort t 0x41))

/-- The value of a register's bytes, as written so far and as they stand (R508). -/
def heldValue (s : State) (base n : Nat) : Nat :=
  leNat ((List.range n).map fun i => look s.mg.held (base + i) (mgByte s (base + i)))

/-- A byte of a register of several bytes: the register changes when its highest byte is written (R508). -/
def mgPart (s : State) (off base n : Nat) (v : Byte) (f : Nat → Mg → Mg) : State :=
  let s1 := modMg s fun g => { g with held := put g.held off v }
  if off + 1 = base + n then
    modMg s1 fun g => f (heldValue s1 base n) { g with held := g.held.filter fun p => decide (p.1 < base) || decide (base + n ≤ p.1) }
  else s1

/-- A byte written to the direct map (R507 to R510); other offsets are read-only or reserved. -/
def mgWriteByte (s : State) (off : Nat) (v : Byte) : State :=
  if off = 0x09 then setAlert s (s.mg.alert &&& ~~~ v) s.mg.alertEn
  else if off = 0x0A then setAlert s s.mg.alert v
  else if off = 0x0B then mgCommand s v.toNat
  else if off = 0x0F then (if v.toNat.testBit 0 then softReset s else s)
  else if 0x10 ≤ off ∧ off < 0x18 then mgPart s off 0x10 8 v fun n g => { g with arg := BitVec.ofNat 64 n }
  else if 0x18 ≤ off ∧ off < 0x1A then mgPart s off 0x18 2 v fun n g => { g with bufPtr := BitVec.ofNat 9 n }
  else if off = 0x1A then bufAccess s true v
  else if off = 0x20 then nextOf s (execMgPwrReq v s)
  else if off = 0x21 then modMg s fun g => { g with pwrRb := v }
  else if 0x60 ≤ off ∧ off < 0x66 then mgPart s off 0x60 6 v fun n g => { g with winAddr := BitVec.ofNat 48 n }
  else if 0x66 ≤ off ∧ off < 0x6A then mgPart s off 0x66 4 v fun n g => { g with winData := BitVec.ofNat 32 n }
  else if off = 0x6A then
    nextOf s (if v = 1 then execWindowRead s else if v = 2 then execWindowWrite s else .next s)
  else s

/-- The write reaches a register: firmware every block, PF0 and PF1 their parts of the HI_ block (R25, R460, R581). -/
def pathReaches (path : RegPath) (blk off : Nat) : Bool :=
  match path with
  | .pf0 => blk == 0 && !(decide (0x8000 ≤ off) && decide (off < 0xC000))
  | .pf1 => blk == 0 && decide (0x8000 ≤ off) && decide (off < 0xC000)
  | _ => true

/-- A write that reaches no register its path may write faults the requester, firmware or the host's PCIe function, with
E_ADDRESS (R25, R29; assumption 60). Without power nothing answers. -/
def faultWrite (s : State) (path : RegPath) (addr : Nat) : State :=
  if s.pw.phase = .off then s
  else (logPut s { logEntry 1 (match path with | .pf0 | .pf1 => 0x0B | _ => 0x0C) 0x0107 1 with address := addr }).1

/-- A register written through a path. Through the window the address and data are those of the operands (R520); on the
direct path the address is a direct-map offset, and the write sets the offset of the transfers that follow (R507). -/
def writeReg (s : State) (path : RegPath) (addr : Nat) (v : W64) : State :=
  match path with
  | .direct =>
    if mgUp s then modMg (mgWriteByte s (addr % 256) (v.setWidth 8)) fun g => { g with regOffset := (addr + 1) % 256 } else s
  | .window =>
    if mgUp s && !s.mg.winBusy then
      windowWrite (modMg s fun g => { g with
        winAddr := BitVec.ofNat 48 addr
        winData := v.setWidth 32 })
    else s
  | _ =>
    match regBlock addr with
    | none => faultWrite s path addr
    | some p =>
      if p.1 ≠ 0 ∧ !pathReaches path p.1 p.2 then faultWrite s path addr
      else if addr % 4 ≠ 0 ∨ !blockUp s p.1 p.2 ∨ !pathReaches path p.1 p.2 then s
      else blockWrite s path p.1 p.2 (if isWide p.1 p.2 then v.toNat else v.toNat % 2 ^ 32)

/-- REGISTER_WRITE (R9). -/
def execRegisterWrite (path : RegPath) (addr : Nat) (v : W64) (s : State) : Res := .next (writeReg s path addr v)

/-- Firmware takes the mailbox command that waits for it (R518). -/
def serveMail (s : State) : State :=
  match (if fwServes s then s.mg.mailbox else none) with
  | none => s
  | some op =>
    let t := modMg s fun g => { g with mailbox := none }
    match op with
    | 0x80 => fwInfo t
    | 0x81 => writeRecord t
    | 0x82 => writeEntry t
    | 0x83 => calicoRestart t
    | 0x84 => calicoStop t
    | _ => mgAttest t

/-- Once Calico is STOPPED, the contexts whose batches still ran are taken over as these end (R531). -/
def finishStop (s : State) : State := if s.calico.state = 3 then takeOverAll s else s

/-- Firmware erases an ERASE_INCOMPLETE sector of BOOT_SELECT, FIRMWARE or CONFIG through channel 0 (R381, R399), unless
the channel has an operation or may not erase it. -/
def eraseLost (s : State) : State :=
  match s.flash.incomplete.find? fun x => decide (2 ≤ areaOf x) && decide (areaOf x ≤ 4) with
  | some sec =>
    if fwServes s && !s.host.upd.handover && s.flash.ch0.op.isNone && !feltBegun s && !flashLocked s.flash s.flash.ch0 sec then
      flashCommand (modFlash s 0 fun c => { c with addr := BitVec.ofNat 30 (sec * 65536) }) 0 2 0 false
    else s
  | none => s

/-- What happens while no command waits (assumption 38): firmware catches up, and a microsecond passes. -/
def tick (s : State) : State := idle (eraseLost (finishStop (serveMail s)))

end Sys2Proof.Machine
end

