-- ==== Sys2Proof/Machine/Dispatch.lean ====
section
/-!
DEFINITION. The dispatch of a command to its meaning: one arm per row of the opcode table, in its order.
-/

namespace Sys2Proof.Machine

def exec (i : Instr) (s : State) : Host.Outcome State Fault Refusal :=
  match i with
  | .nop k => Sys2Proof.Machine.execNop k s
  | .seta k => Sys2Proof.Machine.execSeta k s
  | .seti k => Sys2Proof.Machine.execSeti k s
  | .setc k => Sys2Proof.Machine.execSetc k s
  | .sets k => Sys2Proof.Machine.execSets k s
  | .adda k => Sys2Proof.Machine.execAdda k s
  | .stepa k => Sys2Proof.Machine.execStepa k s
  | .alu k => Sys2Proof.Machine.execAlu k s
  | .movx k => Sys2Proof.Machine.execMovx k s
  | .loop k => Sys2Proof.Machine.execLoop k s
  | .brk k => Sys2Proof.Machine.execBrk k s
  | .cmp k => Sys2Proof.Machine.execCmp k s
  | .flagOp k => Sys2Proof.Machine.execFlagOp k s
  | .sync k => Sys2Proof.Machine.execSync k s
  | .syncRelease k waited => Sys2Proof.Machine.execSyncRelease k waited s
  | .seqMacro k => Sys2Proof.Machine.execSeqMacro k s
  | .seqStart k waited => Sys2Proof.Machine.execSeqStart k waited s
  | .seqComplete k ran => Sys2Proof.Machine.execSeqComplete k ran s
  | .endOp k => Sys2Proof.Machine.execEndOp k s
  | .laneEnd w => Sys2Proof.Machine.execLaneEnd w s
  | .lateWordHoldEnd k held => Sys2Proof.Machine.execLateWordHoldEnd k held s
  | .load k ecc => Sys2Proof.Machine.execLoad k ecc s
  | .tileLoadComplete k ecc => Sys2Proof.Machine.execTileLoadComplete k ecc s
  | .run k => Sys2Proof.Machine.execRun k s
  | .passOpen k ecc => Sys2Proof.Machine.execPassOpen k ecc s
  | .rowIssue k ecc => Sys2Proof.Machine.execRowIssue k ecc s
  | .rowCommit k => Sys2Proof.Machine.execRowCommit k s
  | .fma k j ecc => Sys2Proof.Machine.execFma k j ecc s
  | .func k j ecc => Sys2Proof.Machine.execFunc k j ecc s
  | .reduce k j ecc => Sys2Proof.Machine.execReduce k j ecc s
  | .tfill k j ecc => Sys2Proof.Machine.execTfill k j ecc s
  | .tread k j => Sys2Proof.Machine.execTread k j s
  | .pload k ecc => Sys2Proof.Machine.execPload k ecc s
  | .drain k ecc => Sys2Proof.Machine.execDrain k ecc s
  | .bind k => Sys2Proof.Machine.execBind k s
  | .vectorResult k ecc => Sys2Proof.Machine.execVectorResult k ecc s
  | .drainEntryOutput k ecc => Sys2Proof.Machine.execDrainEntryOutput k ecc s
  | .vxStatClose k => Sys2Proof.Machine.execVxStatClose k s
  | .dma k => Sys2Proof.Machine.execDma k s
  | .send k => Sys2Proof.Machine.execSend k s
  | .tag k => Sys2Proof.Machine.execTag k s
  | .flagWord k => Sys2Proof.Machine.execFlagWord k s
  | .flagDelivery k x => Sys2Proof.Machine.execFlagDelivery k x s
  | .tokenDelivery k tk => Sys2Proof.Machine.execTokenDelivery k tk s
  | .tokenWaitEnd k held => Sys2Proof.Machine.execTokenWaitEnd k held s
  | .transferComplete k x => Sys2Proof.Machine.execTransferComplete k x s
  | .transferFail k x => Sys2Proof.Machine.execTransferFail k x s
  | .unscheduledAccess k b ecc => Sys2Proof.Machine.execUnscheduledAccess k b ecc s
  | .meshInboundAccess k x => Sys2Proof.Machine.execMeshInboundAccess k x s
  | .tagWaitEnd k held ecc => Sys2Proof.Machine.execTagWaitEnd k held ecc s
  | .eccHoldEnd k => Sys2Proof.Machine.execEccHoldEnd k s
  | .correctionWriteBack k b => Sys2Proof.Machine.execCorrectionWriteBack k b s
  | .starvationBreaker k => Sys2Proof.Machine.execStarvationBreaker k s
  | .scrubStep k b flips => Sys2Proof.Machine.execScrubStep k b flips s
  | .pageZero k page => Sys2Proof.Machine.execPageZero k page s
  | .spTagDataWrite k path v => Sys2Proof.Machine.execSpTagDataWrite k path v s
  | .spTagDataRead k => Sys2Proof.Machine.execSpTagDataRead k s
  | .holdTimeout k => Sys2Proof.Machine.execHoldTimeout k s
  | .batchStart k => Sys2Proof.Machine.execBatchStart k s
  | .laneStart k => Sys2Proof.Machine.execLaneStart k s
  | .laneFetch k ok => Sys2Proof.Machine.execLaneFetch k ok s
  | .batchFail c => Sys2Proof.Machine.execBatchFail c s
  | .batchComplete c => Sys2Proof.Machine.execBatchComplete c s
  | .coreHalt k waited => Sys2Proof.Machine.execCoreHalt k waited s
  | .dbgEnd v => Sys2Proof.Machine.execDbgEnd v s
  | .dbgSel v => Sys2Proof.Machine.execDbgSel v s
  | .dbgFetchDone => Sys2Proof.Machine.execDbgFetchDone s
  | .dbgOpenOpen => Sys2Proof.Machine.execDbgOpenOpen s
  | .dbgOpenClose => Sys2Proof.Machine.execDbgOpenClose s
  | .sqDoorbell q v => Sys2Proof.Machine.execSqDoorbell q v s
  | .cqHeadWrite q v => Sys2Proof.Machine.execCqHeadWrite q v s
  | .entryBegin q => Sys2Proof.Machine.execEntryBegin q s
  | .completionWrite q => Sys2Proof.Machine.execCompletionWrite q s
  | .msixSignal q => Sys2Proof.Machine.execMsixSignal q s
  | .coalesceExpire q => Sys2Proof.Machine.execCoalesceExpire q s
  | .nopEntry q => Sys2Proof.Machine.execNopEntry q s
  | .loadProgram q ecc unproven => Sys2Proof.Machine.execLoadProgram q ecc unproven s
  | .programInstall c => Sys2Proof.Machine.execProgramInstall c s
  | .loadWeights q => Sys2Proof.Machine.execLoadWeights q s
  | .weightLoadComplete c slot src rdma => Sys2Proof.Machine.execWeightLoadComplete c slot src rdma s
  | .switchWeights q => Sys2Proof.Machine.execSwitchWeights q s
  | .evict q => Sys2Proof.Machine.execEvict q s
  | .makeResident c => Sys2Proof.Machine.execMakeResident c s
  | .slotRetire c slot => Sys2Proof.Machine.execSlotRetire c slot s
  | .useWindowEnd c => Sys2Proof.Machine.execUseWindowEnd c s
  | .refetch c slot src rdma => Sys2Proof.Machine.execRefetch c slot src rdma s
  | .pinnedReload c k => Sys2Proof.Machine.execPinnedReload c k s
  | .relayMessage c slot setId tensor offset payload => Sys2Proof.Machine.execRelayMessage c slot setId tensor offset payload s
  | .relayTimeout c slot => Sys2Proof.Machine.execRelayTimeout c slot s
  | .bindStream q => Sys2Proof.Machine.execBindStream q s
  | .setFlag q => Sys2Proof.Machine.execSetFlag q s
  | .waitFlag q => Sys2Proof.Machine.execWaitFlag q s
  | .waitFlagSatisfied q => Sys2Proof.Machine.execWaitFlagSatisfied q s
  | .waitCycleScan => Sys2Proof.Machine.execWaitCycleScan s
  | .waitTimeout q => Sys2Proof.Machine.execWaitTimeout q s
  | .runBatch q => Sys2Proof.Machine.execRunBatch q s
  | .hostBatchStart c cores => Sys2Proof.Machine.execHostBatchStart c cores s
  | .configContext q => Sys2Proof.Machine.execConfigContext q s
  | .unloadContext q => Sys2Proof.Machine.execUnloadContext q s
  | .configQp q => Sys2Proof.Machine.execConfigQp q s
  | .configLink q => Sys2Proof.Machine.execConfigLink q s
  | .qEnable q v => Sys2Proof.Machine.execQEnable q v s
  | .resume q => Sys2Proof.Machine.execResume q s
  | .reattach q => Sys2Proof.Machine.execReattach q s
  | .ringReset q => Sys2Proof.Machine.execRingReset q s
  | .attach v => Sys2Proof.Machine.execAttach v s
  | .heartbeat v => Sys2Proof.Machine.execHeartbeat v s
  | .driverLost => Sys2Proof.Machine.execDriverLost s
  | .busMasterDisable => Sys2Proof.Machine.execBusMasterDisable s
  | .flrPf0 => Sys2Proof.Machine.execFlrPf0 s
  | .flrDrainEnd => Sys2Proof.Machine.execFlrDrainEnd s
  | .flrPf1 => Sys2Proof.Machine.execFlrPf1 s
  | .bar2Access write off len data => Sys2Proof.Machine.execBar2Access write off len data s
  | .getInfo => Sys2Proof.Machine.execGetInfo s
  | .readTelemetry => Sys2Proof.Machine.execReadTelemetry s
  | .readLog => Sys2Proof.Machine.execReadLog s
  | .svcFlashRead => Sys2Proof.Machine.execSvcFlashRead s
  | .svcFlashProgram => Sys2Proof.Machine.execSvcFlashProgram s
  | .svcFlashErase => Sys2Proof.Machine.execSvcFlashErase s
  | .svcFlashUnlock => Sys2Proof.Machine.execSvcFlashUnlock s
  | .updateBegin => Sys2Proof.Machine.execUpdateBegin s
  | .updateWrite => Sys2Proof.Machine.execUpdateWrite s
  | .updateVerify => Sys2Proof.Machine.execUpdateVerify s
  | .updateActivate => Sys2Proof.Machine.execUpdateActivate s
  | .handover accept => Sys2Proof.Machine.execHandover accept s
  | .updateCommit => Sys2Proof.Machine.execUpdateCommit s
  | .trialEnd => Sys2Proof.Machine.execTrialEnd s
  | .svcAttest => Sys2Proof.Machine.execSvcAttest s
  | .powerRequest => Sys2Proof.Machine.execPowerRequest s
  | .hbmRequest r => Sys2Proof.Machine.execHbmRequest r s
  | .hbmReadComplete pc x ecc => Sys2Proof.Machine.execHbmReadComplete pc x ecc s
  | .refresh pc b => Sys2Proof.Machine.execRefresh pc b s
  | .selfRefreshEntry stack => Sys2Proof.Machine.execSelfRefreshEntry stack s
  | .selfRefreshExit stack => Sys2Proof.Machine.execSelfRefreshExit stack s
  | .caParityAlert pc writes reads => Sys2Proof.Machine.execCaParityAlert pc writes reads s
  | .hbmTraining known windows => Sys2Proof.Machine.execHbmTraining known windows s
  | .flashRead off ecc => Sys2Proof.Machine.execFlashRead off ecc s
  | .programPage n => Sys2Proof.Machine.execProgramPage n s
  | .eraseSector n => Sys2Proof.Machine.execEraseSector n s
  | .readInfo n => Sys2Proof.Machine.execReadInfo n s
  | .unlock n => Sys2Proof.Machine.execUnlock n s
  | .lock n => Sys2Proof.Machine.execLock n s
  | .setPassword n => Sys2Proof.Machine.execSetPassword n s
  | .setRegion n region enable => Sys2Proof.Machine.execSetRegion n region enable s
  | .flashAbort n => Sys2Proof.Machine.execFlashAbort n s
  | .flashStepEnd verify => Sys2Proof.Machine.execFlashStepEnd verify s
  | .flashScan => Sys2Proof.Machine.execFlashScan s
  | .supplyModeChange => Sys2Proof.Machine.execSupplyModeChange s
  | .flEiDataRead => Sys2Proof.Machine.execFlEiDataRead s
  | .streamPacket p => Sys2Proof.Machine.execStreamPacket p s
  | .creditProbe p => Sys2Proof.Machine.execCreditProbe p s
  | .resetSequence p => Sys2Proof.Machine.execResetSequence p s
  | .reassemblyTimeout sid seq => Sys2Proof.Machine.execReassemblyTimeout sid seq s
  | .batchDeadline c => Sys2Proof.Machine.execBatchDeadline c s
  | .streamBatchStart c cores => Sys2Proof.Machine.execStreamBatchStart c cores s
  | .pfcFrame port quanta => Sys2Proof.Machine.execPfcFrame port quanta s
  | .pfcPauseEnd port prio => Sys2Proof.Machine.execPfcPauseEnd port prio s
  | .xoffRefresh port prio occ => Sys2Proof.Machine.execXoffRefresh port prio occ s
  | .rocePacket p => Sys2Proof.Machine.execRocePacket p s
  | .cnpReceive qp => Sys2Proof.Machine.execCnpReceive qp s
  | .rateIncrease qp => Sys2Proof.Machine.execRateIncrease qp s
  | .ackTimeout qp => Sys2Proof.Machine.execAckTimeout qp s
  | .linkPageSend link => Sys2Proof.Machine.execLinkPageSend link s
  | .linkWriteAck link => Sys2Proof.Machine.execLinkWriteAck link s
  | .linkCreditReturn link idx => Sys2Proof.Machine.execLinkCreditReturn link idx s
  | .wakeFrame port dstMac frame => Sys2Proof.Machine.execWakeFrame port dstMac frame s
  | .moduleInsert cage => Sys2Proof.Machine.execModuleInsert cage s
  | .moduleReadyTimeout cage => Sys2Proof.Machine.execModuleReadyTimeout cage s
  | .moduleRemove cage => Sys2Proof.Machine.execModuleRemove cage s
  | .txBiasSample cage bias => Sys2Proof.Machine.execTxBiasSample cage bias s
  | .lifeRecordWrite cage => Sys2Proof.Machine.execLifeRecordWrite cage s
  | .portReset reset => Sys2Proof.Machine.execPortReset reset s
  | .linkUp port => Sys2Proof.Machine.execLinkUp port s
  | .mgFlashRead => Sys2Proof.Machine.execMgFlashRead s
  | .mgFlashProgram => Sys2Proof.Machine.execMgFlashProgram s
  | .mgFlashErase => Sys2Proof.Machine.execMgFlashErase s
  | .mgFlashReadInfo => Sys2Proof.Machine.execMgFlashReadInfo s
  | .mgFlashUnlock => Sys2Proof.Machine.execMgFlashUnlock s
  | .mgFlashLock => Sys2Proof.Machine.execMgFlashLock s
  | .logRead => Sys2Proof.Machine.execLogRead s
  | .logDump => Sys2Proof.Machine.execLogDump s
  | .mgContinue => Sys2Proof.Machine.execMgContinue s
  | .mgAbort => Sys2Proof.Machine.execMgAbort s
  | .fwInfo => Sys2Proof.Machine.execFwInfo s
  | .calicoWriteConfig => Sys2Proof.Machine.execCalicoWriteConfig s
  | .calicoWriteEntry => Sys2Proof.Machine.execCalicoWriteEntry s
  | .calicoRestart => Sys2Proof.Machine.execCalicoRestart s
  | .calicoStop => Sys2Proof.Machine.execCalicoStop s
  | .mgAttest => Sys2Proof.Machine.execMgAttest s
  | .mailboxTimeout => Sys2Proof.Machine.execMailboxTimeout s
  | .mgSoftReset => Sys2Proof.Machine.execMgSoftReset s
  | .mgBufDataAccess write v => Sys2Proof.Machine.execMgBufDataAccess write v s
  | .multibyteLatchRead off => Sys2Proof.Machine.execMultibyteLatchRead off s
  | .mgPwrReq v => Sys2Proof.Machine.execMgPwrReq v s
  | .windowRead => Sys2Proof.Machine.execWindowRead s
  | .windowWrite => Sys2Proof.Machine.execWindowWrite s
  | .entdaa addr => Sys2Proof.Machine.execEntdaa addr s
  | .setdasa statAddr addr => Sys2Proof.Machine.execSetdasa statAddr addr s
  | .setnewda addr => Sys2Proof.Machine.execSetnewda addr s
  | .rstdaa => Sys2Proof.Machine.execRstdaa s
  | .enec ev => Sys2Proof.Machine.execEnec ev s
  | .disec ev => Sys2Proof.Machine.execDisec ev s
  | .getpid => Sys2Proof.Machine.execGetpid s
  | .getbcr => Sys2Proof.Machine.execGetbcr s
  | .getdcr => Sys2Proof.Machine.execGetdcr s
  | .getstatus => Sys2Proof.Machine.execGetstatus s
  | .getmwl => Sys2Proof.Machine.execGetmwl s
  | .getmrl => Sys2Proof.Machine.execGetmrl s
  | .mgAddressMatch addr => Sys2Proof.Machine.execMgAddressMatch addr s
  | .telemetrySample temps total core hbm => Sys2Proof.Machine.execTelemetrySample temps total core hbm s
  | .calicoStart => Sys2Proof.Machine.execCalicoStart s
  | .unboundReport p => Sys2Proof.Machine.execUnboundReport p s
  | .calicoIdleUnbind sid => Sys2Proof.Machine.execCalicoIdleUnbind sid s
  | .pwDvfsWrite v => Sys2Proof.Machine.execPwDvfsWrite v s
  | .railSettled => Sys2Proof.Machine.execRailSettled s
  | .powerSample => Sys2Proof.Machine.execPowerSample s
  | .thermalStep => Sys2Proof.Machine.execThermalStep s
  | .thermalAlarm sensor => Sys2Proof.Machine.execThermalAlarm sensor s
  | .thermalTrip => Sys2Proof.Machine.execThermalTrip s
  | .coldReset maddr => Sys2Proof.Machine.execColdReset maddr s
  | .warmReset pin => Sys2Proof.Machine.execWarmReset pin s
  | .pllLock => Sys2Proof.Machine.execPllLock s
  | .boot => Sys2Proof.Machine.execBoot s
  | .fwReady => Sys2Proof.Machine.execFwReady s
  | .coreReset k => Sys2Proof.Machine.execCoreReset k s
  | .voileEntry => Sys2Proof.Machine.execVoileEntry s
  | .feltEntry => Sys2Proof.Machine.execFeltEntry s
  | .ap2CoresQuiesced => Sys2Proof.Machine.execAp2CoresQuiesced s
  | .ap3StateSaved => Sys2Proof.Machine.execAp3StateSaved s
  | .ap5GatesCommanded => Sys2Proof.Machine.execAp5GatesCommanded s
  | .wake sources port => Sys2Proof.Machine.execWake sources port s
  | .voileExit => Sys2Proof.Machine.execVoileExit s
  | .feltExit => Sys2Proof.Machine.execFeltExit s
  | .wakeTimer => Sys2Proof.Machine.execWakeTimer s
  | .fwWatchdogKick => Sys2Proof.Machine.execFwWatchdogKick s
  | .fwWatchdogExpire => Sys2Proof.Machine.execFwWatchdogExpire s
  | .railFault => Sys2Proof.Machine.execRailFault s
  | .decommission v => Sys2Proof.Machine.execDecommission v s
  | .decommissionCancel => Sys2Proof.Machine.execDecommissionCancel s
  | .extest => Sys2Proof.Machine.execExtest s
  | .samplePreload => Sys2Proof.Machine.execSamplePreload s
  | .idcode => Sys2Proof.Machine.execIdcode s
  | .clamp => Sys2Proof.Machine.execClamp s
  | .highz => Sys2Proof.Machine.execHighz s
  | .dbgStatus => Sys2Proof.Machine.execDbgStatus s
  | .dbgChallenge level random => Sys2Proof.Machine.execDbgChallenge level random s
  | .dbgResponse key sig inTime => Sys2Proof.Machine.execDbgResponse key sig inTime s
  | .dbgClose => Sys2Proof.Machine.execDbgClose s
  | .fwAccess halt => Sys2Proof.Machine.execFwAccess halt s
  | .scan => Sys2Proof.Machine.execScan s
  | .bypass => Sys2Proof.Machine.execBypass s
  | .coreOutOfService k => Sys2Proof.Machine.execCoreOutOfService k s
  | .coreCheck k pass => Sys2Proof.Machine.execCoreCheck k pass s
  | .registerWrite path addr v => Sys2Proof.Machine.execRegisterWrite path addr v s
  | .ap4HbmInSelfRefresh => Sys2Proof.Machine.execAp4HbmInSelfRefresh s
  | .moduleReady cage serial vendor part threshold rateOk failStep bias => Sys2Proof.Machine.execModuleReady cage serial vendor part threshold rateOk failStep bias s
  | .linkDown port => Sys2Proof.Machine.execLinkDown port s
  | .receivedFrame port prio occ kind => Sys2Proof.Machine.execReceivedFrame port prio occ kind s
  | .unlockCompletion n => Sys2Proof.Machine.execUnlockCompletion n s
  | .selfRefreshExitComplete stack => Sys2Proof.Machine.execSelfRefreshExitComplete stack s
  | .hbmWriteDrain pc x ecc => Sys2Proof.Machine.execHbmWriteDrain pc x ecc s
  | .rnrTimerExpiry qp => Sys2Proof.Machine.execRnrTimerExpiry qp s
  | .tapReset => Sys2Proof.Machine.execTapReset s

end Sys2Proof.Machine
end

