-- ==== Sys2Proof/Safety.lean ====
section
/-!
DEFINITION. What counts as a good state, and the words the statements use: the numbers of the parts (R6), cores with no
error left to log, a lane that takes a bundle (R198), the outcome of a bundle (R194, R238), and an engine event that is
due (R195, R199, R200).
-/

namespace Sys2Proof.Machine

/-- The numbers of the block's parts (R6): cores, ring pairs, contexts, device flags, ports and cages. -/
structure Numbered (s : State) : Prop where
  cores : s.cores.length = 32
  rings : s.host.rings.length = 64
  ctxs : s.host.ctxs.length = 16
  flags : s.host.flags.length = 256
  ports : s.net.ports.length = 8
  cages : s.net.cages.length = 8

/-- No core holds an error that has not entered the error log yet: every command logs what it finds. -/
def Settled (s : State) : Prop := ∀ c ∈ s.cores, c.reports = []

/-- Every memory of the block is in its canonical form: HBM, the flash array, the host's memory, the scratchpads and the tag
stores (R26, R140, R370). -/
structure MemoriesOk (s : State) : Prop where
  hbm : memWf zeroDflt s.hbm.cells = true
  flash : memWf (fun _ => some 0xFF) s.flash.cells = true
  host : memWf (fun _ => none) s.host.hostMem = true
  pads : ∀ c ∈ s.cores, memWf (spWDflt c.sp) c.sp.cells = true ∧ memWf zeroDflt c.sp.tags = true

/-- The register files of a core and its queue ends have the manual's sizes (R111, R187, R205). -/
structure FilesSized (c : Core) : Prop where
  address : c.ctl.a.length = 16
  increment : c.ctl.inc.length = 16
  counters : c.ctl.c.length = 16
  scalars : c.ctl.s.length = 16
  comparators : c.ctl.cmps.length = 8
  tokenEnds : c.ctl.tokens.length = 8
  loopBacks : c.vx.lb.length = 4
  ends : c.vx.ends.length = 6

/-- Core `k` of the block becomes `c`, and what that core reports is logged (R211, R591). -/
def becomes (s : State) (k : Nat) (c : Core) : State := onCore s k fun _ => c

/-- The control core is at work and takes bundles (R198, R241, R297). -/
structure Busy (c : Core) : Prop where
  started : c.started = true
  running : c.regs.stopped = false
  notEnded : c.ctl.ended = false
  noSync : c.ctl.syncWait = false
  notHalting : c.regs.halting = false
  noMacro : c.seq = none

/-- The control core takes the bundle `b` next, whose slot-0 operation has opcode `op`: it is at work, and the bundle is in
the instruction buffer and has still to be begun (R198, R238). -/
structure Takes (c : Core) (op : Nat) (b : BitVec 256) : Prop extends Busy c where
  fetched : bundleAt c.ctl c.ctl.pc = some b
  opcode : fld (slotOf b 0) 51 46 = op
  fresh : c.ctl.pushed = 0

/-- The queues have room for the words of slots `first` to `last - 1` of a bundle (R198). -/
structure Room (c : Core) (b : BitVec 256) (first last : Nat) : Prop where
  matrix : first ≤ 1 → 1 < last → bit (slotOf b 1) 63 = true → c.mq.length < 512
  vector : first ≤ 2 → 2 < last → bit (slotOf b 2) 63 = true → c.vq.length < 512
  move : first ≤ 3 → 3 < last → bit (slotOf b 3) 63 = true → c.movq.length < 256

/-- The queue that slot `n` of a bundle pushes its word into is full (R198). -/
structure Full (c : Core) (b : BitVec 256) (n : Nat) : Prop where
  slot : 1 ≤ n ∧ n ≤ 3
  valid : bit (slotOf b n) 63 = true
  matrix : n = 1 → 512 ≤ c.mq.length
  vector : n = 2 → 512 ≤ c.vq.length
  move : n = 3 → 256 ≤ c.movq.length

/-- The engine words a slot of a bundle adds to its queue: none when the slot is not valid; else the word with its issue
cycle (section base + offset + skew, R195) and the registers as they stand after the slot-0 operation (R192, R238). -/
def Pushed (t : Ctl) (w : W64) : List QWord :=
  if bit w 63 then [⟨w, t.sectionBase + t.offset + fld w 62 60, t.pc, t.a, t.c, t.s⟩] else []

/-- The words that slots `first` to `last - 1` of a bundle add to their queues (R238). -/
structure SlotsPushed (c : Core) (b : BitVec 256) (t : Ctl) (first last : Nat) (d : Core) : Prop where
  matrix : d.mq = c.mq ++ if first ≤ 1 ∧ 1 < last then Pushed t (slotOf b 1) else []
  vector : d.vq = c.vq ++ if first ≤ 2 ∧ 2 < last then Pushed t (slotOf b 2) else []
  move : d.movq = c.movq ++ if first ≤ 3 ∧ 3 < last then Pushed t (slotOf b 3) else []

/-- Core `d` is core `c` after the rest of a bundle's processing from slot `first` on: `t` is the control core after the
slot-0 operation, `next` the bundle that follows and the loop stack with it (R188, R194, R238). Where the bundle is the
lane's stop bundle and this is its n-th time the lane is halting (R296). -/
structure BundleDone (c : Core) (b : BitVec 256) (t : Ctl) (first : Nat) (next : Nat × List LoopFrame) (d : Core) : Prop where
  pushes : SlotsPushed c b t first 4 d
  ctl : d.ctl = { t with
    flags := (evalComparators t).flags
    offset := t.offset + fld (slotOf b 0) 63 52
    pc := next.1
    nextPc := next.1
    loops := next.2
    pushed := 0
    high := max t.high (t.pc + 1)
    stopSeen := d.ctl.stopSeen }
  noStop : bit t.stopAt 63 = false ∨ fld t.stopAt 51 32 ≠ t.pc →
    d.ctl.stopSeen = t.stopSeen ∧ d.regs.halting = c.regs.halting ∧ d.mv = c.mv
  stop : bit t.stopAt 63 = true → fld t.stopAt 51 32 = t.pc → d.ctl.stopSeen = t.stopSeen + 1 ∧
    (d.regs.halting = true ↔ t.stopSeen + 1 = max 1 (fld t.stopAt 31 0) ∨ c.regs.halting = true)
  rest : d = { c with
    mq := d.mq
    vq := d.vq
    movq := d.movq
    ctl := d.ctl
    regs := { c.regs with halting := d.regs.halting }
    mv := { c.mv with lastAt := d.mv.lastAt } }

/-- The core goes on to an event with this key and arrives there as core `d`: it runs, no hold stops it, nothing that a
command names comes before, and every event of the cycle may take place (R195, R199, R200). -/
structure Due (c : Core) (key : Nat) (d : Core) : Prop where
  may : mayGo c key = true
  arrives : d = arrive c key
  arrived : arrived d key = true

/-- The core after an event that made `x` of core `d`: the work of its cycle that no command names takes place, and the cycle
ends when it holds nothing more (R152, R193). -/
def After (d x : Core) : Core := finishCycle (doInner { x with workEnd := d.ctl.cycle + 1 })

/-- Core `c` enters as core `d` the cycle of an event, in which that event is all the core does: every other event of the
cycle does nothing to `d`. -/
structure Only (c : Core) (key : Nat) (f : Core → Try) (d : Core) : Prop where
  may : mayGo c key = true
  onTime : lateAt c (key / 2) = false
  starts : key % 2 = 0
  enters : d = advanceTo (reach c key) (key / 2)
  running : (reach c key).regs.stopped = false ∧ waitHeld (reach c key) = false ∧
    ((reach c key).hold.eccLeft = 0 ∨ key / 2 ≤ (reach c key).ctl.cycle)
  fresh : d.ctl.cleared ≠ d.ctl.cycle + 1 ∧ lateAt d d.ctl.cycle = false
  alone : ∀ g ∈ namedWork d d.ctl.cycle ++ innerWork d d.ctl.cycle ++ endWork d d.ctl.cycle, g d = .go d ∨ g d = f d
  there : ∃ g ∈ namedWork d d.ctl.cycle, g d = f d

/-- Core `d` is core `c` after a word has popped the token it names, if it names one (R207, R243). -/
def Pops (c : Core) (w : W64) (d : Core) : Prop :=
  bit w 3 = false ∧ d = c ∨
    bit w 3 = true ∧ c.ctl.tokens.getD (fld w 2 0) 0 ≠ 0 ∧
      d = { c with ctl := { c.ctl with tokens := modAt c.ctl.tokens (fld w 2 0) (· - 1) } }

/-- The rows of some accesses. -/
def rowsOf (accs : List Acc) : List (Nat × Nat) := accs.flatMap (·.rows)

/-- Scheduled accesses may take place in the counter's cycle, and meet no error: each page is one of the lane's own (R160,
R617) and permits the access (R154), no bank is used twice in the cycle (R145), and a read, and the merge of a narrow
write, finds no wrong bit (R143, R163). -/
structure Permitted (d : Core) (write merge : Bool) (accs : List Acc) : Prop where
  owned : ∀ r ∈ rowsOf accs, ownsPage d.pagesLow d.pagesHigh r.1 = true
  tags : ∀ r ∈ rowsOf accs, (tagOf d.sp r.1).toNat % 4 = if write then 0 else 1
  free : ∀ r ∈ rowsOf accs, ∀ b ∈ d.sp.busy, b.bank ≠ r.2
  apart : ((rowsOf accs).map (·.2)).Nodup
  clean : ∀ r ∈ rowsOf accs, write = false ∨ merge = true → rowCheckOf d.sp r.1 r.2 = (0, false)

/-- The core in whose cycle such accesses have taken place: their banks are used (R142), their markers wait for the end of
the cycle (R152), and write-backs of written rows are dropped (R165). -/
def accessed (d : Core) (write : Bool) (accs : List Acc) : Core :=
  { d with sp := { d.sp with
    corr := if write then d.sp.corr.filter fun r => !(rowsOf accs).contains (r.page, r.bank) else d.sp.corr
    busy := d.sp.busy ++ accs.flatMap fun a => a.rows.map fun r => ⟨r.2, a.port⟩
    marks := d.sp.marks ++ (accs.flatMap (·.mark)).map fun p => (p, write) } }

/-- A matrix word may issue after the last one: at a later cycle, or at the same one if that was no word of its own kind
(R196). -/
def MatrixInOrder (c : Core) (q : QWord) : Prop :=
  c.mLast ≤ q.cycle ∨ q.cycle + 1 = c.mLast ∧ fld q.word 59 57 ∉ c.mLastOps

/-- Core `d` is core `c` after a matrix word in order has left its queue and popped its token (R196, R207). -/
def MatrixTaken (c : Core) (q : QWord) (rest : List QWord) (d : Core) : Prop :=
  MatrixInOrder c q ∧ ∃ c1, Pops c q.word c1 ∧ d = { c1 with
    mq := rest
    mLast := q.cycle + 1
    mLastOps := if q.cycle + 1 = c.mLast then fld q.word 59 57 :: c.mLastOps else [fld q.word 59 57] }

/-- An event of work already issued takes place: in its order in a running core, or in a stopped one (R211). Core `d` is
core `c` brought to the event, and `fin` what follows the event's effect. -/
def Lands (c : Core) (key : Nat) (d : Core) (fin : Core → Core) : Prop :=
  c.regs.stopped = false ∧ Due c key d ∧ fin = After d ∨
    c.regs.stopped = true ∧ isNext c key = true ∧ d = reach c key ∧ fin = endCycle

/-- The vector word at the head of the queue issues in its cycle: it is due, comes after the last vector word (R196), pops
the token it names (R207), and leaves the queue; a close option closes the window at the cycle's end (R132). -/
def VectorWordTaken (c : Core) (q : QWord) (d : Core) : Prop :=
  c.vq.head? = some q ∧ ∃ d0 rest d1, Due c (2 * q.cycle) d0 ∧ d0.vq = q :: rest ∧ d0.vLast ≤ q.cycle ∧ Pops d0 q.word d1 ∧
    d = { d1 with
      vq := rest
      vLast := q.cycle + 1
      vx := { d1.vx with closing := d1.vx.closing || bit q.word 4 } }

/-- The run length of a vector word: 128 for a fill, the column count of a read, else its field or a counter within its
declared maximum, at most 512 (R121, R191, R247, R250). -/
def RunLengthIs (c : Core) (q : QWord) (n : Nat) : Prop :=
  let v := (q.c.getD (fld q.word 16 13) 0).toNat
  (classOf q.word ≤ 2 → bit q.word 22 = true → v ≤ declaredMax c (fld q.word 12 7) ∧ n = min v 512) ∧
  (classOf q.word ≤ 2 → bit q.word 22 = false → n = fld q.word 21 13 + 1) ∧
  (classOf q.word = 3 → n = 128) ∧ (classOf q.word = 4 → n = fld q.word 19 13 + 1)

/-- A vector of running word `r` issues next in core `c`; core `d` is core `c` at that cycle with the word running. It is a
later vector of running word `j`, or the first of the word at the head of the queue, of class `cls`, which issues where no
check of it fails (R115, R116, R130). -/
def VectorTurn (c : Core) (cls j : Nat) (r : VRun) (d : Core) : Prop :=
  classOf r.word.word = cls ∧
  (c.vx.runs[j]? = some r ∧ Due c (vrunKey r) d ∧ r ∈ d.vx.runs ∨
  c.vx.runs[j]? = none ∧ ∃ c1, VectorWordTaken c r.word c1 ∧ r.t = r.word.cycle ∧ r.i = 0 ∧ r.n ≠ 0 ∧
    RunLengthIs c1 r.word r.n ∧ r.bind0 = dstBind c1 (dstCodes r.word.word).1 ∧
    r.bind1 = dstBind c1 (dstCodes r.word.word).2 ∧ popsEmpty c1 r.word.word = false ∧
    (cls = 1 → c1.vx.funcFree ≤ r.word.cycle) ∧
    d = { c1 with vx := { c1.vx with
      runs := c1.vx.runs ++ [r]
      funcFree := if cls = 1 ∧ pairForm r.word.word = true then r.word.cycle + 2 * r.n else c1.vx.funcFree } })

/-- The running words after one more vector of `r` has issued (R115). -/
def runsAfter (runs : List VRun) (r : VRun) : List VRun :=
  runs.flatMap fun x => if x.t = r.t then (if r.i + 1 < r.n then [{ r with i := r.i + 1 }] else []) else [x]

/-- The result `r` can be written in core `d`: its write ends are bound at row boundaries, and its bytes, and its mask if it has
one, are those of its rows (R111, R128). -/
structure Writable (d : Core) (r : VRes) : Prop where
  canonical : memWf (spWDflt d.sp) d.sp.cells = true
  bound : ∀ p ∈ resDsts r, ∃ b, bindById d p.2 = some b ∧ bindAddr b % 128 = 0
  rows : r.rows = 1 ∨ r.rows = 2 ∨ r.rows = 4
  bytes : r.bytes.length = 128 * r.rows
  mask : ∀ m, r.mask = some m → m.2.2 = r.rows

/-- Lane `n` of a result is written: its M bit is set and its mask passes the lane (R128). -/
def laneWritten (r : VRes) (n : Nat) : Bool := r.live && match r.mask with | none => true | some m => maskBit (m.1, m.2.1) n

/-- Core `x` is core `d` in which the result `r` has been written: the lanes it writes hold its bytes at the step of each write
end it names, no other byte has changed, and each of those ends has walked one step. Commit markers wait for the end of the
cycle, or apply at once in a stopped core (R115, R128, R152, R211). -/
structure Written (d : Core) (r : VRes) (x : Core) : Prop where
  lanes : ∀ p ∈ resDsts r, ∀ b, bindById d p.2 = some b → ∀ n, n < 128 → laneWritten r n = true →
    spRead x.sp (bindAddr b + r.rows * n) r.rows = slice r.bytes (r.rows * n) r.rows
  others : ∀ a, a < 16777216 → (∀ p ∈ resDsts r, ∀ b, bindById d p.2 = some b → ∀ n i, n < 128 → i < r.rows →
    laneWritten r n = true → (bindAddr b + r.rows * n + i) % 16777216 ≠ a) → spRead x.sp a 1 = spRead d.sp a 1
  marks : let m := if r.live then (writeAccs { d with vx := { d.vx with results := d.vx.results.erase r } } r).flatMap (·.mark) else []
    (d.regs.stopped = false → x.sp.tags = d.sp.tags ∧ x.sp.marks = d.sp.marks ++ m.map fun p => (p, true)) ∧
    (d.regs.stopped = true → x.sp.tags = (mapTags d.sp commitTag m).tags ∧ x.sp.marks = d.sp.marks)
  rest : x = { d with
    sp := x.sp
    vx := { d.vx with
      results := d.vx.results.erase r
      binds := d.vx.binds.map fun b => { b with
        idx := walkSteps b.desc ((resDsts r).filter fun p => p.2 == b.id).length b.idx } } }

/-- Firmware has begun entry `e` of ring `q` and takes it next for opcode `op`: no earlier begun entry of the ring has the
opcode, and no other entry has its index (R464, R465). -/
structure Taken (s : State) (q op : Nat) (pre : List RingEntry) (e : RingEntry) (post : List RingEntry) : Prop where
  ring : q < s.host.rings.length
  firmware : fwRuns s = true
  entries : (ringAt s q).entries = pre ++ e :: post
  begun : e.stage = .begun
  opcode : rdLe e.bytes 0 1 = op
  first : ∀ x ∈ pre, ¬ (x.stage = .begun ∧ rdLe x.bytes 0 1 = op)
  index : ∀ x ∈ pre ++ post, x.index ≠ e.index

/-- The same for the wait that runs in ring `q` (R476). -/
structure Waiting (s : State) (q : Nat) (pre : List RingEntry) (e : RingEntry) (post : List RingEntry) : Prop where
  ring : q < s.host.rings.length
  entries : (ringAt s q).entries = pre ++ e :: post
  running : e.stage = .running
  opcode : rdLe e.bytes 0 1 = 0x07
  first : ∀ x ∈ pre, ¬ (x.stage = .running ∧ rdLe x.bytes 0 1 = 0x07)
  index : ∀ x ∈ pre ++ post, x.index ≠ e.index

/-- The state with ring `q` replaced. -/
def setRing (s : State) (q : Nat) (r : Ring) : State := { s with host := { s.host with rings := s.host.rings.set q r } }

/-- The state with context `c` replaced. -/
def setCtx (s : State) (c : Nat) (x : Ctx) : State := { s with host := { s.host with ctxs := s.host.ctxs.set c x } }

/-- Context `x` with slot 0 (A) or 1 (B) replaced. -/
def withSlot (x : Ctx) (i : Nat) (sl : Slot) : Ctx :=
  if i = 1 then { x with slotB := sl } else { x with slotA := sl }

/-- Every entry of a ring with an index finished with a status and value. -/
def finished (es : List RingEntry) (idx status value : Nat) : List RingEntry :=
  es.map fun e => if e.index = idx then { e with stage := .done status value } else e

/-- The ring `r` with entry `e`, between `pre` and `post`, at a stage. -/
def staged (r : Ring) (pre : List RingEntry) (e : RingEntry) (post : List RingEntry) (g : EntryStage) : Ring :=
  { r with entries := pre ++ { e with stage := g } :: post }

/-- `v` is the result the manual's table gives ALU function `f` of `x` and `y` (R239); nothing is said of a reserved code. -/
def AluResult (f : Nat) (x y v : W32) : Prop :=
  (f = 0 → v.toNat = (x.toNat + y.toNat) % 2 ^ 32) ∧
  (f = 1 → v.toInt = (x.toInt - y.toInt).bmod (2 ^ 32)) ∧
  (f = 2 → ∀ i, v.getLsbD i = (x.getLsbD i && y.getLsbD i)) ∧
  (f = 3 → ∀ i, v.getLsbD i = (x.getLsbD i || y.getLsbD i)) ∧
  (f = 4 → ∀ i, v.getLsbD i = (x.getLsbD i ^^ y.getLsbD i)) ∧
  (f = 5 → v.toNat = x.toNat * 2 ^ (y.toNat % 32) % 2 ^ 32) ∧
  (f = 6 → v.toNat = x.toNat / 2 ^ (y.toNat % 32)) ∧
  (f = 7 → v.toInt = x.toInt / 2 ^ (y.toNat % 32)) ∧
  (f = 8 → v.toNat = x.toNat * y.toNat % 2 ^ 32)

/-- An operand as a comparator takes it (R188): files 0 A, 1 C, 2 S, 3 increment. -/
def CmpOperand (t : Ctl) (file r : Nat) (v : W32) : Prop :=
  (file = 0 → v.toNat = (t.a.getD r 0).toNat) ∧ (file = 1 → v = t.c.getD r 0) ∧ (file = 2 → v = t.s.getD r 0) ∧
    (file = 3 → v.toInt = (t.inc.getD r 0).toInt)

/-- The service mailbox takes a command: none is in progress there, and firmware serves it (R488). -/
def MailReady (s : State) : Prop := s.host.mail.busy = false ∧ fwServes s = true

/-- The mailbox command has ended in `t` with a result: busy is clear, and vector 0 of PF1 has been signalled (R488). -/
structure MailEnded (s t : State) (result : Nat) : Prop where
  busy : t.host.mail.busy = false
  running : t.host.mail.running = none
  result : t.host.mail.result = BitVec.ofNat 16 result
  signal : ∃ pre, t.host.msix = pre ++ [⟨1, 0⟩]
  cores : t.cores = s.cores
  rings : t.host.rings = s.host.rings

/-- The operation stands open on channel 0 for mailbox command `op`; where no step ran, its first step has begun unless
`op` has none (R382, R383, R488). -/
structure FlashOpened (s t : State) (op : Nat) (f : FlashOp) : Prop where
  channel : t.flash.ch0.op = some f
  steps : t.flash.ch0.steps = 0
  waits : t.host.mail.busy = true ∧ t.host.mail.running = some op
  step : t.flash.step = if s.flash.step = none ∧ f.opcode ≠ 4 then some 0 else s.flash.step
  array : t.flash.cells = s.flash.cells ∧ t.flash.freePages = s.flash.freePages
  other : t.flash.ch1 = s.flash.ch1

/-- The running image has been committed in `t`: the counter and the key revocations follow its header, the trial is over,
and the active boot-select record names its copy (R396, R492, R571). -/
structure Committed (s t : State) : Prop where
  rollback : t.sc.rollback = max s.sc.rollback (fwSecurity s.host.upd.runningImage)
  revoked : t.sc.revoked = s.sc.revoked ||| BitVec.ofNat 4 (fwRevoke s.host.upd.runningImage)
  trial : t.host.upd.trial = false
  record : memWf (fun _ => some 0xFF) s.flash.cells = true → (∀ r, activeRecord s.flash = some r → r.1 + 1 < 2 ^ 32) →
    (activeRecord t.flash).map (·.2.2) = some s.host.upd.bootCopy
  cores : t.cores = s.cores

/-- The operation of flash channel `n` has ended in `t` with a result code, and with it the mailbox or management command
that waited for it (R382, R412, R488, R515). -/
structure FlashEnded (s t : State) (n code : Nat) : Prop where
  channel : (chanOf t.flash n).op = none
  result : (chanOf t.flash n).result = BitVec.ofNat 8 code
  mail : n = 0 → ∀ o, s.host.mail.running = some o → 0x11 ≤ o → o ≤ 0x13 → t.host.mail.busy = false ∧
    t.host.mail.result = BitVec.ofNat 16 (if code = 0 then 0 else 0x100 + code)
  long : n = 1 → s.mg.long = .program ∨ s.mg.long = .erase → t.mg.longState = 3 ∧ t.mg.longResult = BitVec.ofNat 8 code
  short : n = 1 → s.mg.long = .none → s.mg.shortFlash = true → t.mg.shortState = 3 ∧ t.mg.shortResult = BitVec.ofNat 8 code

/-- Flash commands are taken: the control plane is clocked and the scan has ended (R397). -/
def FlashReady (s : State) : Prop := flashUp s = true ∧ s.flash.scanDone = true

/-- A device-fatal error with this code has been taken in `t` (R588): its entry is the newest of the log, the fatal bits
stand, every core is stopped, data frames are dropped, and dispatch has stopped. -/
structure FatalTaken (t : State) (code : Nat) : Prop where
  entry : ∃ e, t.log.entries.head? = some e ∧ e.cls = 2 ∧ e.code = code
  bits : t.log.fatal = true ∧ t.mg.fatal = true ∧ t.mg.alert.getLsbD 7 = true
  cores : ∀ c ∈ t.cores, c.regs.stopped = true
  drops : t.net.dropping = true
  dispatch : t.host.dispatch = false

/-- Every begun entry of every ring has completed (R588). -/
def EntriesDone (t : State) : Prop := ∀ r ∈ t.host.rings, ∀ e ∈ r.entries, ∃ st v, e.stage = .done st v

/-- No bytes of the ingest buffer lie in a range. -/
def IngestClear (s : State) (a n : Nat) : Prop := ∀ g ∈ s.net.ingest, g.addr + g.bytes.length ≤ a ∨ a + n ≤ g.addr

/-- Between `s` and `t` exactly this frame has been handed to a port: sent, kept while its priority is paused, or dropped
while the link is down (R418, R439). -/
def Sent (s t : State) (port : Nat) (f : OutFrame) : Prop :=
  t.net.out = (sendFrame s port f).net.out ∧ t.net.ports = (sendFrame s port f).net.ports

/-- A Spexa Stream Protocol packet reaches the stream engine: its port receives and has room, and it is addressed to the
engine's port (R428, R440). -/
def StreamHeard (s : State) (p : SspPacket) : Prop :=
  receives s p.port = true ∧ s.net.stEnable = true ∧ p.udpPort = s.net.udpPort.toNat ∧ bufferFull s p.port p.prio p.occ = false

/-- Queue pair `n` has failed in `t` (R336, R422): its work has ended, its links have stopped, and an entry is written. -/
def QpFailed (t : State) (n : Nat) : Prop :=
  (∃ p, qpOf t n = some p ∧ p.error = true ∧ p.outstanding = []) ∧ (∀ l ∈ t.net.links, l.qp = n → l.stopped = true) ∧
    ∃ e, t.log.entries.head? = some e ∧ e.cls = 1 ∧ e.code = 0x0401 ∧ e.detail = n

/-- A module has failed a step of its bring-up in `t` (R443): it stays in low-power mode, and an entry is written. -/
def ModuleFailed (t : State) (cage step : Nat) : Prop :=
  (cageAt t cage).failStep = BitVec.ofNat 3 step ∧ (cageAt t cage).bringUp = false ∧ (cageAt t cage).active = false ∧
    ∃ e, t.log.entries.head? = some e ∧ e.cls = 1 ∧ e.code = 0x0403 ∧ e.inst = cage ∧ e.detail = step

/-- A short management command has ended in `t` with a result, the long command as it was (R515, R516). -/
structure ShortEnded (s t : State) (result : Nat) : Prop where
  state : t.mg.shortState = 3
  result : t.mg.shortResult = BitVec.ofNat 8 result
  long : t.mg.longState = s.mg.longState ∧ t.mg.longResult = s.mg.longResult ∧ t.mg.long = s.mg.long
  rest : t.cores = s.cores ∧ t.hbm = s.hbm ∧ t.host = s.host

/-- A long management command has ended in `t` with a result (R513, R515). -/
structure LongEnded (t : State) (result : Nat) : Prop where
  state : t.mg.longState = 3
  result : t.mg.longResult = BitVec.ofNat 8 result
  long : t.mg.long = .none
  alert : t.mg.alert.getLsbD 4 = true

/-- The result of a short command as it stands at once, nothing else changed (R516). -/
def answered (s : State) (result : Nat) : State :=
  { s with mg := { s.mg with
    shortState := 3
    shortResult := BitVec.ofNat 8 result
    shortFlash := false } }

/-- No operation is open on either flash channel, and commands are taken (R382, R389, R397). -/
def FlashIdle (s : State) : Prop :=
  FlashReady s ∧ feltBegun s = false ∧ s.flash.ch0.op = none ∧ s.flash.ch1.op = none ∧ s.flash.step = none

/-- Calico has started in `t` from `s` with the record `r` (R525, R527): the network is as the record has it, every started
entry has its context, and what is not started is counted. -/
structure CalicoStarted (s t : State) (r : Bytes) : Prop where
  state : t.calico.state = 2
  alert : t.mg.alert.getLsbD 6 = true
  directory : t.calico.dir = flashBytes s.flash 0x04000000 2112
  ports : t.net.portReset = 0 ∧ t.net.stEnable = true ∧ t.net.udpPort.toNat = rdLe r 0x0C 2 ∧
    t.net.lossless.toNat = rdLe r 0x0F 1 ∧ ∀ p, p < 8 → t.net.macs.getD p 0 = rdBe r (0x10 + 6 * p) 6
  entries : ∀ i c, (i, c) ∈ t.calico.started → i < 16 ∧ c < 16 ∧ dirValid t.calico.dir = true ∧
    caOn (catalogue t.calico.dir i) = true ∧ (ctxAt s c).configured = false ∧
    (let x := ctxAt t c
     let e := catalogue t.calico.dir i
     x.calico = some i ∧ x.configured = true ∧ x.cls = 0 ∧ x.lanes = caLanes e ∧ x.pages = caPages e ∧ x.hbmBytes = rdLe e 0x38 8 ∧
      x.image ≠ none ∧ x.slotA.state = .ready)
  skipped : dirValid t.calico.dir = true → t.calico.skipped.toNat = min 15
    (((List.range 16).filter fun i => caOn (catalogue t.calico.dir i)).length - t.calico.started.length)
  others : ∀ c, (ctxAt s c).configured = true → ctxAt t c = ctxAt s c
  digest : t.calico.digest = catalogueDigest t
  cores : t.cores = s.cores

/-- Every context that Calico owned and in which no batch ran has been given up (R531). -/
def CalicoLeft (s t : State) : Prop :=
  ∀ c, c < 16 → (ctxAt s c).calico ≠ none → (ctxAt s c).batch = none → ctxAt t c = Ctx.reset

/-- The divider of CLK_CORE in `q` follows the slowest of the request and the two limits, from what it was in `p`: slower at
once, faster when the rail has settled; and the core supply is set to its voltage, but in Felt (R534, R535, R613, R614). -/
def DividerFollows (p q : Pw) : Prop :=
  let e := max q.reqDiv.toNat (max q.capLimit.toNat q.thermalLimit.toNat)
  q.curDiv.toNat = max p.curDiv.toNat e ∧
    (e < p.curDiv.toNat → ∃ d, q.pendingDiv = some d ∧ d.toNat = e) ∧ (p.curDiv.toNat ≤ e → q.pendingDiv = none) ∧
    q.vddCore = (if p.phase = .felt ∨ p.phase = .exiting true then p.vddCore else [850, 780, 750, 700].getD e 850) ∧
    q.vddSram = p.vddSram

/-- Dispatch is on exactly when nothing holds it (R358, R489, R548, R588). -/
def DispatchResumed (s t : State) : Prop :=
  t.host.dispatch = true ↔ s.host.fwReady = true ∧ s.hbm.trained = 3 ∧ s.log.fatal = false ∧ s.host.upd.handover = false

/-- A low-power entry that reached abort point `ap` has been abandoned in `t` (R548, R549). -/
structure Abandoned (s t : State) (felt : Bool) (ap : Nat) : Prop where
  phase : t.pw.phase = .active
  pending : t.pw.wakePending = false
  lastAp : t.pw.lastAp.toNat = ap
  bits : t.pw.aborted = true ∧ t.pw.wakeSrc.getLsbD 7 = true ∧ t.mg.alert.getLsbD 5 = true
  result : t.pw.result = s.pw.result
  dispatch : DispatchResumed s t
  hbmOut : felt = true → 4 ≤ ap → t.hbm.srState = [0, 0]
  frames : felt = true → 2 ≤ ap → t.net.dropping = s.log.fatal
  clock : felt = true → 5 ≤ ap → t.net.ptpRuns = true
  cores : t.cores = s.cores

/-- An abort point is reached with no wake come, and the entry goes on (R547). -/
def EntryAt (t : State) (felt : Bool) (ap : Nat) : Prop := t.pw.phase = .entering felt ap ∧ t.pw.lastAp.toNat = ap

/-- Only the power controller's part of the state differs, but for an alert (R513). -/
def PowerOnly (s t : State) : Prop :=
  t = { s with
    pw := t.pw
    mg := { s.mg with
      alert := t.mg.alert
      ibis := t.mg.ibis } }

/-- What a cold reset, a warm reset and a fall of a rail all leave in `t` (R538, R542): no batch, context, ring, stream,
queue pair or link, no session and no boot, the request and the limits of the clock as after reset; the flash, the fuses and
the host's memory as they were. -/
structure ResetDone (s t : State) : Prop where
  queue : t.pending = s.pending
  cores : t.cores.length = s.cores.length ∧ ∀ k, k < s.cores.length →
    ∃ sp, coreAt t k = { Core.reset with mx := Mx.reset s.freeCtr, sp := sp } ∧ sp.cells = [] ∧ sp.tags = [] ∧ sp.undef = []
  mesh : t.mesh = []
  calico : t.calico = Calico.reset
  contexts : (∀ x ∈ t.host.ctxs, x = Ctx.reset) ∧ (∀ r ∈ t.host.rings, r = Ring.reset) ∧ ∀ f ∈ t.host.flags, f = 0
  host : t.host.fwReady = false ∧ t.host.attached = false ∧ t.host.dispatch = false ∧ t.host.hostMem = s.host.hostMem
  network : t.net.streams = [] ∧ t.net.qps = [] ∧ t.net.links = [] ∧ t.net.ingest = [] ∧ t.net.ptp = 0 ∧ t.net.ptpRuns = false ∧
    ∀ p ∈ t.net.ports, p = Port.reset
  hbm : t.hbm.chans = [] ∧ t.hbm.trained = 0 ∧ t.hbm.srState = [0, 0]
  channels : t.flash.ch0 = FlashChan.reset s.freeCtr ∧ t.flash.ch1 = FlashChan.reset s.freeCtr ∧ t.flash.step = none ∧
    t.flash.scanDone = false
  flash : t.flash.password = s.flash.password ∧ t.flash.regions = s.flash.regions ∧ t.flash.lives = s.flash.lives ∧
    t.flash.record = s.flash.record
  fuses : t.sc.revoked = s.sc.revoked ∧ t.sc.rollback = s.sc.rollback ∧ t.sc.lifecycle = s.sc.lifecycle
  boot : t.sc.booted = false ∧ t.sc.resultA = 0xF ∧ t.sc.resultB = 0xF
  sessions : t.sc.debugged = false ∧ t.sc.silicon = false ∧ t.sc.firmware = false ∧ t.sc.observe = false ∧ t.sc.challenge = none
  fatal : t.log.fatal = false ∧ t.mg.fatal = false ∧ t.log.coreService = 0 ∧ t.log.coreFailed = 0
  soft : t.mg.arg = 0 ∧ t.mg.longState = 0 ∧ t.mg.shortState = 0 ∧ t.mg.mailbox = none ∧ t.mg.bufPtr = 0 ∧ t.mg.winAddr = 0
  clocks : t.pw.inReset = true ∧ t.pw.pllLocked = false ∧ t.pw.reqDiv = 0 ∧ t.pw.curDiv = 0 ∧ t.pw.cap = 0xF0 ∧
    t.pw.capLimit = 0 ∧ t.pw.thermalLimit = 0 ∧ t.pw.wdtRunning = false

/-- Core `k` has been reset in `t` (R174, R541): tags LOCKED with their other fields kept, data and the registers of the cold
reset domain in place, its queues, engines and requests gone; other cores keep their data and tags. -/
structure CoreWasReset (s t : State) (k : Nat) : Prop where
  registers : (coreAt t k).ctl = Ctl.reset ∧ (coreAt t k).regs = CtlRegs.reset
  queues : (coreAt t k).mq = [] ∧ (coreAt t k).vq = [] ∧ (coreAt t k).movq = []
  engines : (coreAt t k).mx = Mx.reset s.freeCtr ∧ (coreAt t k).vx = Vx.reset ∧ (coreAt t k).mv.xfers = []
  data : (coreAt t k).sp.cells = (coreAt s k).sp.cells ∧ (coreAt t k).sp.undef = (coreAt s k).sp.undef
  tags : ∀ p, p < 4096 → tagOf (coreAt t k).sp p = tagWith (tagOf (coreAt s k).sp p) 2
  counts : (coreAt t k).sp.eccCorrected = (coreAt s k).sp.eccCorrected ∧
    (coreAt t k).sp.eccUncorrected = (coreAt s k).sp.eccUncorrected ∧ (coreAt t k).sp.eccLast = (coreAt s k).sp.eccLast
  withdrawn : (∀ m ∈ t.mesh, m.req.core ≠ k) ∧ ∀ j, ∀ r ∈ (coreAt t j).sp.reqs, r.core ≠ k
  others : ∀ j, j ≠ k → (coreAt t j).ctl = (coreAt s j).ctl ∧ (coreAt t j).sp.cells = (coreAt s j).sp.cells ∧
    (coreAt t j).sp.tags = (coreAt s j).sp.tags

/-- Sector `x` is one that decommissioning erases (R575). -/
def DecomSector (s : State) (x : Nat) : Prop := 34 ≤ x ∧ x ≤ 16383 ∧ ∃ r ∈ s.flash.regions, r.on = true ∧ r.first ≤ x ∧ x ≤ r.last

/-- Decommissioning has ended in `t` (R575): the secret is erased, every protected sector from 34 on reads 0xFF, the fuse is
programmed, and the part is in a warm reset. -/
structure Decommissioned (s t : State) : Prop where
  fuses : t.sc.lifecycle = 2 ∧ t.sc.udsErased = true ∧ t.sc.decomDone = true
  erased : ∀ a, runningStep s.flash = none → DecomSector s (a / 65536) → flashByte t.flash a = 0xFF
  kept : ∀ a, runningStep s.flash = none → ¬ DecomSector s (a / 65536) → flashByte t.flash a = flashByte s.flash a
  reset : t.pw.inReset = true ∧ t.sc.booted = false ∧ t.host.fwReady = false ∧ ∀ x ∈ t.host.ctxs, x = Ctx.reset

/-- Numbers that tell the parts of a collection apart are distinct: streams, queue pairs, the cores of a context, write units
of a pseudo-channel, units a request waits for; and a core's transfers have numbers already given out. -/
structure Distinct (s : State) : Prop where
  streams : (s.net.streams.map (·.sid)).Nodup
  pairs : (s.net.qps.map (·.num)).Nodup
  placed : ∀ x ∈ s.host.ctxs, (ctxCores x).Nodup
  units : ∀ p ∈ s.hbm.chans, (p.2.writes.map (·.unit)).Nodup
  waiting : ∀ o ∈ s.hbm.opens, o.left.Nodup
  transfers : ∀ c ∈ s.cores, ∀ x ∈ c.mv.xfers, x.id < c.mv.nextId

/-- Debug sessions and keys stand as the lifecycle allows (R576, R577, R579): SILICON only in MANUFACTURE, a challenge only for
FIRMWARE outside MANUFACTURE, no keys in DECOMMISSIONED, and the debugged bit while any session is open. -/
structure SessionsLegal (s : State) : Prop where
  silicon : s.sc.silicon = true → s.sc.lifecycle = 0
  challenge : ∀ level c, s.sc.challenge = some (level, c) → level = 2 ∧ s.sc.lifecycle ≠ 0
  keys : s.sc.lifecycle = 2 → s.sc.identityValid = false
  debugged : s.sc.silicon = true ∨ s.sc.firmware = true ∨ s.sc.observe = true → s.sc.debugged = true

end Sys2Proof.Machine
end

