-- ==== Sys2Proof/Certificates/Slice0/Obligations.lean ====
section
/-!
DEFINITION. The statements about the block, for the provers: what each command does, what it leaves, and what every step keeps.
Durations, operands and choices that the model makes are named in notes/assumptions.
-/

open Sys2Proof Sys2Proof.Machine

/-- R239: NOP, SETA, SETI, SETC, SETS, ADDA and STEPA complete: each changes the register the operation names and no other,
and the bundle's words are pushed with the registers as they then stand. R239: ALU, MOVX, CMP and FLAG complete. The ALU's
result is the manual's, in the file and register it names; a register copied to an address or increment register keeps its
low 24 bits; CMP arms or disarms one comparator, which already evaluates with this bundle; FLAG writes one flag. R188: after
a bundle a flag holds the result of the highest-numbered armed comparator that names it, and a flag no armed comparator
names keeps its value; a comparator's condition compares its two operands, taken as 32-bit values. -/
def Obligations.RegistersAndFlagsAreWritten : Prop :=
  (∀ (s : State) (k : Nat) (b : BitVec 256), k < s.cores.length →
    let c := coreAt s k
    let t := c.ctl
    let w := slotOf b 0
    let done := fun (i : Instr) (u : Ctl) =>
      Room c b 1 4 → ∃ d, exec i s = .next (becomes s k d) ∧ BundleDone c b u 1 (nextBundle t.loops t.pc) d
    (Takes c 0x00 b → done (.nop k) t) ∧
    (Takes c 0x01 b → done (.seta k) { t with a := t.a.set (fld w 45 42) (BitVec.ofNat 24 (fld w 23 0)) }) ∧
    (Takes c 0x02 b → done (.seti k) { t with inc := t.inc.set (fld w 45 42) (BitVec.ofNat 24 (fld w 23 0)) }) ∧
    (Takes c 0x03 b → done (.setc k) { t with c := t.c.set (fld w 45 42) (BitVec.ofNat 32 (fld w 31 0)) }) ∧
    (Takes c 0x04 b → done (.sets k) { t with s := t.s.set (fld w 45 42) (BitVec.ofNat 32 (fld w 31 0)) }) ∧
    (Takes c 0x05 b → done (.adda k)
      { t with a := t.a.set (fld w 45 42) (t.a.getD (fld w 41 38) 0 + BitVec.ofNat 24 (fld w 23 0)) }) ∧
    (Takes c 0x06 b → FilesSized c → ∃ a, a.length = 16 ∧
      (∀ i, i < 16 → a.getD i 0 = if bit w i then t.a.getD i 0 + t.inc.getD i 0 else t.a.getD i 0) ∧
      done (.stepa k) { t with a := a })) ∧
  (∀ (s : State) (k : Nat) (b : BitVec 256), k < s.cores.length →
    let c := coreAt s k
    let t := c.ctl
    let w := slotOf b 0
    let done := fun (i : Instr) (u : Ctl) =>
      Room c b 1 4 → ∃ d, exec i s = .next (becomes s k d) ∧ BundleDone c b u 1 (nextBundle t.loops t.pc) d
    (Takes c 0x07 b →
      let file := if bit w 45 then t.s else t.c
      let y := if bit w 27 then (BitVec.ofNat 16 (fld w 15 0)).signExtend 32 else file.getD (fld w 35 32) 0
      ∃ v, AluResult (fld w 31 28) (file.getD (fld w 39 36) 0) y v ∧
        done (.alu k) (if bit w 45 then { t with s := t.s.set (fld w 43 40) v } else { t with c := t.c.set (fld w 43 40) v })) ∧
    (Takes c 0x08 b → ∀ v, CmpOperand t (fld w 39 38) (fld w 37 34) v →
      let d := fld w 43 40
      let low := BitVec.ofNat 24 v.toNat
      (fld w 45 44 = 0 → done (.movx k) { t with a := t.a.set d low }) ∧
      (fld w 45 44 = 1 → done (.movx k) { t with c := t.c.set d v }) ∧
      (fld w 45 44 = 2 → done (.movx k) { t with s := t.s.set d v }) ∧
      (fld w 45 44 = 3 → done (.movx k) { t with inc := t.inc.set d low })) ∧
    (Takes c 0x12 b → done (.cmp k) { t with cmps := t.cmps.set (fld w 45 43) (if bit w 42 then
      some ⟨fld w 41 40, fld w 39 38, fld w 37 34, bit w 33, fld w 32 31, fld w 30 27, fld w 26 21, BitVec.ofNat 16 (fld w 15 0)⟩
      else none) }) ∧
    (Takes c 0x13 b → ∃ f : W64, (∀ i, i < 64 → f.getLsbD i = if i = fld w 45 40 then bit w 39 else t.flags.getLsbD i) ∧
      done (.flagOp k) { t with flags := f })) ∧
  (∀ (t : Ctl) (i : Nat), t.cmps.length = 8 → i < 64 →
    ((∀ n < 8, ∀ arm, t.cmps.getD n none = some arm → arm.flag ≠ i) →
      (evalComparators t).flags.getLsbD i = t.flags.getLsbD i) ∧
    (∀ n < 8, ∀ arm x y, t.cmps.getD n none = some arm → arm.flag = i →
      (∀ m, n < m → m < 8 → ∀ arm', t.cmps.getD m none = some arm' → arm'.flag ≠ i) →
      CmpOperand t arm.fileA arm.regA x → arm.fileA < 4 → arm.cond < 4 →
      (if arm.immSel then y.toInt = arm.imm.toInt else arm.fileB < 4 ∧ CmpOperand t arm.fileB arm.regB y) →
      ((evalComparators t).flags.getLsbD i = true ↔
        (arm.cond = 0 ∧ x = y) ∨ (arm.cond = 1 ∧ x ≠ y) ∨ (arm.cond = 2 ∧ x.toInt < y.toInt) ∨
          (arm.cond = 3 ∧ x.toNat < y.toNat))))

/-- R198, R238: the slot-0 operation comes first, then the words are pushed slot by slot: a bundle whose next queue is full
waits there with the earlier words pushed, and goes on from that slot once there is room, without executing its operation
again. R190, R191, R240: LOOP enters a loop over the next body + 1 bundles with the count it names, a count of 0 skips the
body, and a register count above its declared maximum stops the core with E_DECLARED_MAX; BREAK leaves the innermost loop
after its bundle when the flag equals its sense. A bundle is followed by the next one in storage, but the last of a loop
body by the first of it while iterations are left. R198, R199, R208, R209, R222: the control core stops at a SYNC bundle. It
is released at a cycle at or after the nominal one in which the condition of its mode holds, and at the nominal one itself
when the condition holds from the start; the release pops a token from each named end that holds one, clears the named flags
if it carries the clear option, counts the cycles waited, and its cycle becomes the section base with the bundle at offset
0. R241, R242, R108: END ends the lane's processing, whatever its advance; the lane is reported ended in the first cycle in
which nothing it started is left, or while it waits for a transfer that is the last to complete, and CC_CYCLE and the idle
cycles of the matrix engine count up to it. -/
def Obligations.LoopsSyncsAndLaneEnds : Prop :=
  (∀ (s : State) (k : Nat) (b : BitVec 256), k < s.cores.length →
    let c := coreAt s k
    let t := c.ctl
    let waits := fun (i : Instr) (first n : Nat) (next : Nat × List LoopFrame) =>
      ∃ d, exec i s = .next (becomes s k d) ∧ SlotsPushed c b t first n d ∧ d = { c with
        mq := d.mq
        vq := d.vq
        movq := d.movq
        ctl := { t with nextPc := next.1, loops := next.2, pushed := n } }
    let plain := [(0x00, Instr.nop k), (0x01, .seta k), (0x02, .seti k), (0x03, .setc k), (0x04, .sets k), (0x05, .adda k),
      (0x06, .stepa k), (0x07, .alu k), (0x08, .movx k), (0x12, .cmp k), (0x13, .flagOp k), (0x10, .loop k), (0x11, .brk k),
      (0x14, .sync k)]
    (∀ n, Takes c 0x00 b → Full c b n → Room c b 1 n → waits (.nop k) 1 n (nextBundle t.loops t.pc)) ∧
    (∀ p ∈ plain, Busy c → bundleAt t t.pc = some b → fld (slotOf b 0) 51 46 = p.1 → 1 ≤ t.pushed → t.pushed ≤ 3 →
      (Room c b t.pushed 4 → ∃ d, exec p.2 s = .next (becomes s k d) ∧ BundleDone c b t t.pushed (t.nextPc, t.loops) d) ∧
      (∀ n, t.pushed ≤ n → Full c b n → Room c b t.pushed n → waits p.2 t.pushed n (t.nextPc, t.loops)))) ∧
  ((∀ (s : State) (k : Nat) (b : BitVec 256), k < s.cores.length →
    let c := coreAt s k
    let t := c.ctl
    let w := slotOf b 0
    let first := t.pc + 1
    let last := t.pc + 1 + fld w 9 0
    let n := if bit w 45 then (t.c.getD (fld w 36 33) 0).toNat else fld w 44 33 + 1
    let done := fun (i : Instr) (next : Nat × List LoopFrame) =>
      Room c b 1 4 → ∃ d, exec i s = .next (becomes s k d) ∧ BundleDone c b t 1 next d
    (Takes c 0x10 b → (bit w 45 = true → n ≤ declaredMax c (fld w 32 27)) →
      (0 < n → done (.loop k) (first, ⟨first, last, n - 1⟩ :: t.loops)) ∧
      (n = 0 → done (.loop k) (nextBundle t.loops last))) ∧
    (Takes c 0x10 b → bit w 45 = true → declaredMax c (fld w 32 27) < n →
      exec (.loop k) s = .next (becomes s k (ccStop c 0x0109 9 0 (fld w 36 33) t.pc false))) ∧
    (Takes c 0x11 b → t.flags.getLsbD (fld w 45 40) ≠ bit w 39 → done (.brk k) (nextBundle t.loops t.pc)) ∧
    (Takes c 0x11 b → t.flags.getLsbD (fld w 45 40) = bit w 39 → ∀ f fs, t.loops = f :: fs →
      done (.brk k) (nextBundle fs f.last))) ∧
  (∀ pc, nextBundle [] pc = (pc + 1, [])) ∧
  (∀ (f : LoopFrame) fs pc, pc ≠ f.last → nextBundle (f :: fs) pc = (pc + 1, f :: fs)) ∧
  (∀ (f : LoopFrame) fs, 0 < f.left → nextBundle (f :: fs) f.last = (f.first, ⟨f.first, f.last, f.left - 1⟩ :: fs)) ∧
  (∀ (f : LoopFrame) fs, f.left = 0 → nextBundle (f :: fs) f.last = nextBundle fs f.last)) ∧
  (∀ (s : State) (k : Nat) (b : BitVec 256), k < s.cores.length →
    let c := coreAt s k
    let t := c.ctl
    let w := slotOf b 0
    let named := fun (i : Nat) => i < 8 ∧ bit w (36 + i) = true
    let flagged := fun (j : Nat) => j < 16 ∧ bit w (18 + j) = true
    let full := fun (i : Nat) => 0 < t.tokens.getD i 0
    let raised := fun (j : Nat) => t.flags.getLsbD (16 * fld w 35 34 + j) = true
    let holds := (∀ i, ¬ named i) ∧ (∀ j, ¬ flagged j) ∨
      bit w 45 = false ∧ (∀ i, named i → full i) ∧ (∀ j, flagged j → raised j) ∨
      bit w 45 = true ∧ ((∃ i, named i ∧ full i) ∨ ∃ j, flagged j ∧ raised j)
    (Takes c 0x14 b → ∃ e : Bool, (e = true ↔ holds) ∧ exec (.sync k) s = .next (becomes s k { c with
      ctl := { t with syncWait := true, syncExact := e }
      hold := { c.hold with syncWatch := 0 } })) ∧
    (¬ holds → bundleAt t t.pc = some b → ∀ waited, exec (.syncRelease k waited) s = .next (becomes s k { c with
      ctl := { t with syncExact := false } })) ∧
    (∀ waited, let r := t.sectionBase + t.offset + waited
      let x := reach c (2 * r)
      let d0 := advanceTo x r
      t.syncWait = true → c.regs.stopped = false → bundleAt t t.pc = some b → holds → t.cycle ≤ r → t.cleared ≠ r + 1 →
      (t.syncExact = true → waited = 0) → (holdCause c = 0 ∨ t.cycle = r) → (∀ e ∈ coreKeys c, 2 * r - 1 ≤ e) →
      (wdtSuspended s k = true ∨ c.hold.syncWatch + waited ≤ wdtLimit c) →
      x.regs.stopped = false → holdCause x = 0 ∨ r ≤ x.ctl.cycle → Room d0 b 1 4 →
      ∃ (d : Core) (f : W64) (ts : List Nat), exec (.syncRelease k waited) s = .next (becomes s k d) ∧
        (∀ i, ts.getD i 0 = if i < 8 ∧ bit w (36 + i) = true then t.tokens.getD i 0 - 1 else t.tokens.getD i 0) ∧
        (∀ i, i < 64 → f.getLsbD i =
          (t.flags.getLsbD i && !(bit w 44 && i / 16 == fld w 35 34 && bit w (18 + i % 16)))) ∧
        (let u := { d0.ctl with
            syncWait := false, syncExact := false, sectionBase := r, offset := 0, flags := f, tokens := ts }
         BundleDone { d0 with
            ctl := u
            regs := { d0.regs with
              syncWaitCycles := BitVec.ofNat 32 (satAdd 32 d0.regs.syncWaitCycles.toNat (waited + c.hold.syncWatch)) }
            hold := { d0.hold with syncWatch := 0 } } b u 1 (nextBundle u.loops u.pc) d))) ∧
  (∀ (s : State) (k : Nat), k < s.cores.length →
    let c := coreAt s k
    (∀ b, Takes c 0x3F b → ∃ d, exec (.endOp k) s = .next (becomes s k d) ∧ d.ctl.ended = true ∧
      d.ctl.pc = c.ctl.pc ∧ d.ctl.offset = c.ctl.offset ∧ d.ctl.flags = (evalComparators c.ctl).flags ∧
      (bit c.ctl.stopAt 63 = false → d.regs = c.regs) ∧
      d = { c with
        ctl := d.ctl
        regs := { c.regs with halting := d.regs.halting }
        mv := { c.mv with lastAt := d.mv.lastAt } }) ∧
    (∀ waited i b, let t := max c.workEnd c.ctl.cycle + waited
      let x := reach c (2 * t)
      c.ctx = some i → i < s.host.ctxs.length → (ctxAt s i).batch = some b → laneLive s k = true →
      c.started = true → c.ctl.ended = true → c.regs.halting = false → holdCause x = 0 → x.regs.stopped = false →
      laneQuiet s k = true → waited = 0 ∨ c.mv.lastAt = c.workEnd + 1 → b.lanesHalted = [] →
      exec (.laneEnd ⟨k, waited⟩) s = .next (modBatch (becomes s k { endCycle (advanceTo x t) with started := false }) i fun y =>
        { y with lanesEnded := y.lanesEnded ++ [c.lane] })) ∧
    (∀ waited, laneQuiet s k = false → exec (.laneEnd ⟨k, waited⟩) s = .next s))

/-- R195, R199, R200, R203: what falls in a cycle takes place as a whole or not at all. A core enters a cycle in which
nothing holds or stops it; at a bundle that its counter reaches before it is processed, it holds with nothing of the cycle
done; and while a waiting cause holds it, no word or event of its engines takes place. R199, R203, R204, R207, R222: held
cycles are counted once, under the lowest-coded cause that holds the core. A hold ends after at least one held cycle, once
what it waits for is there and the watchdog's limit is not passed or the watchdog is suspended; when nothing else holds the
core, the events of the held cycle take place. R204, R211: a hold that passes the watchdog's limit stops the core with
E_HOLD_TIMEOUT, whose detail is the cause code of the hold, or 6 for a SYNC wait: the queues are discarded, and nothing
frozen in the pipelines completes. A core that waits at a bundle not yet processed is held for it even when no word is there
to meet it. -/
def Obligations.HoldsEndOrTimeOut : Prop :=
  ((∀ (c : Core) (t : Nat), let d := advanceTo c t
    let e := { d with ctl := { d.ctl with cleared := t + 1 } }
    mayGo c (2 * t) = true → c.ctl.cycle ≤ t → c.hold.eccLeft = 0 → (∀ i ∈ innerKeys c, 2 * t ≤ i) → c.ctl.cleared ≠ t + 1 →
    lateAt c t = false → (tryCycle d).stops = [] → (tryCycle d).pages = [] → (tryCycle d).tokens = [] →
    (∀ g ∈ innerWork e t, g e = .go e) → Due c (2 * t) e) ∧
  (∀ (c : Core) (t o : Nat) (f : Core → Try), let d := advanceTo c (max o c.ctl.cycle)
    mayGo c (2 * t) = true → nextBundleCycle c = some o → o ≤ t → (∀ i ∈ innerKeys c, 2 * o ≤ i) →
    d.ctl.cleared ≠ d.ctl.cycle + 1 →
    ∃ h, coreEvent c (2 * t) f = { d with hold := h, sp := { d.sp with used := [] } } ∧ h.late = true ∧
      h.bundle = c.ctl.pc ∧ h.cycle = max o c.ctl.cycle ∧ h.eccLeft = c.hold.eccLeft) ∧
  (∀ (s : State) (k j : Nat) (flips : Flips), k < s.cores.length → waitHeld (coreAt s k) = true →
    (coreAt s k).regs.stopped = false →
    (∀ i ∈ [Instr.run k, .rowCommit k, .tread k j, .bind k], exec i s = .next (becomes s k (coreAt s k))) ∧
    (∀ i ∈ [Instr.load k flips, .tileLoadComplete k flips, .passOpen k flips, .rowIssue k flips, .fma k j flips,
      .func k j flips, .reduce k j flips, .tfill k j flips, .pload k flips, .drain k flips, .vectorResult k flips,
      .drainEntryOutput k flips], exec i s = .next (becomes s k (flipCore flips (coreAt s k)))))) ∧
  ((∀ (c : Core) (n : Nat),
    let add := fun (v : W32) => BitVec.ofNat 32 (min (v.toNat + n) 0xFFFFFFFF)
    let r := (countHeld c n).regs
    (c.hold.pages ≠ [] → r = { c.regs with holdTag := add c.regs.holdTag }) ∧
    (c.hold.pages = [] → c.hold.tokens ≠ [] → r = { c.regs with holdToken := add c.regs.holdToken }) ∧
    (c.hold.pages = [] → c.hold.tokens = [] → c.hold.late = true →
      r = { c.regs with holdLate := add c.regs.holdLate }) ∧
    (c.hold.pages = [] → c.hold.tokens = [] → c.hold.late = false → 0 < c.hold.eccLeft →
      r = { c.regs with holdEcc := add c.regs.holdEcc }) ∧
    countHeld c n = { c with
      regs := r
      hold := { c.hold with
        watch := c.hold.watch + n
        syncWatch := if c.ctl.syncWait = true ∧ c.ctl.sectionBase + c.ctl.offset ≤ c.ctl.cycle then
          c.hold.syncWatch + n else c.hold.syncWatch } }) ∧
  ∀ (s : State) (k held : Nat) (flips : Flips), k < s.cores.length → (coreAt s k).regs.stopped = false →
    let c := coreAt s k
    let lasts := 1 ≤ c.hold.watch + held ∧ (∀ u ∈ c.sp.used, u.2 ≤ c.hold.watch + held) ∧
      (wdtSuspended s k = true ∨ c.hold.watch + held ≤ wdtLimit c)
    let freed := fun (x : Core) (g : HoldState → HoldState) =>
      let e := countHeld x held
      { e with hold := g e.hold, sp := { e.sp with used := [] } }
    let ends := fun (step : (Core → Core) → State) (y : Core) (i : Instr) =>
      (waitHeld y = true → exec i s = .next (step fun _ => y)) ∧
      (waitHeld y = false → lateAt y y.ctl.cycle = false → (tryCycle y).stops = [] → (tryCycle y).pages = [] →
        (tryCycle y).tokens = [] → exec i s = .next (step fun _ => finishCycle { (tryCycle y).core with
          ctl := { (tryCycle y).core.ctl with cleared := y.ctl.cycle + 1 } }))
    (c.hold.late = true → (∀ o, nextBundleCycle c = some o → c.ctl.cycle < o) → lasts →
      exec (.lateWordHoldEnd k held) s = .next (becomes s k (freed c fun h => { h with late := false }))) ∧
    (c.hold.late = false → waitHeld c = false → (∃ o, nextBundleCycle c = some o ∧ ∀ e ∈ coreKeys c, 2 * o ≤ e) → 1 ≤ held →
      (beginLate c).hold.late = true →
      (wdtSuspended s k = true ∨ (beginLate c).hold.watch + held ≤ wdtLimit (beginLate c)) →
      exec (.lateWordHoldEnd k held) s = .next (becomes s k (countHeld (beginLate c) held))) ∧
    (c.hold.tokens ≠ [] → (∀ tk ∈ c.hold.tokens, 0 < c.ctl.tokens.getD tk 0) → lasts →
      ends (moveStep s k) (freed c fun h => { h with tokens := [] }) (.tokenWaitEnd k held)) ∧
    (c.hold.pages ≠ [] → (∀ p ∈ c.hold.pages, (tagOf c.sp p.1).toNat % 4 = (if p.2 then 0 else 1) ∨
        (tagOf c.sp p.1).toNat % 4 = 3) → lasts →
      ends (moveStep s k) (freed (flipCore flips c) fun h => { h with pages := [] }) (.tagWaitEnd k held flips)) ∧
    (∀ p ∈ c.hold.pages, (tagOf c.sp p.1).toNat % 4 ≠ (if p.2 then 0 else 1) → (tagOf c.sp p.1).toNat % 4 ≠ 3 →
      exec (.tagWaitEnd k held flips) s = .next (moveStep s k fun _ => flipCore flips c)) ∧
    (let n := c.hold.eccLeft
     let e := { c with hold := { c.hold with watch := if c.hold.cycle = c.ctl.cycle + 1 then c.hold.watch else 0 } }
     waitHeld c = false → 0 < n → (wdtSuspended s k = true ∨ e.hold.watch + n ≤ wdtLimit c) →
      exec (.eccHoldEnd k) s = .next (becomes s k { countHeld e n with
        hold := { (countHeld e n).hold with eccLeft := 0, cycle := c.ctl.cycle + 1 }
        sp := { c.sp with used := (c.sp.used.map fun u => (u.1, u.2 - n)).filter fun u => u.2 != 0 } }))) ∧
  (∀ (s : State) (k cause : Nat) (x : Core), k < s.cores.length → wdtSuspended s k = false →
    let c := foundLate (coreAt s k)
    let nominal := c.ctl.sectionBase + c.ctl.offset
    let t := max c.ctl.cycle nominal + (wdtLimit c + 1 - (c.hold.syncWatch + (c.ctl.cycle - nominal)))
    c.started = true → c.regs.stopped = false →
    (waitHeld c = true ∧ c.ctl.syncWait = false ∧ cause = holdCause c ∧ x = c ∨
      waitHeld c = false ∧ 0 < c.hold.eccLeft ∧ cause = 4 ∧ x = c ∧
        wdtLimit c < (if c.hold.cycle = c.ctl.cycle + 1 then c.hold.watch else 0) + c.hold.eccLeft ∨
      waitHeld c = false ∧ c.hold.eccLeft = 0 ∧ c.ctl.syncWait = true ∧ cause = 6 ∧
        (∀ e ∈ coreKeys (keepExact c), 2 * t ≤ e) ∧ x = reach c (2 * t) ∧ x.regs.stopped = false ∧ holdCause x = 0) →
    ∃ u, exec (.holdTimeout k) s = .next u ∧
      (let d := coreAt u k
       d.regs.stopped = true ∧ d.regs.fault = true ∧ d.mq = [] ∧ d.vq = [] ∧ d.movq = [] ∧ d.mx.run = none ∧
        d.mx.flight = [] ∧ d.vx.runs = [] ∧ d.vx.results = [] ∧ d.vx.drains = [] ∧ d.hold = .none ∧
        (x.regs.ccFault = 0 → d.regs.ccFault.toNat = 8 * 2 ^ 28 + cause) ∧
        (x.regs.ccFault ≠ 0 → d.regs.ccFault = x.regs.ccFault)) ∧
      ∀ j, j ≠ k → coreAt u j = coreAt s j)

/-- R53, R92, R223: a batch start on a core whose lane has still to begin: flags, token ends, loop stack, queues,
instruction buffer, CC_CYCLE and CC_SECTION_BASE are 0 or empty, comparators disarmed, halted clear, entries, tags, tiles
and overflow flags clear (R53, R92), both parameter banks not ready, transpose buffers and loop-back queues empty, ends
unbound; the hold counters keep their values. Nothing is said of A, C, S and increment registers, which are undefined. R254,
R255: while the lane's code is not all fetched and the buffer of 2,048 has room beside the last 1,024 processed, a fetch
brings the next bundles, four at a time, from the context's copy of the image; a fetch that receives an error response
places none of them, and the core will stop at the first. The lane's first bundle may issue once the buffer has held
min(bundles, 256). -/
def Obligations.LanesAreClearedFetchedAndStarted : Prop :=
  (∀ (s : State) (k i l : Nat) (b : Batch), k < s.cores.length → laneToStart s k = some (i, b, l) →
    b.failing = false → b.refuse = none → setReady s i = true → pinnedOk s i k = true →
    (coreAt s k).mv.xfers = [] → (coreAt s k).mv.flagWrites = [] → (coreAt s k).tokensWaiting = [] →
    ∃ t, exec (.batchStart k) s = .next t ∧
      (let c := coreAt s k
       let d := coreAt t k
       d.ctl.flags = 0 ∧ d.ctl.tokens = List.replicate 8 0 ∧ d.ctl.loops = [] ∧ d.mq = [] ∧ d.vq = [] ∧ d.movq = [] ∧
        d.ctl.ibuf = [] ∧ d.ctl.cycle = 0 ∧ d.ctl.sectionBase = 0 ∧ d.ctl.cmps = List.replicate 8 none ∧
        d.mx.ovf = 0 ∧ d.mx.acc = [] ∧ d.mx.accTags = [] ∧ d.mx.active = none ∧ d.mx.shadow = none ∧ d.mx.loading = none ∧
        d.regs.halted = false ∧ d.vx.p0.ready = false ∧ d.vx.p1.ready = false ∧
        d.vx.t0.rows = [] ∧ d.vx.t1.rows = [] ∧ d.vx.t0.full = false ∧ d.vx.t1.full = false ∧
        d.vx.lb = [[], [], [], []] ∧ d.vx.ends = List.replicate 6 none ∧
        d.regs.holdTag = c.regs.holdTag ∧ d.regs.holdToken = c.regs.holdToken ∧ d.regs.holdLate = c.regs.holdLate ∧
        d.regs.holdEcc = c.regs.holdEcc ∧ d.regs.syncWaitCycles = c.regs.syncWaitCycles ∧ FilesSized d) ∧
      (∀ j, j ≠ k → coreAt t j = coreAt s j) ∧
      (∀ j, j ≠ i → ctxAt t j = ctxAt s j) ∧
      (i < s.host.ctxs.length →
        (ctxAt t i).batch = (ctxAt s i).batch.map fun x => { x with lanesBegun := x.lanesBegun ++ [l] }) ∧
      t = { s with freeCtr := t.freeCtr, cores := t.cores, host := { s.host with ctxs := t.host.ctxs } }) ∧
  (∀ (s : State) (k : Nat) (e : Bytes) (base : Nat), k < s.cores.length → laneCode s k = some (e, base) →
    laneLive s k = true →
    let c := coreAt s k
    let n := min 4 (leBundles e - c.ctl.fetched)
    let a := base + leCode e + 32 * c.ctl.fetched
    (0 < n → c.ctl.fetched + n ≤ 2048 + (c.ctl.high - 1024) → hbmBad s a (32 * n) = false →
      ∃ d, exec (.laneFetch k true) s = .next (setCore s k d) ∧
        d = { c with ctl := { c.ctl with fetched := c.ctl.fetched + n, ibuf := d.ctl.ibuf } } ∧
        (∀ p ∈ c.ctl.ibuf, c.ctl.high ≤ p.1 + 1024 → p ∈ d.ctl.ibuf) ∧
        (∀ j, j < n →
          (c.ctl.fetched + j, BitVec.ofNat 256 (leNat (hbmRead s (a + 32 * j) 32))) ∈ d.ctl.ibuf)) ∧
    (0 < n → c.ctl.fetched + n ≤ 2048 + (c.ctl.high - 1024) →
      exec (.laneFetch k false) s = .next (setCore s k { c with ctl := { c.ctl with
        fetchFail := c.ctl.fetchFail ++ (List.range n).map fun j => c.ctl.fetched + j
        fetched := c.ctl.fetched + n } })) ∧
    (∀ op f, canProcess c = true → bundleAt c.ctl c.ctl.pc = none → c.ctl.pc ∈ c.ctl.fetchFail →
      (takeBundle c op f).regs.stopped = true ∧ (takeBundle c op f).regs.ccFault = c.regs.ccFault) ∧
    (c.started = false → min (leBundles e) 256 ≤ c.ctl.fetched →
      exec (.laneStart k) s = .next (setCore s k { c with started := true })) ∧
    (c.ctl.fetched < min (leBundles e) 256 → exec (.laneStart k) s = .next s))

/-- R242, R471: a batch completes when every present lane has ended: its ring entry is done with status OK and value 0, the
flag it signals rises by 1, and the context is free for its next batch. R594, R299: a failed batch of a ring stops every
core of its context that has not stopped, without writing a fault register, and its entry completes with E_BATCH_FAILED, or
with STOPPED after a bisection stop, the value being the lowest log entry of the batch; a batch that may run no bundle ends
with the status that refused it (R325, R329). R296, R297, R299, R303: a lane whose stop is reached halts in the first cycle
in which nothing it started is left, or while it waits for a transfer that is the last to complete: CC_CYCLE stops there,
stopped and halted read 1, and the batch ends with STOPPED once every lane has ended or halted, unless keep is 1. -/
def Obligations.BatchesEndAndCoresHalt : Prop :=
  (∀ (s : State) (i : Nat) (b : Batch), i < s.host.ctxs.length → (ctxAt s i).batch = some b →
    b.failing = false → b.refuse = none → (∀ p ∈ (ctxAt s i).placed, p.1 ∈ b.lanesEnded) → b.frames = [] → b.deliver = true →
    ∃ t, exec (.batchComplete i) s = .next t ∧ (ctxAt t i).batch = none ∧
      (∀ q idx, b.ring = some (q, idx) → q < s.host.rings.length →
        (t.host.rings.getD q .reset).entries = (s.host.rings.getD q .reset).entries.map fun e =>
          if e.index = idx then { e with stage := .done 0 0 } else e) ∧
      (∀ f, b.signal = some f → f < s.host.flags.length → t.host.flags.getD f 0 = s.host.flags.getD f 0 + 1) ∧
      (∀ j, b.signal ≠ some j → t.host.flags.getD j 0 = s.host.flags.getD j 0) ∧
      (∀ j, j ≠ i → ctxAt t j = ctxAt s j) ∧
      (∀ k, k ∉ (ctxAt s i).placed.map (·.2) → coreAt t k = coreAt s k) ∧
      t = { s with
        cores := t.cores
        host := { s.host with rings := t.host.rings, flags := t.host.flags, ctxs := t.host.ctxs } }) ∧
  (∀ (s : State) (i : Nat) (b : Batch), i < s.host.ctxs.length → (ctxAt s i).batch = some b → b.frames = [] →
    b.deliver = true → (b.failing = true ∨ b.refuse ≠ none) →
    ∃ t, exec (.batchFail i) s = .next t ∧ (ctxAt t i).batch = none ∧
      (∀ q idx, b.ring = some (q, idx) → q < s.host.rings.length →
        (t.host.rings.getD q .reset).entries = (s.host.rings.getD q .reset).entries.map fun e =>
          if e.index = idx then { e with stage := match b.refuse with
            | some r => .done r.1 r.2
            | none => .done (if b.stopEnd then 0x0001 else 0x0011) (b.logged.getD 0) } else e) ∧
      (b.refuse = none → ∀ k, k < s.cores.length → k ∈ (ctxAt s i).placed.map (·.2) →
        (coreAt t k).regs.stopped = true ∧ (coreAt t k).started = false ∧
        (coreAt t k).regs.ccFault = (coreAt s k).regs.ccFault ∧ (coreAt t k).mx.mxFault = (coreAt s k).mx.mxFault ∧
        (coreAt t k).vx.vxFault = (coreAt s k).vx.vxFault ∧ (coreAt t k).sp.spFault = (coreAt s k).sp.spFault) ∧
      (∀ k, k ∉ (ctxAt s i).placed.map (·.2) → coreAt t k = coreAt s k) ∧
      (∀ j, j ≠ i → ctxAt t j = ctxAt s j) ∧
      t = { s with
        cores := t.cores
        host := { s.host with rings := t.host.rings, flags := t.host.flags, ctxs := t.host.ctxs } }) ∧
  (∀ (s : State) (k waited i : Nat) (b : Batch), k < s.cores.length → i < s.host.ctxs.length →
    (coreAt s k).ctx = some i → (ctxAt s i).batch = some b → laneLive s k = true → (coreAt s k).started = true →
    (coreAt s k).regs.halting = true → laneQuiet s k = true →
    waited = 0 ∨ (coreAt s k).mv.lastAt = (coreAt s k).workEnd + 1 →
    let t := max (coreAt s k).workEnd (coreAt s k).ctl.cycle + waited
    let x := reach (coreAt s k) (2 * t)
    holdCause x = 0 → x.regs.stopped = false → x.reports = [] →
    ∃ u, exec (.coreHalt k waited) s = .next u ∧
      (coreAt u k).regs.halted = true ∧ (coreAt u k).regs.stopped = true ∧ (coreAt u k).started = false ∧
      (coreAt u k).ctl.cycle = max t x.ctl.cycle ∧
      (∀ j, j ≠ k → coreAt u j = coreAt s j) ∧
      ∃ y, (ctxAt u i).batch = some y ∧ y.lanesHalted = b.lanesHalted ++ [(coreAt s k).lane] ∧
        ((s.host.dbgKeep = true ∨ b.failing = true) → y.stopEnd = b.stopEnd) ∧
        (s.host.dbgKeep = false → b.failing = false →
          (∀ p ∈ (ctxAt s i).placed, p.1 ∈ b.lanesEnded ∨ p.1 ∈ y.lanesHalted) → y.stopEnd = true ∧ y.failing = true))

/-- R241, R267 to R269, R277 to R279, R282: a MACRO bundle gives the lane's engines to the sequencer with the registers as
they stand, and the control core takes no further bundle. The macro starts in the first cycle in which everything pushed
before has drained, unless a count is above its declared maximum; with a count of 0 it does no work and completes in that
cycle. On completion, once its work is done, its cycle is a new section base, the bundle after it has offset 0, and the
engines are left as R279 says. -/
def Obligations.MacrosRunFromStartToCompletion : Prop :=
  ∀ (s : State) (k : Nat), k < s.cores.length →
    let c := coreAt s k
    (∀ b, Takes c 0x18 b → ∃ d ms, exec (.seqMacro k) s = .next (becomes s k d) ∧ d.seq = some ms ∧
      ms.word = slotOf b 0 ∧ ms.cycle = c.ctl.sectionBase + c.ctl.offset ∧ ms.a = c.ctl.a ∧ ms.c = c.ctl.c ∧
      ms.started = false ∧ ms.done = false ∧ canProcess d = false ∧ d.ctl.pc = c.ctl.pc ∧
      d.ctl.flags = (evalComparators c.ctl).flags ∧ d = { c with seq := d.seq, ctl := d.ctl }) ∧
    (∀ ms waited, c.seq = some ms → ms.started = false → pipesEmpty c = true → c.mx.loading = none →
      ms.cycle + waited = max ms.cycle c.workEnd →
      let t := ms.cycle + waited
      let m := fun (i : Nat) => (ms.c.getD (fld ms.word 31 28 + i) 0).toNat
      let most := fun (i : Nat) => declaredMax c (fld ms.word 27 22 + i)
      ∀ d, Due c (2 * t) d → d.seq = c.seq → d.banks = c.banks → d.ctx = c.ctx →
      ((∃ i, i < 3 ∧ most i < m i) → ∃ i, i < 3 ∧ most i < m i ∧ exec (.seqStart k waited) s = .next (nextEpoch (becomes s k
        (After d (ccStop d 0x0109 9 0 (16 + (fld ms.word 31 28 + i)) ms.bundle false))))) ∧
      ((∀ i, i < 3 → m i ≤ most i) →
        let idle := (List.range 3).any fun i => m i == 0
        exec (.seqStart k waited) s = .next (nextEpoch (becomes s k (After d { d with
          seq := some { ms with
            started := true
            epoch := s.freeCtr
            start := d.ctl.cycle
            next := d.ctl.cycle
            idle := idle
            done := idle
            remaining := if fld ms.word 45 44 = 2 ∧ idle = false then List.range (m 1) else [] }
          regs := { d.regs with
            seqActive := true
            seqOp := BitVec.ofNat 2 (fld ms.word 45 44)
            seqSplits := 0
            seqTiles := 0 } }))))) ∧
    (∀ ms waited, c.seq = some ms → ms.cycle + waited ≠ max ms.cycle c.workEnd →
      exec (.seqStart k waited) s = .next (nextEpoch (becomes s k c))) ∧
    (∀ m ms ran d, c.seq = some m → m.started = true → Due c (2 * (m.start + ran)) d → d.seq = some ms → ms.done = true →
      ms.least ≤ m.start + ran → (ms.idle = true → ran = 0) → bit m.word 13 = false →
      ∃ x, exec (.seqComplete k ran) s = .next (nextEpoch (nextEpoch (becomes s k (finishCycle x)))) ∧
        (let n := nextBundle d.ctl.loops d.ctl.pc
         x.seq = none ∧ x.regs.seqActive = false ∧ x.ctl.sectionBase = d.ctl.cycle ∧ x.ctl.offset = 0 ∧
          x.ctl.pc = n.1 ∧ x.ctl.loops = n.2 ∧ x.vx.p0 = d.vx.p0 ∧ x.vx.p1 = d.vx.p1 ∧ x.mx.active = d.mx.active ∧
          x.mx.shadow = none ∧ x.vx.lb = [[], [], [], []] ∧ x.vx.ends = List.replicate 6 none ∧ x.sp = d.sp))

/-- R189, R197, R207, R251 to R253: a DMA, SEND, TAG or FLAG word starts its transfer, send, tag operation or flag write at
its issue cycle, taking its token; every transfer that can go on then does, and a DMA with no repeats completes at once. A
repeat count above its declared maximum stops the core with E_DECLARED_MAX, and a SEND off a row boundary fails as a
transfer. -/
def Obligations.MoveWordsStartTheirTransfers : Prop :=
  ∀ (s : State) (k : Nat) (q : QWord) (rest : List QWord), k < s.cores.length →
    let c := coreAt s k
    let w := q.word
    c.movq.head? = some q → ∀ d0 d1, Due c (2 * q.cycle) d0 → d0.movq = q :: rest → d0.mvLast ≤ q.cycle → Pops d0 w d1 →
      let d := { d1 with movq := rest, mvLast := q.cycle + 1 }
      let starts := fun (x : Xfer) => moveStep s k fun _ => After d0 { d with
        mv := { d.mv with xfers := d.mv.xfers ++ [x], nextId := d.mv.nextId + 1 } }
      let tok := if bit w 24 then some (fld w 23 19, fld w 18 16) else none
      let x : Xfer :=
        { id := d.mv.nextId, kind := .dma, ctx := d.ctx.getD 0xFF, lane := d.lane, bundle := q.bundle, desc := []
          srcBase := 0, dstBase := 0, reps := 0, rep := 0, rd := 0, wr := 0, buf := [], staged := false, busy := false
          token := tok, failed := none }
      (fld w 59 56 = 0 →
        let n := if bit w 43 then (q.c.getD (fld w 34 31) 0).toNat else fld w 42 31 + 1
        let e := (bankOfCtx d).xfers.getD (fld w 55 48) []
        let a := (q.a.getD (fld w 47 44) 0).toNat
        (bit w 43 = true → n ≤ declaredMax d (fld w 30 25)) →
        exec (.dma k) s = .next (starts { x with
          desc := e
          srcBase := if tdSrcKind e = 1 ∧ tdSrcAddr e / 2 ^ 24 % 32 = d.lane then a else 0
          dstBase := if tdDstKind e = 1 ∧ tdDstAddr e / 2 ^ 24 % 32 = d.lane then a else 0
          reps := n })) ∧
      (fld w 59 56 = 1 →
        let src := (q.a.getD (fld w 50 47) 0).toNat
        let dst := (q.a.getD (fld w 46 43) 0).toNat
        exec (.send k) s = .next (starts { x with
          kind := .send
          desc := tdOfRows d.lane (fld w 55 51) src dst (fld w 42 31 + 1) (fld w 30 29) (fld w 28 27)
          reps := 1
          failed := if src % 128 = 0 ∧ dst % 128 = 0 then none else some (0x0107, 0) })) ∧
      (fld w 59 56 = 2 → exec (.tag k) s = .next (starts { x with
          kind := .tagOp (bit w 55)
          srcBase := fld w 54 50
          dstBase := ((q.a.getD (fld w 49 46) 0).toNat / 4096 + fld w 45 34) % 4096
          reps := fld w 33 22 + 1
          token := none })) ∧
      (fld w 59 56 = 3 → exec (.flagWord k) s = .next (moveStep s k fun _ => After d0 { d with
        mv := { d.mv with flagWrites := d.mv.flagWrites ++ [⟨d.ctx.getD 0xFF, fld w 49 45, q.bundle, fld w 55 50,
          (d.mv.xfers.filter (targetsLane (fld w 49 45))).map (·.id)⟩] } }))

/-- R251: a step of the move engine completes the transfers of no repeats that it started, and lets every transfer that can
go on do so; the others are as the step left them. R191, R202, R207, R216: a move word that names a token end holding no
token holds the core with cause 2 at its issue cycle, and nothing of that cycle takes place; a DMA whose repeat count is
above its declared maximum stops it with E_DECLARED_MAX. R196: a move word whose issue cycle is earlier than that of the
word before it in its queue stops the core with E_CADENCE, detail 0x40; one whose issue cycle equals it, detail 0x41; the
order is checked before a token is waited for. R196, R211, R217: a core that a control-core fault stops records the first
fault with its bundle, reports it, discards its queues, and gives up the run, load and macro under way; what the pipelines
hold completes, unless a hold timeout stopped it. R189, R205, R206: a finished transfer leaves the move engine and its token
is on its way to the token end it names; a token that arrives adds 1 to a token end below 255, and waits at 255; a flag
write is delivered once the transfers it waits for are done, and one for a lane that runs another context is discarded with
E_ADDRESS. R593: a transfer that received an error response leaves the move engine without a token, and its batch fails with
the entry the move engine logs. -/
def Obligations.MoveWordsHoldAndDeliver : Prop :=
  (∀ (s : State) (k : Nat) (f : Core → Core) (xs : List Xfer) (y : Xfer), k < s.cores.length →
    (∀ z ∈ xs, z.id < (coreAt s k).mv.nextId) → (coreAt s k).mv.nextId ≤ y.id →
    ((f (coreAt s k)).mv.xfers = xs → moveStep s k f = pumpCore (onCore s k f) k) ∧
    ((f (coreAt s k)).mv.xfers = xs ++ [y] → (y.reps ≠ 0 ∨ y.failed ≠ none) → moveStep s k f = pumpCore (onCore s k f) k) ∧
    ((f (coreAt s k)).mv.xfers = xs ++ [y] → y.reps = 0 → y.failed = none →
      moveStep s k f = pumpCore (completeXfer (onCore s k f) k xs.length) k)) ∧
  (∀ (s : State) (k : Nat) (q : QWord) (rest : List QWord) (d : Core), k < s.cores.length →
    let c := coreAt s k
    c.movq.head? = some q → Only c (2 * q.cycle) tryMove d → d.movq = q :: rest → d.mvLast ≤ q.cycle →
    (bit q.word 3 = true → d.ctl.tokens.getD (fld q.word 2 0) 0 = 0 →
      ∀ i, (fld q.word 59 56 = 0 ∧ i = Instr.dma k) ∨ (fld q.word 59 56 = 1 ∧ i = .send k) ∨
        (fld q.word 59 56 = 2 ∧ i = .tag k) ∨ (fld q.word 59 56 = 3 ∧ i = .flagWord k) →
      exec i s = .next (moveStep s k fun _ => beginHold d [] [fld q.word 2 0] false q.bundle) ∧
        holdCause (beginHold d [] [fld q.word 2 0] false q.bundle) = 2) ∧
    (bit q.word 3 = false → fld q.word 59 56 = 0 → bit q.word 43 = true →
      declaredMax d (fld q.word 30 25) < (q.c.getD (fld q.word 34 31) 0).toNat →
      exec (.dma k) s = .next (moveStep s k fun _ => ccStop d 0x0109 9 0 (16 + fld q.word 34 31) q.bundle false))) ∧
  (∀ (s : State) (k : Nat) (q : QWord) (rest : List QWord) (d : Core), k < s.cores.length →
    let c := coreAt s k
    c.movq.head? = some q → Only c (2 * q.cycle) tryMove d → d.movq = q :: rest → q.cycle < d.mvLast →
    ∀ i, (fld q.word 59 56 = 0 ∧ i = Instr.dma k) ∨ (fld q.word 59 56 = 1 ∧ i = .send k) ∨
        (fld q.word 59 56 = 2 ∧ i = .tag k) ∨ (fld q.word 59 56 = 3 ∧ i = .flagWord k) →
      exec i s = .next (moveStep s k fun _ =>
        ccStop d 0x0103 3 3 (if q.cycle + 1 < d.mvLast then 0x40 else 0x41) q.bundle false)) ∧
  (∀ (c : Core) (code cause queue detail bundle : Nat) (abandon : Bool), cause < 16 → queue < 4 → detail < 2 ^ 26 →
    let d := ccStop c code cause queue detail bundle abandon
    d.regs.stopped = true ∧ d.regs.fault = true ∧ d.mq = [] ∧ d.vq = [] ∧ d.movq = [] ∧ d.seq = none ∧ d.hold = .none ∧
    d.mx.run = none ∧ d.mx.loading = none ∧ d.vx.runs = [] ∧ d.vx.bias = none ∧ d.ctl.pushed = 0 ∧
    (abandon = false → d.mx.flight = c.mx.flight ∧ d.vx.results = c.vx.results) ∧
    (abandon = true → d.mx.flight = [] ∧ d.vx.results = [] ∧ d.vx.drains = []) ∧
    (c.regs.ccFault = 0 → d.regs.ccFault.toNat = cause * 2 ^ 28 + queue * 2 ^ 26 + detail ∧
      d.regs.ccFaultBundle = BitVec.ofNat 32 bundle) ∧
    (c.regs.ccFault ≠ 0 → d.regs.ccFault = c.regs.ccFault ∧ d.regs.ccFaultBundle = c.regs.ccFaultBundle) ∧
    d.sp = c.sp ∧ d.mv = c.mv ∧ d.tokensWaiting = c.tokensWaiting ∧ d.ctl.tokens = c.ctl.tokens ∧ d.ctl.flags = c.ctl.flags ∧
    d.reports = c.reports ++ [⟨1, 4, code, 0xFF, bundle, 0, (BitVec.ofNat 32 (cause * 2 ^ 28 + queue * 2 ^ 26 + detail)).toNat⟩]) ∧
  (∀ (s : State) (k : Nat), k < s.cores.length →
    let c := coreAt s k
    (∀ i x, c.mv.xfers[i]? = some x → x.reps ≤ x.rep → x.busy = false → x.failed = none →
      let s1 := setCore s k { c with mv := { c.mv with xfers := c.mv.xfers.eraseIdx i, lastAt := c.workEnd + 1 } }
      (x.token = none → exec (.transferComplete k i) s = .next s1) ∧
      (∀ lane tk t, x.token = some (lane, tk) → coreOf (ctxAt s x.ctx) lane = some t →
        exec (.transferComplete k i) s =
          .next (modCore s1 t fun d => { d with tokensWaiting := d.tokensWaiting ++ [(tk, k)] })) ∧
      (∀ lane tk, x.token = some (lane, tk) → coreOf (ctxAt s x.ctx) lane = none →
        exec (.transferComplete k i) s = .next (logCtx s1 x.ctx { logEntry 1 5 0x0107 0 with core := k, bundle := x.bundle }))) ∧
    (∀ i x, c.mv.xfers[i]? = some x → (x.rep < x.reps ∨ x.busy = true) → exec (.transferComplete k i) s = .next s) ∧
    (∀ tk i, c.tokensWaiting.findIdx? (fun p => p.1 == tk) = some i →
      (c.ctl.tokens.getD tk 0 < 255 → exec (.tokenDelivery k tk) s = .next (setCore s k { c with
        tokensWaiting := c.tokensWaiting.eraseIdx i
        ctl := { c.ctl with tokens := modAt c.ctl.tokens tk (· + 1) } })) ∧
      (c.ctl.tokens.getD tk 0 = 255 → exec (.tokenDelivery k tk) s = .next s)) ∧
    (∀ i fw, c.mv.flagWrites[i]? = some fw →
      ((∃ x ∈ c.mv.xfers, x.id ∈ fw.behind ∧ (x.rep < x.reps ∨ x.busy = true)) →
        exec (.flagDelivery k i) s = .next s) ∧
      (let s1 := setCore s k { c with mv := { c.mv with flagWrites := c.mv.flagWrites.eraseIdx i } }
       (∀ x ∈ c.mv.xfers, x.id ∈ fw.behind → x.reps ≤ x.rep ∧ x.busy = false ∧ x.failed = none) →
        (∀ t, coreOf (ctxAt s fw.ctx) fw.lane = some t → (coreAt s t).ctx = some fw.ctx → t < s.cores.length → fw.flag < 64 →
          ∃ f : W64, (∀ j, j < 64 → f.getLsbD j = (decide (j = fw.flag) || (coreAt s t).ctl.flags.getLsbD j)) ∧
            exec (.flagDelivery k i) s = .next (setCore s1 t { coreAt s1 t with
              ctl := { (coreAt s t).ctl with flags := f } })) ∧
        ((∀ t, coreOf (ctxAt s fw.ctx) fw.lane = some t → (coreAt s t).ctx ≠ some fw.ctx) →
          exec (.flagDelivery k i) s = .next (logCtx s1 fw.ctx { logEntry 1 5 0x0107 0 with core := k, bundle := fw.bundle }))))) ∧
  (∀ (s : State) (k i : Nat) (x : Xfer) (f : Nat × Nat) (b : Batch), k < s.cores.length →
    (coreAt s k).mv.xfers[i]? = some x → x.failed = some f → x.ctx < s.host.ctxs.length →
    (ctxAt s x.ctx).batch = some b →
    ∃ t e, exec (.transferFail k i) s = .next t ∧
      t.cores = s.cores.set k { coreAt s k with mv :=
        { (coreAt s k).mv with xfers := (coreAt s k).mv.xfers.eraseIdx i } } ∧
      t.log.entries.head? = some e ∧ e.seq = s.log.nextSeq.toNat ∧ e.cls = 1 ∧ e.unit = 5 ∧ e.code = f.1 ∧ e.detail = f.2 ∧
      e.core = k ∧ e.bundle = x.bundle ∧ e.ctx = x.ctx ∧ e.tag = b.tag ∧
      ∃ y, (ctxAt t x.ctx).batch = some y ∧ y.failing = true ∧
        y.logged = some (match b.logged with | some m => min m e.seq | none => e.seq))

/-- R70 to R72, R83, R87, R97, R107: a row of an open pass is read and enters the pipeline: 128 exact column sums of row
input times scaled level, shifted left by 8 in a pass of the high activation part, due for commit at the end of cycle c + 9;
the row count rises by 1. The sums are fixed by the tile active now. R53, R54, R85, R86, R97, R213: at its commit a row's
sums are written into its entry, or added to it, in the lanes its M and N masks pass; a sum outside 48 bits is stored as the
nearer limit and sets its bank's sticky overflow flag; no other entry changes; the bank's turnaround is the cycle after,
when no further row of the bank is in flight. A stopped core commits too. -/
def Obligations.RowsEnterAndCommit : Prop :=
  (∀ (s : State) (k : Nat) (flips : Flips) (r : RunState) (t : Tile) (d : Core), k < s.cores.length →
    let c := flipCore flips (coreAt s k)
    let bm := t.width == 3
    let hi := passActHi bm r.split r.pass
    let a := rowAddress r bm r.idx
    let next := if r.row + 1 < r.m then some [pageOf (rowAddress r bm (walkNext r.desc r.idx))] else none
    let acc : Acc := ⟨⟨0, r.word.cycle, r.word.bundle, r.pass, r.acc⟩, [(pageOf a, bankOf a)],
      if r.pass + 1 = r.npass then markPages r.release [pageOf a] next else [], 0⟩
    c.mx.run = some r → r.opened = true → Due c (2 * (r.opens + 1 + r.row)) d → d.mx.run = some r → d.mx.active = some t →
    Permitted d false false [acc] →
    ∃ x f, exec (.rowIssue k flips) s = .next (becomes s k (After d x)) ∧ x = { accessed d false [acc] with mx := x.mx } ∧
      x.mx.flight = d.mx.flight ++ [f] ∧ f.commit = d.ctl.cycle + 9 ∧ f.entry = r.acc + r.row ∧
      f.writes = (r.clear && r.pass == 0) ∧ f.mBit = mBitOf r.desc r.mLimit r.idx ∧
      f.nFirst = r.nFirst ∧ f.nCount = r.nCount ∧
      (∀ n, n < 128 → f.sums.getD n 0 = ((List.range 128).map fun i =>
        (if r.kFirst ≤ i ∧ i < r.kFirst + r.kCount then
          (if r.split = true ∧ hi = false then (((vecBytes d a 128).getD i 0).toNat : Int)
            else ((vecBytes d a 128).getD i 0).toInt)
          else 0) * tileLevel t i n).sum * if hi then 256 else 1) ∧
      x.mx.rowCount = d.mx.rowCount + 1 ∧ x.mx.acc = d.mx.acc ∧ x.mx.active = d.mx.active ∧
      (r.row + 1 < r.m → x.mx.run = some { r with row := r.row + 1, idx := walkNext r.desc r.idx }) ∧
      (r.row + 1 = r.m → r.pass + 1 < r.npass → ∃ y, x.mx.run = some y ∧ y.pass = r.pass + 1 ∧ y.opened = false ∧
        y.row = 0 ∧ y.opens = r.opens + if t.width = 3 then max r.m 64 else r.m) ∧
      (r.row + 1 = r.m → r.npass ≤ r.pass + 1 → x.mx.run = none)) ∧
  (∀ (s : State) (k : Nat) (f : FlightRow) (rest : List FlightRow) (d : Core) (fin : Core → Core), k < s.cores.length →
    let c := coreAt s k
    c.mx.flight.head? = some f → Lands c (2 * f.commit + 1) d fin → d.mx.flight = f :: rest → f.entry < 2048 →
    let exact := fun (n : Nat) =>
      if f.writes then f.sums.getD n 0 else (accLanes d.mx f.entry).getD n 0 + f.sums.getD n 0
    let passed := fun (n : Nat) => f.mBit = true ∧ f.nFirst ≤ n ∧ n < f.nFirst + f.nCount
    let out := fun (n : Nat) => passed n ∧ ¬ (-2 ^ 47 ≤ exact n ∧ exact n ≤ 2 ^ 47 - 1)
    ∃ x, exec (.rowCommit k) s = .next (becomes s k (fin x)) ∧ x = { d with mx := x.mx } ∧ x.mx.flight = rest ∧
      (∀ n, n < 128 → (passed n → (accLanes x.mx f.entry).getD n 0 = max (-2 ^ 47) (min (2 ^ 47 - 1) (exact n))) ∧
        (¬ passed n → (accLanes x.mx f.entry).getD n 0 = (accLanes d.mx f.entry).getD n 0)) ∧
      (∀ e, e ≠ f.entry → accLanes x.mx e = accLanes d.mx e) ∧ (∀ e, accTag x.mx e = accTag d.mx e) ∧
      (∀ b, b < 4 → (x.mx.ovf.getLsbD b = true ↔
        d.mx.ovf.getLsbD b = true ∨ b = f.entry / 512 ∧ ∃ n, n < 128 ∧ out n)) ∧
      ((∀ g ∈ rest, g.entry / 512 ≠ f.entry / 512) → turnCycle x.mx (f.entry / 512) = some (f.commit + 1)) ∧
      x.mx.run = d.mx.run ∧ x.mx.rowCount = d.mx.rowCount)

/-- R54, R73, R76, R80, R81, R84, R85: a run word that passes its checks makes the shadow tile active if it has the swap
option, opens pass 0 in its issue cycle, or 64 cycles later for a byte-mode word without swap, sets the tags of the entries
it clears to the tile's e_max, and starts the reload of the plane its next pass needs in byte mode. R55, R94, R99, R619: a
run word that fails a check executes nothing and stops the core: E_CADENCE for a swap with no complete shadow tile or a word
before the last one's last row cycle, in that order; then E_ILLEGAL_TILE for entries past the bank's end or no active tile;
then E_ACC_EXPONENT for a tag that differs from the tile's e_max. R103, R105, R106, R135, R178, R211: an engine's fault
enters its own register when that holds none, and stops the core: entries, tags, tiles and data stay as they are, and what
the pipelines hold completes. -/
def Obligations.RunWordsOpenOrStop : Prop :=
  (∀ (s : State) (k : Nat) (q : QWord) (rest : List QWord) (t : Tile) (d0 d : Core), k < s.cores.length →
    let c := coreAt s k
    let w := q.word
    let acc := fld w 43 33
    let m := if bit w 32 then (q.c.getD (fld w 26 23) 0).toNat else fld w 31 23 + 1
    let desc := (bankOfCtx d).loops.getD (fld w 53 48) []
    let base := q.a.getD (fld w 47 44) 0
    let first := walkAddr desc base walkStart
    let last := walkAddr desc base (walkSteps desc (m - 1) walkStart)
    let hiOff := if bit w 54 then 128 else 0
    let byte := t.width = 3
    (nextRunWord c).map (·.1) = some q → Due c (2 * q.cycle) d0 → nextRunWord d0 = some (q, rest) → MatrixTaken d0 q rest d →
    d0.mx.run = none → d.mx.nextRun ≤ d.ctl.cycle → (bit w 32 = true → m ≤ declaredMax d (fld w 22 17)) →
    (if bit w 56 then d.mx.shadow else d.mx.active) = some t →
    (∀ x ∈ d.vx.drains, x.bank = acc / 512 → x.t + x.m ≤ d.ctl.cycle) → (byte → d.mx.loading = none) →
    m ≠ 0 → acc % 512 + m ≤ 512 →
    (∀ a ∈ [first, addr24 (first + hiOff : Nat), last, addr24 (last + hiOff : Nat)],
      ownsPage d.pagesLow d.pagesHigh (pageOf a) = true) →
    (bit w 55 = false → t.zeroScales = false → ∀ i, i < m → accTag d.mx (acc + i) = t.emax) →
    ∃ x, exec (.run k) s = .next (becomes s k (After d0 x)) ∧ x = { d with mx := x.mx } ∧
      x.mx.active = some t ∧ (bit w 56 = true → x.mx.shadow = none) ∧
      (bit w 56 = false → x.mx.shadow = d.mx.shadow) ∧ x.mx.acc = d.mx.acc ∧ x.mx.flight = d.mx.flight ∧
      (∀ i, i < m → accTag x.mx (acc + i) = if bit w 55 then t.emax else accTag d.mx (acc + i)) ∧
      (∀ e, e < acc ∨ acc + m ≤ e → accTag x.mx e = accTag d.mx e) ∧
      (∃ r, x.mx.run = some r ∧ r.word = q ∧ r.m = m ∧ r.pass = 0 ∧ r.row = 0 ∧ r.acc = acc ∧ r.idx = walkStart ∧
        r.npass = (if byte then 2 else 1) * (if bit w 54 then 2 else 1) ∧ r.clear = bit w 55 ∧ r.split = bit w 54 ∧
        r.desc = desc ∧ r.base = base ∧
        (byte ∧ bit w 56 = false → r.opened = false ∧ r.opens = d.ctl.cycle + 64) ∧
        (¬ (byte ∧ bit w 56 = false) → r.opened = true ∧ r.opens = d.ctl.cycle)) ∧
      (byte → ∃ l, x.mx.loading = some l ∧ l.start = d.ctl.cycle ∧ l.rows = 64 ∧ l.got = 0 ∧ l.reload = true ∧
        l.hiPlane = !bit w 56 ∧ l.addr = if bit w 56 then addr24 (t.addr + 8192 : Nat) else t.addr) ∧
      (¬ byte → x.mx.loading = d.mx.loading)) ∧
  (∀ (s : State) (k : Nat) (q : QWord) (rest : List QWord) (d : Core), k < s.cores.length →
    let c := coreAt s k
    let w := q.word
    let acc := fld w 43 33
    let m := fld w 31 23 + 1
    (nextRunWord c).map (·.1) = some q → Only c (2 * q.cycle) tryRun d → nextRunWord d = some (q, rest) → MatrixInOrder d q →
    bit w 3 = false → bit w 32 = false → (d.mx.run = none ∨ q.cycle < d.mx.nextRun) →
    let stops := fun (code cause entry detail : Nat) =>
      exec (.run k) s = .next (becomes s k (mxStop d code cause 0 entry detail q.bundle))
    (bit w 56 = true → d.mx.shadow = none → stops 0x0103 3 acc 0x10) ∧
    ((bit w 56 = true → d.mx.shadow ≠ none) → d.ctl.cycle < d.mx.nextRun → stops 0x0103 3 acc 0x12) ∧
    (d.mx.nextRun ≤ d.ctl.cycle → d.vx.drains = [] → d.mx.loading = none →
      (∀ t, (if bit w 56 then d.mx.shadow else d.mx.active) = some t → 512 < acc % 512 + m →
        stops 0x0101 1 acc 0x01) ∧
      (bit w 56 = false → d.mx.active = none → acc % 512 + m ≤ 512 → (∀ p, p < 4096 → ownsPage d.pagesLow d.pagesHigh p = true) →
        stops 0x0101 1 acc 0x06) ∧
      (∀ t i, (if bit w 56 then d.mx.shadow else d.mx.active) = some t → acc % 512 + m ≤ 512 →
        (∀ p, p < 4096 → ownsPage d.pagesLow d.pagesHigh p = true) → bit w 55 = false → t.zeroScales = false → i < m →
        accTag d.mx (acc + i) ≠ t.emax → (∀ j, j < i → accTag d.mx (acc + j) = t.emax) →
        stops 0x0102 2 (acc + i) (accTag d.mx (acc + i))))) ∧
  (∀ (c : Core) (code cause pass acc detail bundle later earlier bank page unit : Nat), cause < 16 → pass < 4 → acc < 4096 →
    detail < 2 ^ 8 → bundle < 2 ^ 20 → later < 8 → earlier < 8 → bank < 32 → page < 2 ^ 17 →
    let stopped := fun (d : Core) => d.regs.stopped = true ∧ d.mq = [] ∧ d.vq = [] ∧ d.movq = [] ∧ d.mx.run = none ∧
      d.mx.loading = none ∧ d.mx.acc = c.mx.acc ∧ d.mx.accTags = c.mx.accTags ∧ d.mx.active = c.mx.active ∧
      d.mx.shadow = c.mx.shadow ∧ d.mx.flight = c.mx.flight ∧ d.vx.results = c.vx.results ∧ d.sp.cells = c.sp.cells ∧
      d.sp.tags = c.sp.tags ∧ d.regs.ccFault = c.regs.ccFault
    (let d := mxStop c code cause pass acc detail bundle
     stopped d ∧ d.mx.fault = true ∧ d.vx.vxFault = c.vx.vxFault ∧ d.sp.spFault = c.sp.spFault ∧
      (c.mx.mxFault = 0 → d.mx.mxFault.toNat = cause * 2 ^ 28 + pass * 2 ^ 26 + acc * 2 ^ 14 + detail ∧
        d.mx.mxFaultBundle.toNat = bundle) ∧
      (c.mx.mxFault ≠ 0 → d.mx.mxFault = c.mx.mxFault ∧ d.mx.mxFaultBundle = c.mx.mxFaultBundle)) ∧
    (let d := vxStop c code cause detail bundle
     stopped d ∧ d.vx.fault = true ∧ d.mx.mxFault = c.mx.mxFault ∧ d.sp.spFault = c.sp.spFault ∧
      (c.vx.vxFault = 0 → d.vx.vxFault.toNat = cause * 2 ^ 28 + bundle * 2 ^ 8 + detail) ∧
      (c.vx.vxFault ≠ 0 → d.vx.vxFault = c.vx.vxFault)) ∧
    (let d := spStop c unit code cause later earlier bank page bundle
     stopped d ∧ d.sp.fault = true ∧ d.mx.mxFault = c.mx.mxFault ∧ d.vx.vxFault = c.vx.vxFault ∧
      (c.sp.spFault = 0 → d.sp.spFault.toNat = cause * 2 ^ 28 + later * 2 ^ 25 + earlier * 2 ^ 22 + bank * 2 ^ 17 + page ∧
        d.sp.spFaultBundle.toNat = bundle) ∧
      (c.sp.spFault ≠ 0 → d.sp.spFault = c.sp.spFault)))

/-- R81, R84: in its cycle a later pass opens: in code and wide mode with the same tile; in byte mode the reloaded plane
becomes active, and the reload of the plane the pass after needs starts. R49, R51, R73 to R75, R78, R109: a load word that
passes its checks empties the shadow register, counts the scale underflows of its record, and reads the tile's first row;
when the last row has arrived, the shadow register holds the tile's codes, its scaled levels and its e_max, and the load
count rises by 1. R74, R79, R84, R123 to R125, R155, R165: the rows of a tile after the first, and all rows of a plane
reload, are read one per cycle as scheduled accesses of the cycles they fall in; a row whose page may not be read yet holds
the core in that row's cycle. The bias values of a parameter load are read in the cycle after its word, and a drain reads
one entry per cycle. -/
def Obligations.PassesOpenAndTilesLoad : Prop :=
  (∀ (s : State) (k : Nat) (flips : Flips) (r : RunState) (t : Tile) (d : Core), k < s.cores.length →
    let c := flipCore flips (coreAt s k)
    c.mx.run = some r → r.opened = false → Due c (2 * r.opens) d → d.mx.run = some r → d.mx.active = some t →
    let opened := { r with opened := true, row := 0, idx := walkStart }
    (t.width ≠ 3 → exec (.passOpen k flips) s = .next (becomes s k (After d { d with
      mx := { d.mx with run := some opened } }))) ∧
    (∀ u, t.width = 3 → d.mx.loading = none → d.mx.shadow = some u →
      ∃ x, exec (.passOpen k flips) s = .next (becomes s k (After d x)) ∧ x = { d with mx := { d.mx with
          active := some u
          shadow := none
          run := some opened
          loading := x.mx.loading } } ∧
        (r.pass + 1 < r.npass → ∃ l, x.mx.loading = some l ∧ l.start = d.ctl.cycle ∧ l.rows = 64 ∧ l.got = 0 ∧ l.reload = true ∧
          (r.pass % 2 = 1 → l.hiPlane = true ∧ l.addr = u.addr) ∧
          (r.pass % 2 = 0 → l.hiPlane = false ∧ l.addr = addr24 (u.addr + 8192 : Nat))) ∧
        (r.npass ≤ r.pass + 1 → x.mx.loading = none))) ∧
  (∀ (s : State) (k : Nat) (flips : Flips), k < s.cores.length →
    let c := flipCore flips (coreAt s k)
    (∀ q rest d0 d, (nextLoadWord c).map (·.1) = some q → Due c (2 * q.cycle) d0 → nextLoadWord d0 = some (q, rest) →
      MatrixTaken d0 q rest d → d.mx.loading = none →
      let tile := addr24 ((q.a.getD (fld q.word 56 53) 0).toNat + 128 * fld q.word 52 36 : Nat)
      let record := addr24 ((q.a.getD (fld q.word 35 32) 0).toNat + 8 * fld q.word 31 20 : Nat)
      let r := spRead d.sp record 8
      let n := loadRows (recWidth r)
      let port : SpUser := ⟨1, q.cycle, q.bundle, 0, 0⟩
      let accs : List Acc := [⟨port, [(pageOf record, bankOf record)], [], 0⟩,
        ⟨port, [(pageOf tile, bankOf tile)], markPages (fld q.word 19 18) [pageOf tile]
          (if 1 < n then some [pageOf (tile + 128)] else none), 0⟩]
      tile % 128 = 0 → record % 8 = 0 → (∀ p, p < 4096 → ownsPage d.pagesLow d.pagesHigh p = true) →
      Permitted d false false accs →
      ∃ x l, exec (.load k flips) s = .next (becomes s k (After d0 x)) ∧
        x = { accessed d false accs with
          mx := { d.mx with shadow := none, loading := some l }
          vx := { d.vx with live := { d.vx.live with underflow := BitVec.ofNat 32 (satAdd 32 d.vx.live.underflow.toNat
            (foldUnderflows r (bookOf (bankOfCtx d).books (bookIndex r true)))) } } } ∧
        l.start = q.cycle ∧ l.addr = tile ∧ l.tileAddr = tile ∧ l.record = r ∧ l.reload = false ∧ l.hiPlane = true ∧
        l.rows = n ∧ l.got = 1 ∧ l.codes = spRead d.sp tile 128 ∧ l.release = fld q.word 19 18) ∧
    (∀ l d, c.mx.loading = some l → Due c (2 * (l.start + l.rows - 1) + 1) d → d.mx.loading = some l → l.rows ≤ l.got →
      ∃ x y, exec (.tileLoadComplete k flips) s = .next (becomes s k (After d x)) ∧
        x = { d with
          mx := { d.mx with loading := none, shadow := some y, loadCount := d.mx.loadCount + 1 }
          vx := { d.vx with live := { d.vx.live with underflow := x.vx.live.underflow } } } ∧
        (l.hiPlane = true → x.vx = d.vx) ∧ y.codes = l.codes ∧
        y.levels = foldLevels l.record (bookOf (bankOfCtx d).books (bookIndex l.record l.hiPlane)) ∧
        y.emax = recEmax l.record ∧ y.width = recWidth l.record ∧ y.addr = l.tileAddr ∧ y.record = l.record)) ∧
  ((∀ (d : Core) (l : TileLoad), let a := l.addr + 128 * l.got
    d.mx.loading = some l → l.got < l.rows → l.start + l.got = d.ctl.cycle →
    (Permitted d false false [loadAcc d l] → tryLoadRow d = .go { accessed d false [loadAcc d l] with
      mx := { d.mx with loading := some { l with got := l.got + 1, codes := l.codes ++ spRead d.sp a 128 } } }) ∧
    (ownsPage d.pagesLow d.pagesHigh (pageOf (a % 16777216)) = true → d.ctl.cleared ≠ d.ctl.cycle + 1 →
      (tagOf d.sp (pageOf (a % 16777216))).toNat % 4 ≠ 1 → (tagOf d.sp (pageOf (a % 16777216))).toNat % 4 ≠ 3 →
      tryLoadRow d = .wait [(pageOf (a % 16777216), false)] [] l.bundle)) ∧
  (∀ (d : Core) (l : TileLoad), d.mx.loading = some l → l.start + l.got ≠ d.ctl.cycle → tryLoadRow d = .go d) ∧
  (∀ (d : Core) (b : BiasRead), let acc : Acc := ⟨⟨b.port, b.t - 1, b.bundle, 0, 0⟩, accRows b.addr 4, b.mark, 0⟩
    d.vx.bias = some b →
    (b.t ≠ d.ctl.cycle → tryBias d = .go d) ∧
    (b.t = d.ctl.cycle → Permitted d false false [acc] → ∃ p, p = { b.fill with bias := p.bias } ∧ p.bias.length = 128 ∧
      (∀ n, n < 128 → (p.bias.getD n 0).toNat = rdLe (vecBytes d b.addr 512) (4 * n) 4) ∧
      tryBias d = .go { accessed d false [acc] with vx := { d.vx with
        p0 := if b.bank = 1 then d.vx.p0 else p
        p1 := if b.bank = 1 then p else d.vx.p1
        bias := none } })) ∧
  (∀ (d : Core) (x : DrainState), let i := x.entries.length
    let a := x.bank * 512 + x.base + i
    (x ∈ d.vx.drains → i < x.m → ∃ g ∈ innerWork d (x.t + i), ∀ e, g e = tryEntry x e) ∧
    (x.perEntry = false ∨ i % 128 ≠ 0 → tryEntry x d = .go { d with vx := { d.vx with drains := d.vx.drains.map fun y =>
      if y.t = x.t then { x with entries := x.entries ++ [accLanes d.mx a], tags := x.tags ++ [accTag d.mx a] } else y } })))

/-- R111, R113, R115 to R118, R247: each vector of an FMA, FUNC or REDUCE word pops its inputs in its cycle and its result
is due L cycles later, L = 4, 8 or 7: element by element the operation of its operands, or in every lane the reduction of
the pairwise tree, the two halves of a pair combined first. Read ends walk on one step, popped queues lose their oldest
entry, and release markers wait for the cycle's end (R152, R234). -/
def Obligations.VectorsIssueAndCompute : Prop :=
  ∀ (s : State) (k cls j : Nat) (flips : Flips) (r : VRun) (d : Core), k < s.cores.length → cls ≤ 2 →
    VectorTurn (flipCore flips (coreAt s k)) cls j r d →
    let q := r.word
    let w := q.word
    let ty := fld w 28 26
    let out := fld w 25 23
    let src := fun (x : Nat) =>
      if 1 ≤ x ∧ x ≤ 4 then
        (match endBind d (x - 1) with
          | some b => readConv ty (vecBytes d (bindAddr b) (128 * typeRows ty))
          | none => [])
      else if 8 ≤ x ∧ x ≤ 11 then (d.vx.lb.getD (x - 8) []).getD 0 []
      else if 16 ≤ x then List.replicate 128 (q.s.getD (x - 16) 0) else List.replicate 128 0
    let a := src (fld w 51 47)
    let b := src (fld w 46 42)
    let g := src (fld w 41 37)
    (∀ x ∈ popQueues w, d.vx.lb.getD x [] ≠ []) → unboundUse d w = false → Permitted d false false (readAccs d r) →
    ∃ lb v, exec (if cls = 0 then .fma k j flips else if cls = 1 then .func k j flips else .reduce k j flips) s =
        .next (becomes s k (After d { accessed d false (readAccs d r) with vx := { d.vx with
          lb := lb
          binds := d.vx.binds.map fun y => { y with
            idx := walkSteps y.desc ((readEnds w).filter fun x => (d.vx.ends.getD x none).getD 0 == y.id).length y.idx }
          runs := runsAfter d.vx.runs r
          results := d.vx.results ++ [{
            iss := d.ctl.cycle
            due := d.ctl.cycle + (if cls = 0 then 4 else if cls = 1 then 8 else 7)
            dst0 := fld w 36 33
            dst1 := fld w 32 29
            bind0 := r.bind0
            bind1 := r.bind1
            rows := typeRows out
            value := v
            bytes := writeConv out v
            mask := none
            live := true
            drain := false
            bundle := q.bundle
            wcycle := q.cycle }] } })) ∧
      v.length = (if ty = 5 ∨ out = 5 then 256 else 128) ∧
      (∀ n, n < v.length →
        (cls = 0 → v.getD n 0 = fmaOp (fld w 55 52) out (elem a n) (elem b n) (elem g n)) ∧
        (cls = 1 → v.getD n 0 = fuOp (fld w 55 52) (elem a n)) ∧
        (cls = 2 → v.getD n 0 = treeReduce (redOp (fld w 55 52)) ((List.range 128).map fun i =>
          if ty = 5 ∨ out = 5 then redOp (fld w 55 52) (elem a i) (elem a (i + 128)) else elem a i))) ∧
      (∀ x, lb.getD x [] = if x ∈ popQueues w then (d.vx.lb.getD x []).drop 1 else d.vx.lb.getD x [])

/-- R121, R122: a fill's vector in its cycle becomes the next row of buffer T0 or T1, which is full with row 127 and has
read index 0; a read's column is the column of the read index, due 4 cycles later, and the index rises by one, after 127 to
0. A read is allowed from two cycles after the last row. -/
def Obligations.TransposeUnitFillsAndReads : Prop :=
  (∀ (s : State) (k j : Nat) (flips : Flips) (r : VRun) (d : Core), k < s.cores.length →
    VectorTurn (flipCore flips (coreAt s k)) 3 j r d →
    let w := r.word.word
    let ty := fld w 28 26
    let x := fld w 51 47
    let raw := ty == 3 && decide (1 ≤ x ∧ x ≤ 4)
    (∀ y ∈ popQueues w, d.vx.lb.getD y [] ≠ []) → unboundUse d w = false → Permitted d false false (readAccs d r) →
    ∃ lb row, exec (.tfill k j flips) s = .next (becomes s k (After d { accessed d false (readAccs d r) with
        vx := (let b : Transpose :=
            { rows := (if r.i = 0 then [] else (if bit w 55 then d.vx.t1 else d.vx.t0).rows) ++ [row]
              full := decide (r.i = 127), filling := decide (r.i < 127), fillEnd := d.ctl.cycle, readIdx := 0
              etype := if raw then 3 else 6 }
          { d.vx with
            t0 := if bit w 55 then d.vx.t0 else b
            t1 := if bit w 55 then b else d.vx.t1
            lb := lb
            binds := d.vx.binds.map fun y => { y with
              idx := walkSteps y.desc ((readEnds w).filter fun z => (d.vx.ends.getD z none).getD 0 == y.id).length y.idx }
            runs := runsAfter d.vx.runs r }) })) ∧
      (1 ≤ x ∧ x ≤ 4 → ∀ y, endBind d (x - 1) = some y →
        (ty ≠ 3 → row = (readConv ty (vecBytes d (bindAddr y) (128 * typeRows ty))).take 128) ∧
        (ty = 3 → row = (List.range 128).map fun n =>
          BitVec.ofNat 32 (rdLe (vecBytes d (bindAddr y) 512) (4 * n) 4))) ∧
      (8 ≤ x ∧ x ≤ 11 → row = ((d.vx.lb.getD (x - 8) []).getD 0 []).take 128) ∧
      (16 ≤ x → row = List.replicate 128 (r.word.s.getD (x - 16) 0)) ∧
      (∀ y, lb.getD y [] = if y ∈ popQueues w then (d.vx.lb.getD y []).drop 1 else d.vx.lb.getD y [])) ∧
  (∀ (s : State) (k j : Nat) (r : VRun) (d : Core), k < s.cores.length → VectorTurn (coreAt s k) 4 j r d →
    let w := r.word.word
    let b := if bit w 55 then d.vx.t1 else d.vx.t0
    let v := (List.range 128).map fun i => (b.rows.getD i []).getD b.readIdx 0
    let raw := b.etype == 3
    b.full = true → b.fillEnd + 2 ≤ d.ctl.cycle → unboundUse d w = false →
    let b' := { b with readIdx := (b.readIdx + 1) % 128 }
    exec (.tread k j) s = .next (becomes s k (After d { d with vx := { d.vx with
      t0 := if bit w 55 then d.vx.t0 else b'
      t1 := if bit w 55 then b' else d.vx.t1
      runs := runsAfter d.vx.runs r
      results := d.vx.results ++ [{
        iss := d.ctl.cycle
        due := d.ctl.cycle + 4
        dst0 := (dstCodes w).1
        dst1 := (dstCodes w).2
        bind0 := r.bind0
        bind1 := r.bind1
        rows := typeRows (fld w 25 23)
        value := if raw then v.map fun y => fpOfInt y.toInt else v
        bytes := resBytes (fld w 25 23) raw v
        mask := none
        live := true
        drain := false
        bundle := r.word.bundle
        wcycle := r.word.cycle }] } })))

/-- R123: a parameter load reads 128 channel scales in its cycle through the named read end, which walks two steps, and
copies the scalars of the named S registers into bank P0 or P1; its 128 biases are read in the next cycle, and the bank is
ready two cycles later. The other bank is unchanged. R124, R128, R213, R248: a drain that passes its checks takes its bank,
run length, parameter bank, activation, output and masks, and reads its first entry and its tag, leaving the accumulators as
they are; input activation scales are the bank's, or one FP32 value per entry read 128 at a time through the named end, the
first of them now, whose walk moves past all the reads at once. -/
def Obligations.DrainsAreSetUpAndStart : Prop :=
  (∀ (s : State) (k : Nat) (flips : Flips) (q : QWord) (d : Core) (y : EndBind), k < s.cores.length →
    let w := q.word
    let b := fld w 55 55
    let re := fld w 54 53
    let a0 := bindAddr y
    let a1 := walkAddr y.desc y.base (walkNext y.desc y.idx)
    let acc : Acc := ⟨⟨2 + re, q.cycle, q.bundle, 0, 0⟩, accRows a0 2,
      markPages y.marker (accPages (accRows a0 2)) (some (accPages (accRows a1 4))), 0⟩
    classOf w = 5 → VectorWordTaken (flipCore flips (coreAt s k)) q d → endBind d re = some y →
    (∀ x ∈ d.vx.drains, x.pbank = b → x.t + x.m + 13 + actLatency x.act < d.ctl.cycle) →
    Permitted d false false [acc] →
    ∃ p mark, exec (.pload k flips) s = .next (becomes s k (After d { accessed d false [acc] with vx := { d.vx with
        p0 := if b = 1 then d.vx.p0 else p
        p1 := if b = 1 then p else d.vx.p1
        bias := some ⟨q.cycle + 1, b, a1, mark, 2 + re, p, q.bundle⟩
        binds := d.vx.binds.map fun x =>
          if x.id = y.id then { x with idx := walkNext x.desc (walkNext x.desc x.idx) } else x } })) ∧
      (y.marker = 0 → mark = []) ∧ p.ready = true ∧ p.readyAt = q.cycle + 2 ∧
      p.chan = (List.range 128).map (fun n => BitVec.ofNat 16 (rdLe (vecBytes d a0 256) (2 * n) 2)) ∧
      p.outScale = q.s.getD (fld w 52 49) 0 ∧ p.inScale = q.s.getD (fld w 48 45) 0 ∧
      p.alpha = q.s.getD (fld w 44 41) 0 ∧ p.lo = q.s.getD (fld w 40 37) 0 ∧ p.hi = q.s.getD (fld w 36 33) 0) ∧
  (∀ (s : State) (k : Nat) (flips : Flips) (q : QWord) (d : Core), k < s.cores.length →
    let w := q.word
    let bank := fld w 55 54
    let base := fld w 53 45
    let m := if bit w 44 then (q.c.getD (fld w 38 35) 0).toNat else fld w 43 35 + 1
    let p := if fld w 28 28 = 1 then d.vx.p1 else d.vx.p0
    let dst := fld w 19 16
    let steps := if bit w 27 then (m + 127) / 128 else 0
    let y := (endBind d (fld w 26 25)).getD ⟨0, 0, [], 0, [], 0⟩
    let reads := scaleReads d y steps
    let accs : List Acc := (reads.take 1).map fun a =>
      ⟨⟨2 + fld w 26 25, q.cycle, q.bundle, 0, 0⟩, accRows a.1 4, a.2, 0⟩
    let pd := (bankOfCtx d).loops.getD (fld w 14 9) []
    classOf w = 6 → VectorWordTaken (flipCore flips (coreAt s k)) q d → (bit w 44 = true → m ≤ declaredMax d (fld w 34 29)) →
    m ≠ 0 → base + m ≤ 512 → p.ready = true → p.readyAt ≤ d.ctl.cycle →
    (∀ x ∈ d.vx.drains, x.t < d.ctl.cycle ∧ x.t + x.m ≤ d.ctl.cycle) →
    pendingRows d.mx bank = 0 → turnCycle d.mx bank ≠ some d.ctl.cycle →
    (bit w 27 = true → endBind d (fld w 26 25) ≠ none) →
    (dst = 1 ∨ dst = 2 → d.vx.ends.getD (dst + 3) none ≠ none) → Permitted d false false accs →
    ∃ x, exec (.drain k flips) s = .next (becomes s k (After d { accessed d false accs with vx := { d.vx with
        drains := d.vx.drains ++ [x]
        binds := d.vx.binds.map fun b =>
          if b.id = y.id then { b with idx := walkSteps b.desc steps b.idx } else b } })) ∧
      x.t = d.ctl.cycle ∧ x.m = m ∧ x.i = 0 ∧ x.bank = bank ∧ x.dst = dst ∧ x.out = fld w 21 20 ∧ x.act = fld w 24 22 ∧
      x.pbank = fld w 28 28 ∧ x.base = base ∧ x.inScale = p.inScale ∧ x.perEntry = bit w 27 ∧
      x.entries = [accLanes d.mx (bank * 512 + base)] ∧ x.tags = [accTag d.mx (bank * 512 + base)] ∧
      reads.map (·.1) = (List.range steps).map (fun i => walkAddr y.desc y.base (walkSteps y.desc i y.idx)) ∧
      x.scales = reads.drop 1 ∧
      x.inScales = (if bit w 27 then (List.range 128).map fun n =>
        BitVec.ofNat 32 (rdLe (vecBytes d (bindAddr y) 512) (4 * n) 4) else []) ∧
      (∀ n, n < 128 → maskBit (x.nFirst, x.nCount) n = (!bit w 15 || maskBit (nMaskOf pd) n)) ∧
      (∀ i, i < m → x.mBits.getD i true =
        (!bit w 15 || mBitOf pd (mLimitOf pd q.c) (walkSteps pd i walkStart))))

/-- R115, R118, R121, R152, R153, R211: a result lands at its cycle, also in a stopped core: each loop-back queue it names
gains it as its newest entry, in the cycle before its write when it has one, and each write end it names writes its rows at
the end's step and walks on. In a stopped core a write that its page does not permit is abandoned with its step. -/
def Obligations.VectorResultsLand : Prop :=
  (∀ (s : State) (k : Nat) (flips : Flips) (r : VRes) (d : Core) (fin : Core → Core), k < s.cores.length →
    let c := flipCore flips (coreAt s k)
    firstResult false c.vx.results = some r → Lands c (resKey r) d fin →
    (isWe r.dst0 = false → isWe r.dst1 = false → d.vx.lb.length = 4 →
      (∀ y, 4 ≤ y → y < 8 → (d.vx.lb.getD (y - 4) []).length + [r.dst0, r.dst1].count y ≤ 8) →
      ∃ lb, exec (.vectorResult k flips) s = .next (becomes s k (fin { d with vx := { d.vx with
          lb := lb
          results := d.vx.results.erase r } })) ∧
        ∀ y, 4 ≤ y → y < 8 → lb.getD (y - 4) [] =
          d.vx.lb.getD (y - 4) [] ++ List.replicate ([r.dst0, r.dst1].count y) r.value) ∧
    (isWe r.dst0 = true ∨ isWe r.dst1 = true → d.regs.stopped = c.regs.stopped → Writable d (leftRes r) → r.live = true →
      Permitted d true r.mask.isSome
        (writeAccs { d with vx := { d.vx with results := d.vx.results.erase (leftRes r) } } (leftRes r)) →
      ∃ x, exec (.vectorResult k flips) s = .next (becomes s k (fin x)) ∧ Written d (leftRes r) x) ∧
    (isWe r.dst0 = true ∨ isWe r.dst1 = true → c.regs.stopped = true → r.live = true →
      (∃ a ∈ accPages (rowsOf (writeAccs { d with vx := { d.vx with results := d.vx.results.erase (leftRes r) } } (leftRes r))),
        (tagOf d.sp a).toNat % 4 ≠ 0) →
      exec (.vectorResult k flips) s = .next (becomes s k (endCycle { d with vx := { d.vx with
        results := d.vx.results.erase (leftRes r)
        binds := d.vx.binds.map fun b => { b with
          idx := walkSteps b.desc ((resDsts r).filter fun p => p.2 == b.id).length b.idx } } })))) ∧
  (∀ (c : Core) (r : VRes), splitRes r = true → c.vx.lb.length = 4 →
    (∀ y, 4 ≤ y → y < 8 → (c.vx.lb.getD (y - 4) []).length + [r.dst0, r.dst1].count y ≤ 8) →
    ∃ lb, tryPush r c = .go { c with vx := { c.vx with lb := lb, results := leftRes r :: c.vx.results.erase r } } ∧
      ∀ y, 4 ≤ y → y < 8 → lb.getD (y - 4) [] =
        c.vx.lb.getD (y - 4) [] ++ List.replicate ([r.dst0, r.dst1].count y) r.value) ∧
  (∀ (c : Core) (r : VRes) (y : Nat), 4 ≤ y → y < 8 → y = r.dst0 ∨ y = r.dst1 → 8 ≤ (c.vx.lb.getD (y - 4) []).length →
    tryPush r c = .stop 2 (fun x => vxStop { x with vx := { x.vx with results := x.vx.results.erase r } }
      0x0103 3 0x21 r.bundle))

/-- R57 to R63, R125 to R128, R132: an entry of a drain leaves it in its cycle, also in a stopped core: y = ((acc scaled by
its tag) x channel scale x input activation scale) + bias, the activation function, and the requantiser. Lanes of the N mask
are counted; a masked entry counts nothing; a loop-back queue gains one vector either way, +0.0 in the masked lanes; an
entry for a write end is written in the next cycle, in the lanes that are counted. R249: a BIND word makes its end walk the
named loop descriptor from its first address at the base register's value, with the marker mode it names; every other end
keeps its binding. R132, R136, R137: a write of VX_STAT_CTRL.close copies the live counts to the snapshot, zeroes them and
raises VX_STAT_SEQ by one, and changes nothing else. -/
def Obligations.DrainEntriesLeaveAndEndsBind : Prop :=
  (let counted := fun (d : Core) (x : DrainState) (o : Nat → Bytes × W32 × Bool × Bool) (e : Vx) =>
    let p := if x.pbank = 1 then d.vx.p1 else d.vx.p0
    let shows := fun n => x.mBits.getD x.i true && maskBit (x.nFirst, x.nCount) n
    let scale := if x.perEntry then x.inScales.getD x.i 0 else x.inScale
    (∀ n, o n = requant x.out p.outScale (actFn x.act p (fpAdd (fpMul (fpMul (fpMul
      (fpOfInt ((x.entries.getD x.i []).getD n 0)) (fpPow2 ((x.tags.getD x.i 0 : Int) - 27))) (bfWiden (p.chan.getD n 0))) scale)
      (p.bias.getD n 0)))) ∧
    e = { d.vx with
      live := countOutputs d.vx.live x.out (((List.range 128).filter shows).map o)
      drains := d.vx.drains.flatMap fun z => if z.t = x.t then (if x.i + 1 < z.m then [{ z with i := x.i + 1 }] else []) else [z] }
  (∀ (s : State) (k : Nat) (flips : Flips) (x : DrainState) (d : Core) (fin : Core → Core), k < s.cores.length →
    let c := flipCore flips (coreAt s k)
    firstResult true c.vx.results = none → firstDrain c.vx.drains = some x → 4 ≤ x.dst → x.dst < 8 →
    Lands c (drainOutKey x) d fin → (d.vx.lb.getD (x.dst - 4) []).length < 8 →
    ∃ o e, counted d x o e ∧ exec (.drainEntryOutput k flips) s = .next (becomes s k (fin { d with vx := { e with
      lb := modAt d.vx.lb (x.dst - 4) (· ++ [(List.range 128).map fun n =>
        if x.mBits.getD x.i true && maskBit (x.nFirst, x.nCount) n then (o n).2.1 else 0]) } }))) ∧
  (∀ (d : Core) (x : DrainState), x.dst = 1 ∨ x.dst = 2 → ∃ o e, counted d x o e ∧
    tryEntryOut x d = .go { d with vx := { e with results := d.vx.results ++ [{
      iss := x.t + x.i
      due := x.t + x.i + 15 + actLatency x.act
      dst0 := x.dst
      dst1 := 0
      bind0 := x.bind
      bind1 := 0
      rows := if x.out = 2 then 2 else if x.out = 3 then 4 else 1
      value := []
      bytes := (List.range 128).flatMap fun n => (o n).1
      mask := if x.nFirst = 0 ∧ x.nCount = 128 then none else
        some (x.nFirst, x.nCount, if x.out = 2 then 2 else if x.out = 3 then 4 else 1)
      live := x.mBits.getD x.i true
      drain := true
      bundle := x.word.bundle
      wcycle := x.word.cycle }] } }) ∧
  (∀ (s : State) (k key : Nat) (flips : Flips) (r : VRes) (d : Core) (fin : Core → Core), k < s.cores.length →
    let c := flipCore flips (coreAt s k)
    (firstResult true c.vx.results = some r ∧ key = resKey r ∧ (∀ x, firstDrain c.vx.drains = some x → key ≤ drainOutKey x) ∨
      firstResult true c.vx.results = none ∧ ∃ x, firstDrain c.vx.drains = some x ∧ isWe x.dst = true ∧ key = drainOutKey x) →
    Lands c key d fin → firstResult true d.vx.results = some r → isWe r.dst0 = true → isWe r.dst1 = false → isLb r.dst1 = false →
    d.regs.stopped = c.regs.stopped → Writable d r →
    (r.live = true → Permitted d true r.mask.isSome
      (writeAccs { d with vx := { d.vx with results := d.vx.results.erase r } } r)) →
    ∃ x, exec (.drainEntryOutput k flips) s = .next (becomes s k (fin x)) ∧ Written d r x)) ∧
  ((∀ (s : State) (k : Nat) (q : QWord) (d : Core), k < s.cores.length →
    let w := q.word
    classOf w = 7 → fld w 55 53 < 6 → VectorWordTaken (coreAt s k) q d → d.vx.ends.length = 6 →
    exec (.bind k) s = .next (becomes s k (After d { d with vx := { d.vx with
      ends := d.vx.ends.set (fld w 55 53) (some d.vx.nextBind)
      binds := d.vx.binds ++ [⟨d.vx.nextBind, fld w 55 53, (bankOfCtx d).loops.getD (fld w 52 47) [],
        q.a.getD (fld w 46 43) 0, [0, 0, 0, 0, 0, 0], fld w 42 41⟩]
      nextBind := d.vx.nextBind + 1 } }))) ∧
  (∀ (s : State) (k : Nat), k < s.cores.length →
    let c := reach (coreAt s k) (2 * (coreAt s k).ctl.cycle + 1)
    exec (.vxStatClose k) s = .next (becomes s k { c with vx := { c.vx with
      snap := c.vx.live
      live := ⟨0, 0, 0, 0⟩
      seq := c.vx.seq + 1
      closing := false } })))

/-- R148: a bank serves, of the sources move engine, mesh inbound, maintenance and scrubber in turn after the one served
last, the next that has a ready access there, and of the move engine and the mesh inbound the oldest ready request. R143,
R147, R153, R154, R159, R165 to R167: in a cycle left to it, a permitted access takes place, with its marker, and is
answered; a corrected row is queued for write-back; a POISON page or an uncorrectable error is answered with an error
response and logged for the requester's context. R143, R145, R154, R155, R160, R165, R167: scheduled accesses of a cycle in
which no error is found take place together. A page outside the context's stops the core with E_ADDRESS; a POISON page stops
it; pages that do not permit the access hold it; a bank used twice stops it with E_BANK_CONFLICT; and each access that
corrects an error adds three held cycles. R12, R144, R148, R154, R160, R166, R167: an access by an agent that is no core
waits while a page does not permit it or no bank cycle is left to it; it receives an error response, entered for its
context, for a page the context does not own or a POISON page; else it reads or writes its bytes in one bank cycle of each
row. R15, R148, R160: the oldest packet of a source on its way to a core joins the core's requests, stamped with the
counter, and leaves the mesh; one for a page its context does not own is answered with an error response and logged, and
enters no queue. Nothing else changes. R153, R180, R181: a firmware write of SP_TAG_DATA writes the indexed page's tag, a
read answers it, and each moves SP_TAG_INDEX on by one, after 4095 to 0; a write by any other path is ignored. -/
def Obligations.ScratchpadRequestsAreServed : Prop :=
  ((∀ (sp : Sp) (b n src : Nat) (job : BankJob), n < 4 → src = (look sp.turns b 3 + 1 + n) % 4 → src ≠ 3 →
    jobOf sp b src = some job →
    (∀ m, m < n → (look sp.turns b 3 + 1 + m) % 4 = 3 ∨ jobOf sp b ((look sp.turns b 3 + 1 + m) % 4) = none) →
    pickJob sp b = some (src, job)) ∧
  (∀ (sp : Sp) (b i : Nat) (r : Req), sp.reqs[i]? = some r → r.source ≠ 2 → reqBank r = b → reqReady sp r = true →
    (∀ j x, j < i → sp.reqs[j]? = some x → x.source = r.source → reqBank x = b → reqReady sp x = false) →
    jobOf sp b r.source = some (.request i)) ∧
  ∀ (s s1 : State) (k b i src : Nat) (r : Req) (flips : Flips), k < s.cores.length →
    let s0 := setCore s k (flipCore flips (coreAt s k))
    let c := coreAt s1 k
    freeState s0 k [b] = some s1 → k < s1.cores.length → pickJob (coreAt s0 k).sp b = some (src, .request i) →
    pickJob c.sp b = some (src, .request i) → c.sp.reqs[i]? = some r → c.reports = [] →
    memWf (spWDflt c.sp) c.sp.cells = true → memWf zeroDflt c.sp.tags = true → r.addr + r.len ≤ 16777216 →
    r.addr % 128 + r.len ≤ 128 → (r.write = true → r.tagOp = false → r.data.length = r.len) →
    let page := pageOf r.addr
    let checked := r.tagOp = false ∧ (r.write = true → r.len < 128)
    let found := rowCheckOf c.sp page (bankOf r.addr)
    let data := spRead c.sp r.addr r.len
    let failed := fun (t1 : State) => ∃ e : LogEntry, t1.log.entries = (e :: s1.log.entries).take 256 ∧ e.cls = 1 ∧ e.unit = 3 ∧
      e.code = (if tagClassW (tagOf c.sp page) then 0x0105 else 0x0106) ∧ e.core = k ∧ e.address = page ∧ e.ctx = r.ctx ∧
      (coreAt t1 k).sp.reqs = c.sp.reqs.eraseIdx i ∧ (coreAt t1 k).sp.cells = c.sp.cells ∧
      exec (.unscheduledAccess k b flips) s = .next (replyXfer t1 r.core r.id r.write r.len none)
    (tagPermits r.write (tagOf c.sp page) = true → ¬ checked ∨ found = (0, false) ∨ found = (1, false) →
      ∃ t1, exec (.unscheduledAccess k b flips) s = .next (replyXfer t1 r.core r.id r.write r.len
          (some (if r.write then [] else data))) ∧
        (let e := coreAt t1 k
         e.sp.reqs = c.sp.reqs.eraseIdx i ∧ look e.sp.turns (reqBank r) 3 = r.source ∧
          (∀ a, a < 16777216 → spRead e.sp a 1 =
            if r.write = true ∧ r.tagOp = false ∧ r.addr ≤ a ∧ a < r.addr + r.len then [r.data.getD (a - r.addr) 0]
            else spRead c.sp a 1) ∧
          (∀ p, tagOf e.sp p = if markServed s1 r data = true ∧ p = page then
            (if r.write then commitTag (tagOf c.sp p) else releaseTag (tagOf c.sp p)) else tagOf c.sp p) ∧
          (checked → found = (1, false) → r.write = false → ∃ w ∈ e.sp.corr, w.page = page ∧ w.bank = bankOf r.addr) ∧
          e.ctl = c.ctl ∧ e.mx = c.mx ∧ e.vx = c.vx ∧ e.hold = c.hold ∧ e.regs = c.regs) ∧
        t1.host.ctxs = s1.host.ctxs ∧ ∀ j, j ≠ k → coreAt t1 j = coreAt s1 j) ∧
    (tagPermits r.write (tagOf c.sp page) = true → checked → found = (2, false) →
      ∃ t1, failed t1 ∧ tagState (tagOf (coreAt t1 k).sp page) = 3 ∧
        ∀ p, p ≠ page → tagOf (coreAt t1 k).sp p = tagOf c.sp p) ∧
    (tagState (tagOf c.sp page) = 3 → ∃ t1, failed t1 ∧ (coreAt t1 k).sp.tags = c.sp.tags)) ∧
  (∀ (d : Core) (write merge : Bool) (p : SpUser) (page bank : Nat) (mark : List Nat) (first : Nat) (f : Core → Core),
    let a : Acc := ⟨p, [(page, bank)], mark, first⟩
    let tag := (tagOf d.sp page).toNat % 4
    let try' := schedAccess d write merge [a] f
    let fine := ownsPage d.pagesLow d.pagesHigh page = true ∧ tag = (if write then 0 else 1)
    let checked := write = false ∨ merge = true
    (∀ accs, Permitted d write merge accs → schedAccess d write merge accs f = .go (f (accessed d write accs))) ∧
    (ownsPage d.pagesLow d.pagesHigh page = false →
      try' = .stop 3 (fun x => spStop x 3 0x0107 7 p.code 0 bank page p.bundle)) ∧
    (ownsPage d.pagesLow d.pagesHigh page = true → tag = 3 → ∃ u, try' = .stop u (fun x => poisonStop x p page bank first)) ∧
    (ownsPage d.pagesLow d.pagesHigh page = true → tag ≠ 3 → tag ≠ (if write then 0 else 1) →
      d.ctl.cleared ≠ d.ctl.cycle + 1 → try' = .wait [(page, write)] [] p.bundle) ∧
    (∀ q, fine → d.sp.busy.find? (fun b => b.bank == bank) = some q →
      ∃ u, try' = .stop u (fun x => conflictStop x bank q.port p)) ∧
    (fine → (∀ b ∈ d.sp.busy, b.bank ≠ bank) → checked → rowCheckOf d.sp page bank = (1, false) →
      ∃ y r, try' = .go (f y) ∧ y.hold = { d.hold with eccLeft := d.hold.eccLeft + 3 } ∧ y.reports = d.reports ++ [r] ∧
        r.cls = 0 ∧ r.code = 0x0210 ∧ r.inst = bank ∧ r.address = page ∧
        y.sp.eccCorrected = BitVec.ofNat 64 (countClass 32 d.sp.eccCorrected.toNat (tagClassW (tagOf d.sp page))) ∧
        (write = false → (⟨page, bank, d.ctl.cycle⟩ : WriteBack) ∈ y.sp.corr) ∧ y.sp.cells = d.sp.cells ∧ y.ctl = d.ctl) ∧
    (fine → (∀ b ∈ d.sp.busy, b.bank ≠ bank) → checked → rowCheckOf d.sp page bank = (2, false) →
      ∃ u, try' = .stop u (fun x => poisonStop (noteChecks x [(page, bank)] p.bundle false) p page bank first))) ∧
  (∀ (s : State) (k i a n : Nat) (write : Bool) (data : Bytes), k < s.cores.length → a + n ≤ 16777216 →
    let sp := (coreAt s k).sp
    let rows := accRows (a - a % 128) ((a % 128 + n + 127) / 128)
    let refused := fun (code page : Nat) => ∃ t e, outsideAccess s k i a n write data = some (t, none) ∧ t.cores = s.cores ∧
      t.log.entries.head? = some e ∧ e.cls = 1 ∧ e.code = code ∧ e.core = k ∧ e.address = page ∧ e.ctx = i
    ((∃ r ∈ rows, ctxOwns s i k r.1 = false) → ∃ p, refused 0x0107 p) ∧
    (∀ r ∈ rows, (∀ x ∈ rows, ctxOwns s i k x.1 = true) → tagState (tagOf sp r.1) = 3 → ∃ p, refused 0x0105 p ∨ refused 0x0106 p) ∧
    ((∀ x ∈ rows, ctxOwns s i k x.1 = true ∧ tagState (tagOf sp x.1) ≠ 3) →
      (∃ x ∈ rows, tagPermits write (tagOf sp x.1) = false) ∨ atFree 64 (coreAt s k) (rows.map (·.2)) = none →
      outsideAccess s k i a n write data = none) ∧
    (∀ c, (∀ x ∈ rows, ctxOwns s i k x.1 = true ∧ tagPermits write (tagOf sp x.1) = true) →
      atFree 64 (coreAt s k) (rows.map (·.2)) = some c → c.reports = [] →
      (∀ x ∈ rows, rowCheckOf c.sp x.1 x.2 = (0, false)) →
      (write = false → outsideAccess s k i a n write data =
        some (setCore s k (useBanks c (rows.map (·.2))), some (spRead c.sp a n))) ∧
      (write = true → data.length = n → memWf (spWDflt c.sp) c.sp.cells = true →
        ∃ e, outsideAccess s k i a n write data = some (setCore s k e, some []) ∧ e.ctl = c.ctl ∧ e.sp.tags = c.sp.tags ∧
          ∀ x, x < 16777216 → spRead e.sp x 1 = if a ≤ x ∧ x < a + n then [data.getD (x - a) 0] else spRead c.sp x 1))) ∧
  (∀ (s : State) (k place : Nat) (p : MeshPkt), k < s.cores.length → s.mesh[place]? = some p → p.dst = k →
    (∀ q ∈ s.mesh.take place, q.dst = k → q.src ≠ p.src) →
    let i := ((s.mesh.take place).filter fun q => q.dst == k).length
    let page := pageOf p.req.addr
    let c := coreAt s k
    (ctxOwns s p.req.ctx k page = true →
      exec (.meshInboundAccess k i) s = .next (setCore { s with mesh := s.mesh.eraseIdx place } k { c with sp := { c.sp with
        reqs := c.sp.reqs ++ [{ p.req with since := c.ctl.cycle, ready := none }] } })) ∧
    (ctxOwns s p.req.ctx k page = false →
      ∃ t1 e, exec (.meshInboundAccess k i) s = .next (replyXfer t1 p.req.core p.req.id p.req.write p.req.len none) ∧
        t1.mesh = s.mesh.eraseIdx place ∧ t1.cores = s.cores ∧ t1.log.entries = (e :: s.log.entries).take 256 ∧
        e.cls = 1 ∧ e.unit = 3 ∧ e.code = 0x0107 ∧ e.core = k ∧ e.address = page ∧ e.ctx = p.req.ctx)) ∧
  (∀ (s : State) (k : Nat), k < s.cores.length → memWf zeroDflt (coreAt s k).sp.tags = true →
    let c := coreAt s k
    (∀ path v, path ≠ .firmware → exec (.spTagDataWrite k path v) s = .next s) ∧
    (∀ v : W32, ∃ e, exec (.spTagDataWrite k .firmware v) s = .next (setCore s k e) ∧
      (∀ p, tagOf e.sp p = if p = c.sp.tagIndex.toNat then v.setWidth 8 &&& 0x3F else tagOf c.sp p) ∧
      e.sp.tagIndex.toNat = (c.sp.tagIndex.toNat + 1) % 4096 ∧
      e = { c with sp := { c.sp with
        tags := e.sp.tags
        tagIndex := e.sp.tagIndex } }) ∧
    (∃ t, exec (.spTagDataRead k) s = .next t ∧ t.readOut.toNat = (tagOf c.sp c.sp.tagIndex.toNat).toNat ∧
      (coreAt t k).sp.tagIndex.toNat = (c.sp.tagIndex.toNat + 1) % 4096 ∧
      t = { setCore s k { c with sp := { c.sp with tagIndex := (coreAt t k).sp.tagIndex } } with readOut := t.readOut }))

/-- R149, R165, R169, R173, R203: the maintenance source. A write-back at its turn rewrites the bank's oldest corrected row,
changing no byte and no tag. The starvation breaker counts one held cycle in SP_BREAKER_COUNT, and a starved bank serves its
oldest ready access; it does nothing while another cause holds or no bank starves. A scrub step checks its row in each of
the 32 banks once, of a FULL class W page alone, and moves on; an error is written back, or makes the page POISON without
failing a batch. A page is zeroed bank by bank; when all are, it reads 0 and its tag becomes 0x00. -/
def Obligations.MaintenanceKeepsTheScratchpad : Prop :=
  (∀ (s s1 : State) (k b : Nat) (w : WriteBack), k < s1.cores.length → freeState s k [b] = some s1 → b < 32 →
    pickJob (coreAt s k).sp b = some (2, .writeBack w) → pickJob (coreAt s1 k).sp b = some (2, .writeBack w) →
    let c := coreAt s1 k
    ∃ e, exec (.correctionWriteBack k b) s = .next (setCore s1 k e) ∧ e.sp.corr = c.sp.corr.erase w ∧
      look e.sp.turns b 3 = 2 ∧ look e.sp.used b 0 = look c.sp.used b 0 + 1 ∧
      (tagState (tagOf c.sp w.page) = 3 → e.sp.flips = c.sp.flips) ∧
      (tagState (tagOf c.sp w.page) ≠ 3 → ∀ p ∈ e.sp.flips, p.1 ≠ 32 * w.page + w.bank) ∧
      e = { c with sp := { c.sp with
        corr := e.sp.corr
        turns := e.sp.turns
        used := e.sp.used
        flips := e.sp.flips
        coded := e.sp.coded } }) ∧
  (∀ (s : State) (k : Nat), k < s.cores.length →
    let c := coreAt s k
    (holdCause c ≠ 0 ∨ c.started = false ∨ c.regs.stopped = true ∨ starvedBanks c = [] → exec (.starvationBreaker k) s = .next s) ∧
    (holdCause c = 0 → c.started = true → c.regs.stopped = false → starvedBanks c ≠ [] →
      ∃ t, exec (.starvationBreaker k) s = .next t ∧
        (coreAt t k).sp.breakerCount.toNat = min (c.sp.breakerCount.toNat + 1) (2 ^ 32 - 1) ∧
        (coreAt t k).sp.used = c.sp.used ∧ (coreAt t k).ctl.cycle = c.ctl.cycle) ∧
    (∀ b t0 job, starvedBanks c = [b] → holdCause c = 0 → c.started = true → c.regs.stopped = false →
      oldestJob c.sp b = some (t0, job) →
      exec (.starvationBreaker k) s = .next (modCore (serveJob (setCore s k { breakerHold c with sp := { c.sp with
          breakerCount := BitVec.ofNat 32 (min (c.sp.breakerCount.toNat + 1) (2 ^ 32 - 1))
          waits := put c.sp.waits b c.ctl.cycle } }) k b job) k fun x => { x with sp := { x.sp with used := c.sp.used } }))) ∧
  (∀ (s : State) (k b : Nat) (flips : Flips), k < s.cores.length → coreClock s = true → (coreAt s k).sp.scrubOn = true →
    let c := flipCore flips (coreAt s k)
    let s0 := setCore s k c
    let page := c.sp.scrubRow.toNat
    let seen := tagClassW (tagOf c.sp page) = true ∧ tagState (tagOf c.sp page) = 1
    let moved := fun (x : Core) => { x with sp := { x.sp with
      scrubRow := c.sp.scrubRow + 1
      scrubPasses := if page = 4095 then x.sp.scrubPasses + 1 else x.sp.scrubPasses
      scrubDone := [] } }
    (¬ seen → exec (.scrubStep k b flips) s = .next (setCore s k (moved c))) ∧
    (seen → 32 ≤ b ∨ b ∈ c.sp.scrubDone ∨ scrubTurn c.sp b = false → exec (.scrubStep k b flips) s = .next s0) ∧
    (∀ s1, seen → b < 32 → b ∉ c.sp.scrubDone → scrubTurn c.sp b = true → freeState s0 k [b] = some s1 → k < s1.cores.length →
      (coreAt s1 k).sp.scrubRow = c.sp.scrubRow → (coreAt s1 k).sp.scrubDone = c.sp.scrubDone → (coreAt s1 k).reports = [] →
      tagOf (coreAt s1 k).sp page = tagOf c.sp page →
      let d := coreAt s1 k
      let last := ∀ x, x < 32 → x = b ∨ x ∈ c.sp.scrubDone
      let goesOn := fun (y : Core) =>
        (last → y.sp.scrubRow = c.sp.scrubRow + 1 ∧ y.sp.scrubPasses = (moved d).sp.scrubPasses ∧ y.sp.scrubDone = []) ∧
        (¬ last → y.sp.scrubRow = c.sp.scrubRow ∧ y.sp.scrubPasses = d.sp.scrubPasses ∧ y.sp.scrubDone = b :: c.sp.scrubDone)
      (rowCheckOf d.sp page b = (0, false) → ∃ e, exec (.scrubStep k b flips) s = .next (setCore s1 k e) ∧
        look e.sp.turns b 3 = 3 ∧ goesOn e ∧ e = { d with sp := { d.sp with
          turns := e.sp.turns
          used := e.sp.used
          scrubRow := e.sp.scrubRow
          scrubPasses := e.sp.scrubPasses
          scrubDone := e.sp.scrubDone } }) ∧
      (rowCheckOf d.sp page b = (1, false) → ∃ t, exec (.scrubStep k b flips) s = .next t ∧
        (∃ w ∈ (coreAt t k).sp.corr, w.page = page ∧ w.bank = b) ∧ goesOn (coreAt t k) ∧
        (coreAt t k).sp.cells = d.sp.cells ∧ (coreAt t k).sp.tags = d.sp.tags ∧ t.host.ctxs = s1.host.ctxs) ∧
      (rowCheckOf d.sp page b = (2, false) → memWf zeroDflt d.sp.tags = true →
        ∃ t, exec (.scrubStep k b flips) s = .next t ∧ tagState (tagOf (coreAt t k).sp page) = 3 ∧
          (∀ p, p ≠ page → tagOf (coreAt t k).sp p = tagOf d.sp p) ∧ goesOn (coreAt t k) ∧
          (coreAt t k).sp.cells = d.sp.cells ∧ (coreAt t k).regs = d.regs ∧ t.host.ctxs = s1.host.ctxs))) ∧
  (∀ (s : State) (k page : Nat), k < s.cores.length →
    let c0 := coreAt s k
    ((∀ j ∈ c0.sp.zeroing, j.page ≠ page) → exec (.pageZero k page) s = .next s) ∧
    (∀ j s1, let banks := (List.range 32).filter fun b => pickJob c0.sp b == some (2, .zero j)
      c0.sp.zeroing.find? (fun x => x.page == page) = some j → page < 4096 → banks ≠ [] → freeState s k banks = some s1 →
      k < s1.cores.length → memWf (spWDflt (coreAt s1 k).sp) (coreAt s1 k).sp.cells = true →
      memWf zeroDflt (coreAt s1 k).sp.tags = true →
      let c := coreAt s1 k
      let all := ∀ b, b < 32 → b ∈ j.banks ∨ b ∈ banks
      ∃ e, exec (.pageZero k page) s = .next (setCore s1 k e) ∧ e.ctl = c.ctl ∧ e.mx = c.mx ∧ e.vx = c.vx ∧ e.regs = c.regs ∧
        (∀ b ∈ banks, look e.sp.turns b 3 = 2) ∧
        (tagState (tagOf c.sp page) = 3 → e.sp.cells = c.sp.cells ∧ e.sp.tags = c.sp.tags ∧ e.sp.zeroing = c.sp.zeroing.erase j) ∧
        (tagState (tagOf c.sp page) ≠ 3 → all → (∀ p, tagOf e.sp p = if p = page then 0 else tagOf c.sp p) ∧
          (∀ a, a < 16777216 → spRead e.sp a 1 = if a / 4096 = page then [0] else spRead c.sp a 1) ∧
          ∀ x, x ∈ e.sp.zeroing ↔ x ∈ c.sp.zeroing ∧ x.page ≠ page) ∧
        (tagState (tagOf c.sp page) ≠ 3 → ¬ all → (∀ p, tagOf e.sp p = tagOf c.sp p) ∧
          (∀ a, a < 16777216 → spRead e.sp a 1 = if a / 4096 = page ∧ bankOf a ∈ banks then [0] else spRead c.sp a 1) ∧
          e.sp.zeroing = c.sp.zeroing.map fun x => if x.page = page then { x with banks := j.banks ++ banks } else x)))

/-- R295, R299 to R301, R304, R305, R586: opening an OBSERVE session sets the debugged flag, which closing keeps. In a
session HI_DBG_CTRL selects the context and keep, and end 1 ends its halted batch: E_BISECT_STOP of class 0 names the halted
lanes, and the batch fails as STOPPED; with keep 0 so does every batch whose lanes have all ended or halted. HI_DBG_SEL
starts a fetch, which shows a stopped core of the selected context, or is refused with 0xFF bytes and error; a scratchpad
page is read as a mesh inbound access, and waits while the page's tag makes it wait. Without a session the first is ignored,
the second refused. -/
def Obligations.BisectionReadsStoppedCores : Prop :=
  ∀ (s : State),
    exec .dbgOpenOpen s = .next { s with sc := { s.sc with
      observe := true
      debugged := true } } ∧
    exec .dbgOpenClose s = .next { s with sc := { s.sc with observe := false } } ∧
    (∀ v : W32, s.sc.observe = false → exec (.dbgEnd v) s = .next s) ∧
    (∀ v : W32, v.toNat.testBit 31 = true → s.sc.observe = true →
      let i := v.toNat % 16
      ∃ t, exec (.dbgEnd v) s = .next t ∧ t.host.dbgCtx.toNat = i ∧ t.host.dbgKeep = v.toNat.testBit 30 ∧
        t.cores = s.cores ∧ t.hbm = s.hbm ∧
        (∀ j b, v.toNat.testBit 30 = false → j < 16 → j < s.host.ctxs.length → (ctxAt s j).batch = some b →
          (∀ p ∈ (ctxAt s j).placed, p.1 ∈ b.lanesEnded ∨ p.1 ∈ b.lanesHalted) → b.lanesHalted ≠ [] → b.failing = false →
          (∃ b', (ctxAt t j).batch = some b' ∧ b'.failing = true ∧ b'.stopEnd = true) ∧
            ∃ e ∈ t.log.entries, e.unit = 0x0C ∧ e.code = 0x0506 ∧ e.ctx = j) ∧
        (∀ b, i < s.host.ctxs.length → (ctxAt s i).batch = some b → b.lanesHalted ≠ [] → b.failing = false →
          (∀ j b1, j ≠ i → (ctxAt s j).batch = some b1 → b1.lanesHalted = []) →
          ∃ b' e, (ctxAt t i).batch = some b' ∧ b'.failing = true ∧ b'.stopEnd = true ∧
            t.log.entries = (e :: s.log.entries).take 256 ∧ e.cls = 0 ∧ e.unit = 0x0C ∧ e.code = 0x0506 ∧ e.ctx = i ∧
            e.detail = (b.lanesHalted.map fun l => 2 ^ l).sum)) ∧
    (∀ v : W32, ∃ t, exec (.dbgSel v) s = .next t ∧ t.host.dbgSel = v &&& 0xFE000FFF ∧
      (s.sc.observe = true → t.host.dbgReady = false ∧ t.host.dbgError = false) ∧
      (s.sc.observe = false → t.host.dbgReady = true ∧ t.host.dbgError = true ∧ t.host.dbgBuf = List.replicate 4096 0xFF) ∧
      t = { s with host := { s.host with
        dbgSel := t.host.dbgSel
        dbgReady := t.host.dbgReady
        dbgError := t.host.dbgError
        dbgFetch := t.host.dbgFetch
        dbgBuf := t.host.dbgBuf } }) ∧
    (s.host.dbgFetch = true →
      let v := s.host.dbgSel.toNat
      let x := ctxAt s s.host.dbgCtx.toNat
      let k := coreOf x (nfld v 31 27)
      let bytes := fun k => windowBytes (coreAt s k) (nfld v 26 25) (nfld v 11 0)
      let showing := fun (t : State) (e : Bool) (bs : Bytes) => exec .dbgFetchDone s = .next { t with host := { t.host with
        dbgReady := true
        dbgError := if e then true else t.host.dbgError
        dbgFetch := false
        dbgBuf := bs } }
      let none' := List.replicate 4096 (0xFF : BitVec 8)
      (x.batch = none ∨ k = none ∨ (∃ k', k = some k' ∧ (coreAt s k').regs.stopped = false) → showing s true none') ∧
      (∀ k', x.batch ≠ none → k = some k' → (coreAt s k').regs.stopped = true →
        (∀ bs, nfld v 26 25 ≠ 0 → bytes k' = some bs → showing s false bs) ∧
        (nfld v 26 25 ≠ 0 → bytes k' = none → showing s true none') ∧
        (nfld v 26 25 = 0 →
          let page := nfld v 11 0
          let read := outsideAccess s k' s.host.dbgCtx.toNat (4096 * page) 4096 false []
          (tagState (tagOf (coreAt s k').sp page) = 3 → showing s true none') ∧
          (tagState (tagOf (coreAt s k').sp page) ≠ 3 →
            (read = none → exec .dbgFetchDone s = .next s) ∧
            (∀ t bs, read = some (t, some bs) → showing t false bs) ∧
            (∀ t, read = some (t, none) → showing t true none')))))

/-- R464 to R467, R499: a doorbell or completion-head write takes its index modulo the ring's size. ENTRY_BEGIN begins the
first pending entry of an ACTIVE ring once the entries before it have completed, or at once if it carries the overlap flag;
a refused one ends with E_BAD_COMMAND and the offset of its first bad byte. COMPLETION_WRITE writes the oldest entry's
completion, once it has finished and the completion ring has room, and changes no other byte of HBM. R469, R484: with irq_en
1 a ring that is neither IDLE nor ORPHANED signals its vector for its unsignalled completions: at MSIX_SIGNAL without
coalescing, at COALESCE_EXPIRE with it; otherwise nothing changes. A NOP entry completes OK with value 0. -/
def Obligations.RingsRunAndSignal : Prop :=
  (∀ (s : State) (q : Nat), q < s.host.rings.length →
    let r := ringAt s q
    let lg := if r.state = .idle then max 4 (min 12 r.sizeLog2.toNat) else r.sizeInUse
    (∀ v : W32, exec (.sqDoorbell q v) s = .next (setRing s q { r with
      tail := BitVec.ofNat 12 (v.toNat % 4096 % 2 ^ lg) })) ∧
    (∀ v : W32, exec (.cqHeadWrite q v) s = .next (setRing s q { r with
      cqHead := BitVec.ofNat 12 (v.toNat % 4096 % 2 ^ lg) })) ∧
    (let a := r.sqBase.toNat + 64 * r.nextIdx
     let b := hbmRead s a 64
     let may := r.state = .active ∧ r.resetWait = false ∧ r.nextIdx ≠ r.tail.toNat ∧ s.host.fwReady = true ∧
       s.host.dispatch = true ∧ s.host.flrDrain = false ∧
       ((∀ e ∈ r.entries, ∃ st v, e.stage = .done st v) ∨ rdLe b 1 1 % 2 = 1)
     (¬ may → exec (.entryBegin q) s = .next s) ∧
     (may → ∃ g, exec (.entryBegin q) s = .next (setRing s q { r with
        entries := r.entries ++ [⟨r.nextIdx, b, g⟩]
        nextIdx := (r.nextIdx + 1) % 2 ^ r.sizeInUse }) ∧
      (hbmBad s a 64 = false → badByte b = none → g = .begun) ∧
      (∀ o, hbmBad s a 64 = false → badByte b = some o → g = .done 0x0040 o))) ∧
    (∀ e rest st v, r.entries = e :: rest → e.stage = .done st v → r.resetWait = false →
      ((r.cqTail.toNat + 1) % 2 ^ r.sizeInUse = r.cqHead.toNat → exec (.completionWrite q) s = .next s) ∧
      ((r.cqTail.toNat + 1) % 2 ^ r.sizeInUse ≠ r.cqHead.toNat → memWf zeroDflt s.hbm.cells = true →
        let a := r.cqBase.toNat + 16 * r.cqTail.toNat
        let head := (e.index + 1) % 2 ^ r.sizeInUse
        let wraps := r.cqTail.toNat + 1 = 2 ^ r.sizeInUse
        ∃ t, exec (.completionWrite q) s = .next t ∧
          hbmRead t a 16 = toLe 4 (rdLe e.bytes 4 4) ++ toLe 2 st ++ toLe 2 head ++ toLe 4 v ++ toLe 2 0 ++
            [0, if r.phase then 1 else 0] ∧
          (∀ x n, x + n ≤ a ∨ a + 16 ≤ x → hbmRead t x n = hbmRead s x n) ∧
          (let u := ringAt t q
           u.entries = rest ∧ u.sqHead = BitVec.ofNat 12 head ∧ u.cqTail = (if wraps then 0 else r.cqTail + 1) ∧
            u.phase = (if wraps then !r.phase else r.phase) ∧ u.unsignalled = r.unsignalled + 1 ∧ u.state = r.state ∧
            u.tail = r.tail ∧ u.cqHead = r.cqHead ∧ u.nextIdx = r.nextIdx) ∧
          (∀ p, p ≠ q → ringAt t p = ringAt s p) ∧ t.cores = s.cores ∧ t.host.flags = s.host.flags ∧
          t.host.ctxs = s.host.ctxs ∧ (s.host.attached = true → t.host.msix = s.host.msix)))) ∧
  ((∀ (s : State) (q : Nat) (i : Instr), q < s.host.rings.length →
    let r := ringAt s q
    i = .msixSignal q ∧ r.coalesceUs = 0 ∨ i = .coalesceExpire q ∧ r.coalesceUs ≠ 0 →
    (r.irqEn = true → 0 < r.unsignalled → r.state ≠ .orphaned → r.state ≠ .idle →
      ∃ t, exec i s = .next t ∧ t.host.msix = s.host.msix ++ [⟨0, r.vector.toNat⟩] ∧
        t = { setRing s q { r with unsignalled := 0 } with host := { (setRing s q { r with unsignalled := 0 }).host with
          msix := t.host.msix } }) ∧
    (r.irqEn = false ∨ r.unsignalled = 0 ∨ r.state = .orphaned ∨ r.state = .idle → exec i s = .next s)) ∧
  (∀ s q pre e post, Taken s q 0x00 pre e post →
    exec (.nopEntry q) s = .next (setRing s q (staged (ringAt s q) pre e post (.done 0 0)))))

/-- R463, R479, R485, R501: Q_ENABLE sets the ring's control fields, and makes an IDLE ring whose bases lie outside the
firmware reserve ACTIVE with head and tail 0; RESUME makes a STOPPED ring ACTIVE; REATTACH makes an ORPHANED ring ACTIVE
(BLOCKED where a wait still runs, the model's choice) with its entries kept and signals unread completions; RESET discards
the pending entries and makes the ring IDLE, at once or when its begun entries have ended. A ring in another state is left
as it is. -/
def Obligations.RingsObeyTheirControl : Prop :=
  ∀ (s : State) (q : Nat), q < s.host.rings.length →
    let r := ringAt s q
    (∀ v : W32, nfld v.toNat 30 28 = 0 → v.toNat.testBit 31 = true →
      let n := 2 ^ max 4 (min 12 (nfld v.toNat 27 24))
      let r1 := { r with
        enable := true
        sizeLog2 := BitVec.ofNat 4 (nfld v.toNat 27 24)
        coalesceUs := BitVec.ofNat 8 (nfld v.toNat 23 16)
        irqEn := v.toNat.testBit 7
        vector := BitVec.ofNat 7 (nfld v.toNat 6 0) }
      let fits := r.sqBase.toNat + 64 * n ≤ 0xBF0000000 ∧ r.cqBase.toNat + 16 * n ≤ 0xBF0000000
      (r.state = .idle → fits → exec (.qEnable q v) s = .next (setRing s q { r1 with
        state := .active
        sizeInUse := max 4 (min 12 (nfld v.toNat 27 24))
        tail := 0
        cqHead := 0
        sqHead := 0
        cqTail := 0
        phase := true
        nextIdx := 0
        entries := []
        unsignalled := 0
        resetWait := false })) ∧
      (r.state ≠ .idle ∨ ¬ fits → exec (.qEnable q v) s = .next (setRing s q r1))) ∧
    exec (.resume q) s = .next (setRing s q
      (if r.state = .stopped ∧ r.resetWait = false then { r with state := .active } else r)) ∧
    (r.state = .orphaned → s.host.attached = true → ∃ t, exec (.reattach q) s = .next t ∧
      (let u := ringAt t q
       u.entries = r.entries ∧ u.tail = r.tail ∧ u.nextIdx = r.nextIdx ∧ u.cqTail = r.cqTail ∧ u.cqHead = r.cqHead ∧
        (waitOf r = none → u.state = .active) ∧ (waitOf r ≠ none → u.state = .blocked)) ∧
      t.host.msix = s.host.msix ++ (if r.cqTail ≠ r.cqHead ∧ r.irqEn = true then [⟨0, r.vector.toNat⟩] else []) ∧
      (∀ p, p ≠ q → ringAt t p = ringAt s p) ∧ t.cores = s.cores ∧ t.hbm = s.hbm) ∧
    (r.state ≠ .orphaned ∨ s.host.attached = false → exec (.reattach q) s = .next s) ∧
    (r.state = .idle → exec (.ringReset q) s = .next s) ∧
    (∃ t, exec (.ringReset q) s = .next t ∧ (∀ p, p ≠ q → ringAt t p = ringAt s p) ∧ t.cores = s.cores ∧ t.hbm = s.hbm ∧
      (let u := ringAt t q
       (r.state ≠ .idle → (∀ e ∈ r.entries, ∃ st v, e.stage = .done st v) → u.state = .idle ∧ u.entries = [] ∧ u.tail = 0 ∧
          u.nextIdx = 0 ∧ u.sqBase = r.sqBase ∧ u.cqBase = r.cqBase) ∧
        (r.state ≠ .idle → (∃ e ∈ r.entries, ∀ st v, e.stage ≠ .done st v) → u.resetWait = true ∧ u.state ≠ .active ∧
          u.entries = r.entries ∧ u.tail = BitVec.ofNat 12 r.nextIdx)))

/-- R475, R476, R478, R479: SET_FLAG writes its value, or adds it modulo 2^32, and completes with the new value. WAIT_FLAG
completes with the flag's value when that is at least its own, unsigned; until then its ring is BLOCKED, and it completes
when the flag has risen, the ring ACTIVE again. A wait that lasts too long ends with E_WAIT_TIMEOUT and its ring STOPPED,
which is logged. R477: the scan takes the largest set of BLOCKED rings each of which waits on a flag that some entry behind
a wait of the set can raise, that no entry behind another wait, no batch, no entry being processed and no pending entry of
an ACTIVE ring can raise. It completes their waits with E_WAIT_CYCLE, makes those rings STOPPED, and leaves every flag and
every other ring as it was; with no such set it does nothing. -/
def Obligations.FlagsRiseAndWaitsEnd : Prop :=
  ((∀ s q pre e post, Taken s q 0x06 pre e post →
    let f := rdLe e.bytes 8 1
    let v := (if rdLe e.bytes 9 1 = 1 then (s.host.flags.getD f 0).toNat + rdLe e.bytes 0x0C 4 else rdLe e.bytes 0x0C 4) % 2 ^ 32
    f < s.host.flags.length →
    ∃ t, exec (.setFlag q) s = .next t ∧ t.host.flags = s.host.flags.set f (BitVec.ofNat 32 v) ∧
      ringAt t q = staged (ringAt s q) pre e post (.done 0 v) ∧ (∀ p, p ≠ q → ringAt t p = ringAt s p) ∧
      t = { s with host := { s.host with
        flags := t.host.flags
        rings := t.host.rings } }) ∧
  (∀ s q pre e post, Taken s q 0x07 pre e post →
    let v := (s.host.flags.getD (rdLe e.bytes 8 1) 0).toNat
    let r := ringAt s q
    (rdLe e.bytes 0x0C 4 ≤ v → exec (.waitFlag q) s = .next (setRing s q (staged r pre e post (.done 0 v)))) ∧
    (v < rdLe e.bytes 0x0C 4 → exec (.waitFlag q) s = .next (setRing s q { staged r pre e post .running with
      state := if r.state = .active then .blocked else r.state }))) ∧
  (∀ s q pre e post, Waiting s q pre e post →
    let v := (s.host.flags.getD (rdLe e.bytes 8 1) 0).toNat
    let r := ringAt s q
    let need := rdLe e.bytes 0x0C 4
    (need ≤ v → exec (.waitFlagSatisfied q) s = .next (setRing s q { staged r pre e post (.done 0 v) with
        state := if r.state = .blocked then .active else r.state }) ∧
      exec (.waitTimeout q) s = .next s) ∧
    (v < need → exec (.waitFlagSatisfied q) s = .next s ∧
      ∃ t x, exec (.waitTimeout q) s = .next t ∧
        ringAt t q = { staged r pre e post (.done 0x0031 v) with
          state := if r.state = .blocked then .stopped else r.state } ∧
        (∀ p, p ≠ q → ringAt t p = ringAt s p) ∧ t.host.flags = s.host.flags ∧ t.cores = s.cores ∧
        t.log.entries = (x :: s.log.entries).take 256 ∧ x.cls = 1 ∧ x.unit = 0x0C ∧ x.code = 0x0502 ∧ x.ring = q ∧
        x.tag = rdLe e.bytes 4 4 ∧ t.host.msix = s.host.msix ++ [⟨0, s.host.eventVector.toNat⟩]))) ∧
  (∀ (s : State),
    let blocked := blockedWaits s
    let closed := fun (set : List (Nat × RingEntry)) => (∀ p ∈ set, p ∈ blocked) ∧
      ∀ p ∈ set, inCycle s blocked (set.map (·.1)) p.2 = true
    ∃ cyc, closed cyc ∧ (∀ set, closed set → ∀ p ∈ set, p ∈ cyc) ∧
      (cyc = [] → exec .waitCycleScan s = .next s) ∧
      (cyc ≠ [] → ∃ t x, exec .waitCycleScan s = .next t ∧
        (∀ q e, (q, e) ∈ cyc → (ringAt t q).state = .stopped ∧
          (ringAt t q).entries = (ringAt s q).entries.map fun y =>
            if y.index = e.index then { y with stage := .done 0x0030 (s.host.flags.getD (rdLe e.bytes 8 1) 0).toNat } else y) ∧
        (∀ q, (∀ e, (q, e) ∉ cyc) → ringAt t q = ringAt s q) ∧ t.host.flags = s.host.flags ∧ t.cores = s.cores ∧
        t.log.entries = (x :: s.log.entries).take 256 ∧ x.cls = 1 ∧ x.unit = 0x0C ∧ x.code = 0x0501 ∧
        t.host.msix = s.host.msix ++ [⟨0, s.host.eventVector.toNat⟩]))

/-- R484, R490, R495, R496: ATTACH sets attach, the event vector and the timeout; HEARTBEAT writes HI_HEARTBEAT. A lost
driver is detached, and every ring that is not IDLE becomes ORPHANED with its entries kept; clearing Bus Master Enable is
such a loss, except during a handover, which suspends the timer and leaves the change for its end. R299, R331, R486, R487,
R490: an FLR of PF0 makes every ring as reset, the flags 0 and the registers of its domain their reset values; batches
already begun deliver nothing, and HI_STATUS.flr_drain is 1 until they have ended; placements, programs, resident sets,
cores, network and PF1 stay; keep is 0, so a batch whose lanes have all ended or halted fails. One during a handover waits
for its end. An FLR of PF1 resets the service mailbox and abandons an update not yet activated. R461: a BAR2 access reaches
HBM at HI_BAR2_BASE + its offset; one that would reach the firmware reserve or beyond HBM is an Unsupported Request and
touches nothing. -/
def Obligations.DriversAndFunctionsAreReset : Prop :=
  (∀ (s : State),
    (∀ v : W32, exec (.attach v) s = .next { s with host := { s.host with
      attached := true
      busMaster := true
      eventVector := BitVec.ofNat 7 (v.toNat / 2 ^ 16 % 2 ^ 7)
      timeoutMs := BitVec.ofNat 16 (v.toNat % 2 ^ 16) } }) ∧
    (∀ v, exec (.heartbeat v) s = .next { s with host := { s.host with heartbeat := v } }) ∧
    (∀ i, i = .driverLost ∨ i = .busMasterDisable → s.host.upd.handover = false → s.host.attached = true →
      ∃ t, exec i s = .next t ∧ t.host.attached = false ∧
        (∀ q, q < s.host.rings.length → ringAt t q =
          if (ringAt s q).state = .idle then ringAt s q else { ringAt s q with state := .orphaned }) ∧
        (∃ e ∈ t.log.entries, e.cls = 0 ∧ e.unit = 0x0C ∧ e.code = 0x0504) ∧
        t.host.busMaster = (if i = .driverLost then s.host.busMaster else false) ∧ t.host.flags = s.host.flags ∧
        t.host.ctxs = s.host.ctxs ∧ t.cores = s.cores ∧ t.net = s.net ∧ t.hbm = s.hbm ∧
        ((∃ q, q < s.host.rings.length ∧ (ringAt s q).entries ≠ []) → t.host.msix = s.host.msix)) ∧
    (s.host.upd.handover = true → exec .driverLost s = .next s ∧
      exec .busMasterDisable s = .next { s with host := { s.host with
        busMaster := false
        upd := { s.host.upd with bmeWait := true } } })) ∧
  (∀ (s : State),
    (s.host.upd.handover = true → exec .flrPf0 s = .next { s with host := { s.host with
      upd := { s.host.upd with flrWait := true } } }) ∧
    (s.host.upd.handover = false → ∃ t, exec .flrPf0 s = .next t ∧
      t.host.rings = List.replicate s.host.rings.length Ring.reset ∧
      t.host.flags = List.replicate s.host.flags.length 0 ∧ t.host.attached = false ∧ t.host.busMaster = false ∧
      t.host.heartbeat = 0 ∧ t.host.timeoutMs = 1000 ∧ t.host.eventVector = 0 ∧ t.host.bar2Base = 0 ∧
      t.host.dbgKeep = false ∧ t.host.dbgCtx = 0 ∧ t.host.dbgStops = List.replicate 32 0 ∧ t.host.dbgReady = false ∧
      t.host.ctxs.length = s.host.ctxs.length ∧
      (∀ i, i < s.host.ctxs.length →
        let x := ctxAt s i
        let y := ctxAt t i
        y.placed = x.placed ∧ y.image = x.image ∧ y.newImage = none ∧ y.ptr = x.ptr ∧ y.configured = x.configured ∧
          (x.slotA.state = .loading → x.slotA.loadRing ≠ none → y.slotA.state = .free) ∧
          (x.slotA.state ≠ .loading → y.slotA = x.slotA) ∧
          (x.slotB.state = .loading → x.slotB.loadRing ≠ none → y.slotB.state = .free) ∧
          (x.slotB.state ≠ .loading → y.slotB = x.slotB) ∧
          (∀ b, x.batch = some b → ∃ b', y.batch = some b' ∧ b'.deliver = (b.ring.isNone && b.deliver) ∧
            b'.slot = b.slot ∧ b'.lanesEnded = b.lanesEnded ∧
            (i < 16 → b.lanesHalted ≠ [] → b.failing = false →
              (∀ p ∈ x.placed, p.1 ∈ b.lanesEnded ∨ p.1 ∈ b.lanesHalted) → b'.failing = true ∧ b'.stopEnd = true))) ∧
      (t.host.flrDrain = true ↔ ∃ x ∈ s.host.ctxs, x.queue ≠ [] ∨ ∃ b, x.batch = some b ∧ b.ring ≠ none) ∧
      t.host.mail = s.host.mail ∧ t.host.upd = s.host.upd ∧ t.cores = s.cores ∧ t.net = s.net ∧ t.hbm = s.hbm ∧
      t.calico = s.calico) ∧
    exec .flrDrainEnd s = .next (if s.host.flrDrain = true ∧ ∀ x ∈ s.host.ctxs, ∀ b ∈ x.batch.toList ++ x.queue,
        b.deliver = true then { s with host := { s.host with flrDrain := false } } else s) ∧
    exec .flrPf1 s = .next { s with host := { s.host with
      mail := ⟨0, 0, false, 0, 0, s.host.mail.buf, none⟩
      upd := if s.host.upd.handover then s.host.upd else { s.host.upd with
        written := []
        verified := false } } }) ∧
  (∀ (s : State) (off len : Nat) (data : Bytes),
    let a := s.host.bar2Base.toNat + off
    let said := fun (x : Bar2Answer) => { s with host := { s.host with bar2Out := s.host.bar2Out ++ [x] } }
    (0xBF0000000 < a + len → exec (.bar2Access false off len data) s = .next (said .unsupported)) ∧
    (0xBF0000000 < a + data.length → exec (.bar2Access true off len data) s = .next (said .unsupported)) ∧
    (a + len ≤ 0xBF0000000 → hbmBad s a len = false →
      exec (.bar2Access false off len data) s = .next (said (.data (hbmRead s a len)))) ∧
    (a + data.length ≤ 0xBF0000000 → hbmDown s a data.length = false → memWf zeroDflt s.hbm.cells = true →
      ∃ t, exec (.bar2Access true off len data) s = .next t ∧ t.host = (said .done).host ∧
        hbmRead t a data.length = data ∧ (∀ x n, x + n ≤ a ∨ a + data.length ≤ x → hbmRead t x n = hbmRead s x n) ∧
        t.cores = s.cores ∧ t.flash = s.flash))

/-- R284 to R287, R293, R294: LOAD_PROGRAM copies the image into the context's share, verifies the copy and writes the
report, with the items it could not follow (of a rejected image a number from outside: assumption 37). For every image, it
goes on to a next state: one that HBM cannot return completes with an error; a rejected image completes with E_VERIFY and
its subcode and changes nothing in any context; an accepted one stays in the copy and its entry runs on, to a batch
boundary. There, with no earlier RUN_BATCH of the ring open, PROGRAM_INSTALL goes on to a next state that has it as the
context's program and the entry completed. -/
def Obligations.ProgramsLoadAtABoundary : Prop :=
  (∀ (s : State) (q : Nat) (pre : List RingEntry) (e : RingEntry) (post : List RingEntry) (copy told : Nat) (ecc : Ecc),
    Taken s q 0x01 pre e post → memWf zeroDflt s.hbm.cells = true →
    let c := rdLe e.bytes 2 1
    let x := ctxAt s c
    let src := rdLe e.bytes 8 8
    let report := rdLe e.bytes 0x10 8
    let n := max (rdLe (hbmRead s src 256) 0x18 8) 256
    let img := hbmRead s src n
    let found := verify img x.pages
    let said := verifyReport found (unprovenOf img found told)
    let i := Instr.loadProgram q ecc told
    let bad := ∃ u us, ecc = .uncorrectable u us
    c < s.host.ctxs.length → x.calico = none → x.configured = true → x.newImage = none → hbmBad s src 256 = false →
    n ≤ (x.hbmBytes + 4095) / 4096 * 4096 → src + n ≤ 0xBF0000000 → hbmBad s src n = false → allocCtx s c n = some copy →
    (bad → ∃ t, exec i s = .next t ∧ ringAt t q = staged (ringAt s q) pre e post (.done 0x40 8) ∧ t.host.ctxs = s.host.ctxs ∧
      t.hbm.cells = s.hbm.cells ∧ t.cores = s.cores ∧ ∀ p, p ≠ q → ringAt t p = ringAt s p) ∧
    (∀ f, ¬ bad → found = some f → ∃ t, exec i s = .next t ∧
      ringAt t q = staged (ringAt s q) pre e post (.done 0x10 f.subcode) ∧ hbmRead t report said.length = said ∧
      t.host.ctxs = s.host.ctxs ∧ t.cores = s.cores ∧ ∀ p, p ≠ q → ringAt t p = ringAt s p) ∧
    (¬ bad → found = none → (presentLanes img).length ≤ x.lanes →
      ∀ w, ((∃ old, x.image = some old ∧ imgWorkBytes img ≤ imgWorkBytes old ∧ w = x.workBase) ∨
        x.image = none ∧ allocCtx (setCtx s c { x with newImage := some (img, copy, 0xC00000000) }) c (imgWorkBytes img) =
          some w) →
      ∃ t, exec i s = .next t ∧ hbmRead t report said.length = said ∧
        ringAt t q = staged (ringAt s q) pre e post .running ∧
        t.host.ctxs = s.host.ctxs.set c { x with newImage := some (img, copy, w) } ∧ t.cores = s.cores)) ∧
  (∀ (s : State) (c q idx copy work : Nat) (img : Bytes), c < s.host.ctxs.length →
    let x := ctxAt s c
    x.newImage = some (img, copy, work) → runningEntry s 0x01 c (fun _ => true) = some (q, idx) → x.batch = none →
    earlierOpen s q idx (fun b => rdLe b 0 1 == 0x10 && rdLe b 2 1 == c) = false →
    ∃ t, exec (.programInstall c) s = .next t ∧ (ringAt t q).entries = finished (ringAt s q).entries idx 0 0 ∧
      (∀ p, p ≠ q → ringAt t p = ringAt s p) ∧
      (let y := ctxAt t c
       y.image = some img ∧ y.newImage = none ∧ y.copyBase = copy ∧ y.workBase = work ∧ y.ptr = x.ptr ∧
        y.queue = x.queue ∧ y.placed = (if keepsCores s c img then x.placed else []) ∧
        (x.slotA.state ≠ .resident → y.slotA.state = x.slotA.state) ∧ (x.slotA.state = .resident → y.slotA.state = .ready) ∧
        (x.slotB.state ≠ .resident → y.slotB.state = x.slotB.state) ∧ (x.slotB.state = .resident → y.slotB.state = .ready)))

/-- R310 to R313: LOAD_WEIGHTS of a FREE slot with a good descriptor that fits makes the slot LOADING with the descriptor
and its staging; of another slot it completes with E_SLOT_BUSY and changes nothing. A load that fetches every tensor ends
READY and completes OK; one that fails leaves the slot FREE with its status and value; one still waiting waits. R322, R324,
R328: SWITCH_WEIGHTS moves the pointer to a READY, RESIDENT or EVICTED slot; the slot it leaves becomes RETIRING while
references remain, else FREE. EVICT makes the set the pointer names EVICTED once no reference remains, frees a READY set it
does not name and an UNUSABLE one, nothing of a READY set while a reference to it remains, and completes with E_SLOT_BUSY
while the slot is fetched. Both complete OK, or with the state's code where the target is not ready. -/
def Obligations.WeightSetsLoadAndSwitch : Prop :=
  ((∀ (s : State) (q : Nat) (pre : List RingEntry) (e : RingEntry) (post : List RingEntry), Taken s q 0x02 pre e post →
    let c := rdLe e.bytes 2 1
    let x := ctxAt s c
    let i := rdLe e.bytes 8 1
    let sl := slotOfCtx x i
    let a := rdLe e.bytes 0x10 8
    let d := hbmRead s a (64 + 64 * rdLe (hbmRead s a 64) 6 2)
    c < s.host.ctxs.length → i < 2 → x.calico = none → x.configured = true →
    (sl.state ≠ .free → exec (.loadWeights q) s = .next (setRing s q (staged (ringAt s q) pre e post (.done 0x20 0)))) ∧
    (sl.state = .free → hbmBad s a 64 = false → badHeader (hbmRead s a 64) = false → a + d.length ≤ 0xBF0000000 →
      hbmBad s a d.length = false → badSet d = none → ∀ b, (stageBytes d = 0 ∧ b = 0 ∨
        stageBytes d ≠ 0 ∧ allocCtx s c (stageBytes d) = some b) →
      exec (.loadWeights q) s = .next (setCtx (setRing s q (staged (ringAt s q) pre e post .running)) c
        (withSlot x i { Slot.reset with
          state := .loading
          desc := d
          staged := layOut d b
          refs := sl.refs
          loadRing := some q })))) ∧
  (∀ (s : State) (c i : Nat) (src : SourceResult) (rdma : List Bytes), c < s.host.ctxs.length → i < 2 →
    let sl := slotOfCtx (ctxAt s c) i
    let r := fetchSet c i false src rdma (fetchList sl) s
    let f := runningEntry s 0x02 c fun b => rdLe b 8 1 == i
    let ends := fun (t : State) (st v : Nat) =>
      (∀ q idx, f = some (q, idx) → (ringAt t q).entries = finished (ringAt s q).entries idx st v) ∧ t.cores = s.cores
    (sl.state ≠ .loading → exec (.weightLoadComplete c i src rdma) s = .next s) ∧
    (sl.state = .loading → ∀ s1 u, r = (s1, .ok, u) → ∃ t, exec (.weightLoadComplete c i src rdma) s = .next t ∧
      (slotOfCtx (ctxAt t c) i).state = .ready ∧ (slotOfCtx (ctxAt t c) i).desc = sl.desc ∧
      (slotOfCtx (ctxAt t c) i).staged = sl.staged ∧ t.hbm = s1.hbm ∧ ends t 0 0) ∧
    (sl.state = .loading → ∀ s1 st v u, r = (s1, .fail st v, u) → ∃ t,
      exec (.weightLoadComplete c i src rdma) s = .next t ∧ (slotOfCtx (ctxAt t c) i).state = .free ∧
      (slotOfCtx (ctxAt t c) i).staged = [] ∧ ends t st v) ∧
    (sl.state = .loading → ∀ s1 u, r = (s1, .wait, u) → exec (.weightLoadComplete c i src rdma) s = .next s))) ∧
  ((∀ (s : State) (q : Nat) (pre : List RingEntry) (e : RingEntry) (post : List RingEntry), Taken s q 0x03 pre e post →
    let c := rdLe e.bytes 2 1
    let x := ctxAt s c
    let i := rdLe e.bytes 8 1
    let st := (slotOfCtx x i).state
    let may := st = .ready ∨ st = .resident ∨ st = .evicted
    let done := fun (v w : Nat) => staged (ringAt s q) pre e post (.done v w)
    c < s.host.ctxs.length → i < 2 → x.ptr < 2 → x.calico = none → x.configured = true → loadBefore s q c i e = false →
    (¬ may → exec (.switchWeights q) s = .next (setRing s q (done 0x21 (slotCode st)))) ∧
    (may → x.ptr = i → exec (.switchWeights q) s = .next (setRing s q (done 0 0))) ∧
    (may → x.ptr ≠ i → ∃ t, exec (.switchWeights q) s = .next t ∧ ringAt t q = done 0 0 ∧ (ctxAt t c).ptr = i ∧
      slotOfCtx (ctxAt t c) i = slotOfCtx x i ∧
      (let old := slotOfCtx x x.ptr
       let new := slotOfCtx (ctxAt t c) x.ptr
       let leaves := old.state = .ready ∨ old.state = .resident ∨ old.state = .evicted
       (leaves → 0 < old.refs → new = { old with state := .retiring }) ∧ (leaves → old.refs = 0 → new = Slot.reset) ∧
        (¬ leaves → new = old)))) ∧
  (∀ (s : State) (q : Nat) (pre : List RingEntry) (e : RingEntry) (post : List RingEntry), Taken s q 0x04 pre e post →
    let c := rdLe e.bytes 2 1
    let x := ctxAt s c
    let i := rdLe e.bytes 8 1
    let sl := slotOfCtx x i
    let done := fun (v : Nat) => staged (ringAt s q) pre e post (.done v 0)
    let named := x.ptr = i
    c < s.host.ctxs.length → i < 2 → x.calico = none → x.configured = true →
    (sl.state = .loading ∨ sl.state = .refetching → exec (.evict q) s = .next (setRing s q (done 0x20))) ∧
    (sl.state = .evicted ∨ sl.state = .free ∨ sl.state = .retiring → exec (.evict q) s = .next (setRing s q (done 0))) ∧
    (sl.state = .ready ∨ sl.state = .resident → sl.refs ≠ 0 → exec (.evict q) s = .next s) ∧
    ((sl.state = .ready ∧ named ∨ sl.state = .resident) → sl.refs = 0 → ∃ t, exec (.evict q) s = .next t ∧
      ringAt t q = done 0 ∧ slotOfCtx (ctxAt t c) i = { sl with
        state := .evicted
        staged := []
        relayNext := (0, 0)
        relayed := []
        fwdFailed := false
        inPages := false }) ∧
    (sl.state = .ready ∧ ¬ named ∧ sl.refs = 0 ∨ sl.state = .unusable → ∃ t, exec (.evict q) s = .next t ∧ ringAt t q = done 0 ∧
      (slotOfCtx (ctxAt t c) i).state = .free ∧ (slotOfCtx (ctxAt t c) i).staged = [] ∧
      (slotOfCtx (ctxAt t c) i).desc = [])))

/-- R321, R323 to R326, R329, R330: before a batch runs, a READY set is made RESIDENT once the other slot has no reference:
its pages end FULL, class W and pinned; a reference that finds no tensor refuses the batch with E_WEIGHT_MISMATCH, and
staged copies that return an error are fetched again first, for a reload that holds a reference to the slot. A RETIRING slot
without references becomes FREE. Each use window halves the use counts. A re-fetch ends READY, or RESIDENT where the pages
are in place; a failed one is UNUSABLE. R168, R330, R332, R333: while no bundle of a batch of the context runs, its pinned
pages on a core that have lost their contents are written again from the staged copies and end FULL, class W and pinned;
copies that return an error are fetched again first, for a reload that holds a reference to the slot. A relayed message that
continues the bytes expected is kept in order; one that does not fails the load with E_RELAY_SEQUENCE, and a missing one
with E_RELAY_TIMEOUT: a LOADING slot becomes FREE, a REFETCHING one UNUSABLE. -/
def Obligations.ResidentSetsAndPinnedPages : Prop :=
  ((∀ (s : State) (c : Nat) (b : Batch), c < s.host.ctxs.length →
    let x := ctxAt s c
    let sl := latchedSlot x
    x.batch = some b → x.latched = some b.slot → b.slot < 2 → b.lanesBegun = [] → b.failing = false → b.refuse = none →
    sl.state = .ready →
    (∀ u, slotMismatch x sl = some u → exec (.makeResident c) s = .next (setCtx s c { x with
      batch := some { b with refuse := some (0x12, u) } })) ∧
    (slotMismatch x sl = none → sl.inPages = false →
      ((slotOfCtx x (1 - b.slot)).refs ≠ 0 → exec (.makeResident c) s = .next s) ∧
      ((slotOfCtx x (1 - b.slot)).refs = 0 → stagedBad s c b.slot none ≠ [] → sl.reload = [] →
        exec (.makeResident c) s = .next (setCtx s c (withSlot x b.slot { sl with
          state := .refetching
          reload := (stagedBad s c b.slot none).eraseDups
          refs := sl.refs + 1 }))) ∧
      ((slotOfCtx x (1 - b.slot)).refs = 0 → stagedBad s c b.slot none = [] →
        (∀ k ∈ s.cores, memWf zeroDflt k.sp.tags = true) → ∃ t, exec (.makeResident c) s = .next t ∧
        (slotOfCtx (ctxAt t c) b.slot).state = .resident ∧ (slotOfCtx (ctxAt t c) b.slot).inPages = true ∧
        ((slotOfCtx x (1 - b.slot)).state = .retiring → (slotOfCtx (ctxAt t c) (1 - b.slot)).state = .free) ∧
        (∀ p ∈ pinnedRefs x, p.1 < s.cores.length → rangePinned t p.1 (wrAddress p.2) (wrBytes p.2) = true) ∧
        t.hbm = s.hbm ∧ t.host.rings = s.host.rings))) ∧
  (∀ (s : State) (c i : Nat), c < s.host.ctxs.length → i < 2 →
    let x := ctxAt s c
    let sl := slotOfCtx x i
    (sl.state = .retiring → sl.refs = 0 → ∃ t, exec (.slotRetire c i) s = .next t ∧
      slotOfCtx (ctxAt t c) i = Slot.reset ∧ slotOfCtx (ctxAt t c) (1 - i) = slotOfCtx x (1 - i) ∧ t.hbm = s.hbm) ∧
    (sl.state ≠ .retiring ∨ sl.refs ≠ 0 → exec (.slotRetire c i) s = .next s) ∧
    exec (.useWindowEnd c) s = .next (setCtx s c { x with
      slotA := { x.slotA with uses := x.slotA.uses / 2 }
      slotB := { x.slotB with uses := x.slotB.uses / 2 } })) ∧
  (∀ (s : State) (c i : Nat) (src : SourceResult) (rdma : List Bytes), c < s.host.ctxs.length → i < 2 →
    let x := ctxAt s c
    let sl := slotOfCtx x i
    let r := fetchSet c i true src rdma (fetchList sl) s
    sl.state = .refetching → sl.staged ≠ [] →
    (∀ s1 u, r = (s1, .ok, u) → x.ptr = i → ∃ t, exec (.refetch c i src rdma) s = .next t ∧
      (slotOfCtx (ctxAt t c) i).state = (if sl.inPages then .resident else .ready) ∧ t.hbm = s1.hbm) ∧
    (∀ s1 u, r = (s1, .ok, u) → x.ptr ≠ i → ∃ t, exec (.refetch c i src rdma) s = .next t ∧
      (slotOfCtx (ctxAt t c) i).state = (if sl.refs = reloadRef sl ∨ sl.refs = 0 then .free else .retiring)) ∧
    (∀ s1 st v u, r = (s1, .fail st v, u) → ∃ t, exec (.refetch c i src rdma) s = .next t ∧
      (slotOfCtx (ctxAt t c) i).state = .unusable ∧ (slotOfCtx (ctxAt t c) i).lost = u))) ∧
  ((∀ (s : State) (c k : Nat), c < s.host.ctxs.length → k < s.cores.length →
    let x := ctxAt s c
    (∀ b, x.batch = some b → b.lanesBegun = []) → k ∈ ctxCores x → memWf zeroDflt (coreAt s k).sp.tags = true →
    (pinnedOk s c k = true → exec (.pinnedReload c k) s = .next s) ∧
    (∀ i, pinnedOk s c k = false → residentSlot x = some i → (slotOfCtx x i).state ≠ .refetching →
      stagedBad s c i (some k) ≠ [] → (slotOfCtx x i).reload = [] →
      exec (.pinnedReload c k) s = .next (setCtx s c (withSlot x i { slotOfCtx x i with
        state := .refetching
        reload := (stagedBad s c i (some k)).eraseDups
        refs := (slotOfCtx x i).refs + 1 }))) ∧
    (pinnedOk s c k = false → (∀ i, residentSlot x = some i →
        (slotOfCtx x i).state ≠ .refetching ∧ stagedBad s c i (some k) = []) →
      ∃ t, exec (.pinnedReload c k) s = .next t ∧ pinnedOk t c k = true ∧ t.host = s.host ∧ t.hbm = s.hbm ∧
        ∀ j, j ≠ k → coreAt t j = coreAt s j)) ∧
  (∀ (s : State) (c i : Nat) (setId : W32) (tensor off : Nat) (bs : Bytes), c < s.host.ctxs.length → i < 2 →
    let x := ctxAt s c
    let sl := slotOfCtx x i
    let e := wsEntry sl.desc tensor
    let fits := relayTensor sl = some tensor ∧ setId.toNat = wsSetId sl.desc % 2 ^ 32 ∧ bs ≠ [] ∧ bs.length ≤ 65536 ∧
      off = (if sl.relayNext.1 = tensor then sl.relayNext.2 else 0) ∧ off + bs.length ≤ teSrcBytes e
    let fails := fun (u : Instr) (st v : Nat) => ∃ t, exec u s = .next t ∧
      (sl.state = .loading → (slotOfCtx (ctxAt t c) i).state = .free ∧
        ∀ q idx, runningEntry s 0x02 c (fun b => rdLe b 8 1 == i) = some (q, idx) →
          (ringAt t q).entries = finished (ringAt s q).entries idx st v) ∧
      (sl.state = .refetching → (slotOfCtx (ctxAt t c) i).state = .unusable ∧ (slotOfCtx (ctxAt t c) i).lost = v)
    let m := Instr.relayMessage c i setId tensor off bs
    (sl.state = .loading ∨ sl.state = .refetching) →
    (wsUp sl.desc ≠ 0xFFFF → fits → ∃ t, exec m s = .next t ∧
      (let new := slotOfCtx (ctxAt t c) i
       new.state = sl.state ∧ new.relayNext = (if off + bs.length = teSrcBytes e then (tensor + 1, 0) else (tensor, off + bs.length)) ∧
        (teKept sl.desc tensor = true → look new.relayed tensor [] = look sl.relayed tensor [] ++ bs) ∧
        (teKept sl.desc tensor = false → new.relayed = sl.relayed)) ∧
      t.hbm = s.hbm ∧ t.cores = s.cores) ∧
    (wsUp sl.desc ≠ 0xFFFF → ¬ fits → fails m 0x26 tensor) ∧
    (∀ u, relayTensor sl = some u → fails (.relayTimeout c i) 0x27 u) ∧
    (relayTensor sl = none → exec (.relayTimeout c i) s = .next s)))

/-- R321, R326, R329, R471, R481, R482: RUN_BATCH queues its batch behind the others of its context. The oldest batch of a
placed context starts when none of the context runs, its cores are free and in service and nothing goes before it; a closed
stream batch likewise. A start latches the program and the slot the pointer names, which gains a reference and a use, an
EVICTED one REFETCHING, and gives each core its lane and pages. R173, R324, R480: CONFIG_CONTEXT configures an UNLOADED
context with its lanes, class, pages, watchdog exponent, use window and share of HBM, or completes with E_NO_SPACE or
E_CONTEXT_STATE. UNLOAD_CONTEXT of one with no bound stream and no work under way leaves it UNLOADED with both slots FREE
and its pages LOCKED to be zeroed; otherwise it completes with E_CONTEXT_STATE. R531: a ring command that names a context
Calico owns first takes the context over: its Calico streams are unbound and, while none of its batches runs, it is
unloaded; the command then meets the UNLOADED context. While a batch runs the entry waits. -/
def Obligations.BatchesAndContextsAreManaged : Prop :=
  ((∀ (s : State) (q : Nat) (pre : List RingEntry) (e : RingEntry) (post : List RingEntry), Taken s q 0x10 pre e post →
    let c := rdLe e.bytes 2 1
    let x := ctxAt s c
    c < s.host.ctxs.length → x.calico = none → programAhead s q e.index c = false →
    (x.configured = false → exec (.runBatch q) s = .next (setRing s q (staged (ringAt s q) pre e post (.done 0x41 0)))) ∧
    (x.configured = true → ∃ b, exec (.runBatch q) s =
        .next (setCtx (setRing s q (staged (ringAt s q) pre e post .running)) c { x with queue := x.queue ++ [b] }) ∧
      b.ring = some (q, e.index) ∧ b.tag = rdLe e.bytes 4 4 ∧
      b.signal = (if rdLe e.bytes 1 1 / 2 % 2 = 1 then some (rdLe e.bytes 8 1) else none) ∧
      b.args = (List.range (rdLe e.bytes 9 1)).map (fun i => (rdLe e.bytes (0x10 + 12 * i) 8, rdLe e.bytes (0x18 + 12 * i) 4)) ∧
      b.lanesBegun = [] ∧ b.lanesEnded = [] ∧ b.failing = false ∧ b.refuse = none ∧ b.deliver = true)) ∧
  (∀ (s : State) (c : Nat), c < s.host.ctxs.length →
    let x := ctxAt s c
    let sl := slotOfCtx x x.ptr
    x.batch = none → x.image ≠ none → x.placed ≠ [] → x.ptr < 2 → (ctxCores x).Nodup →
    (∀ k ∈ ctxCores x, inService s k = true ∧ coreRuns s k = false) → s.host.dispatch = true →
    let started := fun (t : State) (b1 : Batch) => (ctxAt t c).batch = some b1 ∧ b1.slot = x.ptr ∧
      b1.refuse = (if sl.state = .unusable then some (0x24, sl.lost) else none) ∧ (ctxAt t c).latched = some x.ptr ∧
      (ctxAt t c).image = x.image ∧
      (let new := slotOfCtx (ctxAt t c) x.ptr
       new.refs = sl.refs + 1 ∧ new.uses = sl.uses + 1 ∧
        new.state = if sl.state = .evicted then .refetching else sl.state) ∧
      (∀ l k, (l, k) ∈ x.placed → coreAt t k = { coreAt s k with
        ctx := some c
        lane := l
        started := false
        pagesLow := ((pagesOn x k).getD (0, 0)).1
        pagesHigh := ((pagesOn x k).getD (0, 0)).2
        regs := { (coreAt s k).regs with holdWdt := BitVec.ofNat 5 x.wdtExp } }) ∧
      (∀ k, k ∉ ctxCores x → coreAt t k = coreAt s k) ∧ t.host.rings = s.host.rings ∧ t.hbm.cells = s.hbm.cells
    (∀ b rest, x.queue = b :: rest → closedOf s c = [] → (∀ j, j < 16 → goesFirst s c j (ctxCores x) = false) →
      ∃ t b1, exec (.hostBatchStart c []) s = .next t ∧ started t b1 ∧ b1.ring = b.ring ∧ b1.args = b.args ∧
        b1.signal = b.signal ∧ b1.tag = b.tag ∧ (ctxAt t c).queue = rest) ∧
    (∀ b rest, closedOf s c = b :: rest → s.pw.phase = .active →
      ∃ t b1, exec (.streamBatchStart c []) s = .next t ∧ started t b1 ∧ b1.ring = none ∧ b1.frames = b.frames ∧
        b1.args = [] ∧ (ctxAt t c).queue = x.queue))) ∧
  ((∀ (s : State) (q : Nat) (pre : List RingEntry) (e : RingEntry) (post : List RingEntry), Taken s q 0x20 pre e post →
    let c := rdLe e.bytes 2 1
    let x := ctxAt s c
    let b := e.bytes
    let done := fun (v w : Nat) => setRing s q (staged (ringAt s q) pre e post (.done v w))
    c < s.host.ctxs.length → x.calico = none →
    (x.configured = true → exec (.configContext q) s = .next (done 0x41 (ctxStateCode x))) ∧
    (x.configured = false → allocShare s (rdLe b 0x10 8) = none →
      ∃ v, exec (.configContext q) s = .next (done 0x22 v) ∧ 0 < v) ∧
    (∀ a, x.configured = false → allocShare s (rdLe b 0x10 8) = some a →
      exec (.configContext q) s = .next (setCtx (done 0 0) c { Ctx.reset with
        configured := true
        lanes := rdLe b 8 1
        cls := rdLe b 9 1
        pages := rdLe b 0x0A 2
        wdtExp := rdLe b 0x0C 1
        useWindow := if rdLe b 0x0D 1 = 0 then 10 else rdLe b 0x0D 1
        hbmBase := a
        hbmBytes := rdLe b 0x10 8 }))) ∧
  (∀ (s : State) (q : Nat) (pre : List RingEntry) (e : RingEntry) (post : List RingEntry), Taken s q 0x21 pre e post →
    let c := rdLe e.bytes 2 1
    let x := ctxAt s c
    c < s.host.ctxs.length → x.calico = none →
    (hasStreams s c = true ∨ ctxBusy x = true →
      exec (.unloadContext q) s = .next (setRing s q (staged (ringAt s q) pre e post (.done 0x41 (ctxStateCode x))))) ∧
    (hasStreams s c = false → ctxBusy x = false → ∃ t, exec (.unloadContext q) s = .next t ∧
      ringAt t q = staged (ringAt s q) pre e post (.done 0 0) ∧ ctxAt t c = Ctx.reset ∧
      (∀ d, d ≠ c → ctxAt t d = ctxAt s d) ∧
      (∀ l k, (l, k) ∈ x.placed → k < s.cores.length → (ctxCores x).Nodup → memWf zeroDflt (coreAt s k).sp.tags = true →
        ∀ p ∈ ctxPages s c k, (∃ j ∈ (coreAt t k).sp.zeroing, j.page = p ∧ j.banks = []) ∧ tagState (tagOf (coreAt t k).sp p) = 2)))) ∧
  (∀ (s : State) (q op : Nat) (pre : List RingEntry) (e : RingEntry) (post : List RingEntry) (i : Instr) (ecc : Ecc) (told : Nat),
    Taken s q op pre e post → (op, i) ∈ [(0x01, Instr.loadProgram q ecc told), (0x02, .loadWeights q), (0x03, .switchWeights q), (0x04, .evict q),
      (0x10, .runBatch q), (0x20, .configContext q), (0x21, .unloadContext q)] →
    let c := rdLe e.bytes 2 1
    let t := takeOver s c
    c < s.host.ctxs.length → (ctxAt s c).calico ≠ none →
    ((ctxAt s c).batch = none → ctxAt t c = Ctx.reset ∧ ringAt t q = ringAt s q ∧ exec i s = exec i t) ∧
    ((ctxAt s c).batch ≠ none → exec i s = .next t ∧ ringAt t q = ringAt s q ∧ ctxAt t c = ctxAt s c ∧ t.cores = s.cores ∧
      ∀ st ∈ t.net.streams, st.calico = true → seCtx st.entry ≠ c))

/-- R23, R433, R471 to R473, R483: BIND_STREAM writes a good stream entry, unbinding what it replaces, and unbinds with
action 1, clearing the valid bit; a running batch keeps its frames and their return path; a refused entry completes with the
offset of its first bad field. CONFIG_QP sets up or tears down a queue pair, CONFIG_LINK sets up, resets or tears down a
link whose range's tags become EMPTY, each from a 256-byte block; a refused block completes with E_BAD_COMMAND and changes
nothing. -/
def Obligations.StreamsQueuePairsAndLinksAreSetUp : Prop :=
  (∀ (s : State) (q : Nat) (pre : List RingEntry) (e : RingEntry) (post : List RingEntry), Taken s q 0x05 pre e post →
    let b := e.bytes
    let sid := rdLe b 8 2
    let entry := hbmRead s (rdLe b 0x10 8) 64
    let done := fun (v w : Nat) => staged (ringAt s q) pre e post (.done v w)
    (rdLe b 0x0A 1 = 1 → ∃ t, exec (.bindStream q) s = .next t ∧ ringAt t q = done 0 0 ∧
      (∀ st, streamOf t sid = some st → streamValid st = false ∧ ∀ f ∈ st.frames, f.admitted = true) ∧
      (∀ y, y ≠ sid → streamOf t y = streamOf s y) ∧ t.cores = s.cores) ∧
    (rdLe b 0x0A 1 ≠ 1 → hbmBad s (rdLe b 0x10 8) 64 = false → (ctxAt s (rdLe b 2 1)).calico = none →
      (ctxAt s (seCtx entry)).calico = none →
      (∀ o, badStream s entry = some o → exec (.bindStream q) s = .next (setRing s q (done 0x42 o))) ∧
      (badStream s entry = none → ∃ t st, exec (.bindStream q) s = .next t ∧ ringAt t q = done 0 0 ∧
        streamOf t sid = some st ∧ st.entry = entry ∧ st.based = false ∧ st.gaps = [] ∧ st.calico = false ∧
        st.frames = [] ∧ (∀ y, y ≠ sid → streamOf t y = streamOf s y) ∧ t.cores = s.cores ∧
        ∀ old i b, streamOf s sid = some old → i < s.host.ctxs.length → (ctxAt s i).batch = some b →
          ∃ b1, (ctxAt t i).batch = some b1 ∧ b1.frames = b.frames.map fun f =>
            if f.sid = sid then { f with path := f.path.or (some (pathOf old)) } else f))) ∧
  (∀ (s : State) (q : Nat) (pre : List RingEntry) (e : RingEntry) (post : List RingEntry), Taken s q 0x22 pre e post →
    let n := rdLe e.bytes 8 2
    let a := rdLe e.bytes 0x10 8
    let p := hbmRead s a 256
    let done := fun (v w : Nat) => setRing s q (staged (ringAt s q) pre e post (.done v w))
    hbmBad s a 256 = false →
    (∀ o, badQp s n p = some o → exec (.configQp q) s = .next (done 0x40 (0x100 + o))) ∧
    (badQp s n p = none → ∃ t, exec (.configQp q) s = .next t ∧ t = { done 0 0 with net := { s.net with qps := t.net.qps } } ∧
      (∀ y, y ≠ n → qpOf t y = qpOf s y) ∧ (rdLe p 0 1 = 2 → qpOf t n = none) ∧
      (rdLe p 0 1 = 1 → ∃ u, qpOf t n = some u ∧ u.params = p ∧ u.sqPsn = rdLe p 0x10 4 ∧ u.rqPsn = rdLe p 0x14 4 ∧
        u.outstanding = [] ∧ u.error = false ∧ u.rate = 80000))) ∧
  (∀ (s : State) (q : Nat) (pre : List RingEntry) (e : RingEntry) (post : List RingEntry), Taken s q 0x23 pre e post →
    let n := rdLe e.bytes 8 1
    let a := rdLe e.bytes 0x10 8
    let p := hbmRead s a 256
    let act := rdLe p 0 1
    let done := fun (v w : Nat) => setRing s q (staged (ringAt s q) pre e post (.done v w))
    hbmBad s a 256 = false → (ctxAt s (lkCtx p)).calico = none →
    (∀ o, badLink s n p = some o → exec (.configLink q) s = .next (done 0x40 (0x100 + o))) ∧
    (badLink s n p = none → act = 1 → ∃ l, exec (.configLink q) s =
        .next { done 0 0 with net := { s.net with links := s.net.links ++ [l] } } ∧ l.num = n ∧ l.role = rdLe p 1 1 ∧
      l.qp = rdLe p 2 2 ∧ l.ctx = rdLe p 4 1 ∧ l.lane = rdLe p 5 1 ∧ l.pages = rdLe p 6 2 ∧ l.first = rdLe p 8 2 ∧
      l.credits = (if rdLe p 1 1 = 0 then List.range (rdLe p 6 2) else []) ∧ l.sent = [] ∧ l.stopped = false) ∧
    (badLink s n p = none → act = 2 ∨ act = 3 → ∃ t, exec (.configLink q) s = .next t ∧
      ringAt t q = ringAt (done 0 0) q ∧
      (act = 3 → t.net.links = s.net.links.filter fun x => x.num != n) ∧
      (act = 2 → ∀ l, s.net.links.find? (fun x => x.num == n) = some l → t.net.links = s.net.links.map fun x =>
        if x.num = n then { l with
          credits := if l.role = 0 then List.range l.pages else []
          next := 0
          sent := []
          stopped := false } else x) ∧
      (∀ l k, s.net.links.find? (fun x => x.num == n) = some l → coreOf (ctxAt s l.ctx) l.lane = some k →
        k < s.cores.length → memWf zeroDflt (coreAt s k).sp.tags = true →
        ∀ i, i < l.pages → tagState (tagOf (coreAt t k).sp ((l.first + i) % 4096)) = 0)))

/-- R488, R544, R573: a command written while busy is discarded with E_SVC_BUSY. GET_INFO, READ_TELEMETRY, READ_LOG,
FLASH_READ, ATTEST and POWER_REQUEST complete with their bytes in the buffer or their result in ARG1; a POWER_REQUEST during
an activation completes with power result 0x3. The bytes of GET_INFO are free values (assumption 12), and FLASH_READ's
arguments are the model's choice (assumption 42). R381, R382, R390, R488: the mailbox's FLASH_PROGRAM, FLASH_ERASE and
FLASH_UNLOCK open their operation on channel 0 and stay busy until it ends; on a boot area, a locked sector, a busy channel
or an offset of 1 GiB or more the first two complete at once with the flash's result and change nothing. -/
def Obligations.MailboxCommandsAnswer : Prop :=
  ((∀ (s : State) (i : Instr), i ∈ [Instr.getInfo, .readTelemetry, .readLog, .svcFlashRead, .svcFlashProgram, .svcFlashErase,
      .svcFlashUnlock, .updateBegin, .updateWrite, .updateVerify, .updateActivate, .updateCommit, .svcAttest] →
    s.host.mail.busy = true →
    exec i s = .next { s with host := { s.host with mail := { s.host.mail with result := 0x0201 } } }) ∧
  (∀ s : State, MailReady s →
    let a := s.host.mail.arg0.toNat
    let n := min 4096 s.host.mail.arg1.toNat
    let answers := fun (i : Instr) (bs : Bytes) => ∃ t, exec i s = .next t ∧ MailEnded s t 0 ∧
      t.host.mail.buf.take bs.length = bs ∧ t.hbm = s.hbm ∧ t.flash.cells = s.flash.cells
    answers .getInfo ((List.range 4096).map (Config.infoByte s.freeCtr)) ∧
    answers .readTelemetry (s.mg.temps ++ (List.range 3).flatMap fun i => toLe 2 (s.mg.powers.getD i 0).toNat) ∧
    answers .readLog ((List.range 64).flatMap fun i => logSlot s (a + i)) ∧
    answers .svcAttest (attestReport s (fitBytes 32 s.host.mail.buf)) ∧
    (1073741824 < a + n → ∃ t, exec .svcFlashRead s = .next t ∧ MailEnded s t 0x0204 ∧ t.host.mail.buf = s.host.mail.buf) ∧
    (a + n ≤ 1073741824 → ∃ t, exec .svcFlashRead s = .next t ∧ MailEnded s t 0) ∧
    (a + n ≤ 1073741824 → minWait s.flash ≤ s.flash.waitStates.toNat → wornBad s.flash a n = false →
      (∀ w, a / 32 ≤ w → 32 * w < a + n → statusReason s.flash (32 * w) = none) →
      answers .svcFlashRead (flashBytes s.flash a n))) ∧
  (∀ s : State, fwServes s = true →
    let a := s.host.mail.arg0.toNat
    let asked := powerAsk s 1 (a % 4) (a / 256 % 256)
    let told := fun (t : State) => fld t.host.mail.arg1 3 0 = t.pw.result.toNat ∧
      t.host.mail.arg1.toNat / 16 = s.host.mail.arg1.toNat / 16 ∧ t.pw = asked.pw ∧ t.hbm = s.hbm
    (s.host.mail.busy = false → s.host.mail.running ≠ some 0x23 →
      ∃ t, exec .powerRequest s = .next t ∧ MailEnded s t 0 ∧ told t) ∧
    (s.host.mail.running = some 0x23 → ∃ t, exec .powerRequest s = .next t ∧ told t ∧ t.host.mail.running = some 0x23 ∧
      t.host.mail.busy = s.host.mail.busy ∧ t.host.mail.result = 0 ∧
      (s.host.upd.handover = true → s.pw.phase = .active → a % 4 ≤ 2 → t.pw.result = 3 ∧ t.pw.phase = .active)))) ∧
  (∀ s : State, MailReady s → s.pw.phase = .active → s.flash.scanDone = true →
    let f := s.flash
    let a := s.host.mail.arg0.toNat
    let sec := a / 65536
    let refuses := fun (i : Instr) (r : Nat) => ∃ t, exec i s = .next t ∧ MailEnded s t r ∧ t.flash.cells = f.cells ∧
      t.flash.openFlags = f.openFlags ∧ t.flash.step = f.step ∧ t.hbm = s.hbm
    (∀ i, i = .svcFlashProgram ∨ i = .svcFlashErase →
      (1073741824 ≤ a → refuses i 0x010A) ∧ (sec < 34 → refuses i 0x0102) ∧
      (a < 1073741824 → 34 ≤ sec → f.ch0.op ≠ none → refuses i 0x0101) ∧
      (a < 1073741824 → 34 ≤ sec → f.ch0.op = none → a % 512 = 0 → flashLocked f f.ch0 sec = true → refuses i 0x0102)) ∧
    (f.ch0.op ≠ none → refuses .svcFlashUnlock 0x0101) ∧
    (f.ch0.op = none → (f.step ≠ none ∨ f.ch1.op = none) →
      (a < 1073741824 → 34 ≤ sec → flashLocked f f.ch0 sec = false → underErase f sec = false →
        (∃ t d, exec .svcFlashErase s = .next t ∧ FlashOpened s t 0x12 ⟨2, a, d, 0, 0, false, false⟩ ∧
          (f.step = none → sec ∈ t.flash.openFlags)) ∧
        (a % 512 = 0 → f.incomplete.contains sec = false → (∀ i, i < 512 → flashByte f (a + i) = 0xFF) →
          memSorted f.ch0.buf = true → ∃ t, exec .svcFlashProgram s = .next t ∧
            FlashOpened s t 0x11 ⟨1, a, fitBytes 512 s.host.mail.buf, 0, 0, false, false⟩)) ∧
      ∃ t d, exec .svcFlashUnlock s = .next t ∧ FlashOpened s t 0x13 ⟨4, 0, d, s.host.mail.arg0, 0, false, false⟩))

/-- R488 to R490, R570: UPDATE_BEGIN erases the inactive copy, UPDATE_WRITE programs 4 KiB of it, UPDATE_VERIFY applies the
image checks to it, and UPDATE_ACTIVATE of a verified copy outside debug sessions stops dispatch; otherwise it completes
with E_SVC_STATE. HANDOVER starts the new image, or returns to the old one with E_SVC_REVERTED; a Bus Master Enable change
meanwhile is acted on after it. UPDATE_BEGIN's and UPDATE_WRITE's way through channel 0 is assumption 43. R492, R571: an
image commits at UPDATE_COMMIT, or when its trial period ends without a device-fatal error while firmware runs: the
anti-rollback counter and the revocations are raised, and the active boot-select record names the running copy.
UPDATE_COMMIT with no trial completes with E_SVC_STATE (the model's choice, assumption 44). -/
def Obligations.UpdatesRunAndCommit : Prop :=
  ((∀ s : State, MailReady s →
    let f := s.flash
    let base := if s.host.upd.bootCopy then 0 else 0x100000
    let off := s.host.mail.arg0.toNat
    let sec := (base + off) / 65536
    let image := copyImage f (!s.host.upd.bootCopy)
    (f.ch0.op = none → (∀ i, i < 16 → underErase f (base / 65536 + i) = false ∧ flashLocked f f.ch0 (base / 65536 + i) = false) →
      ∃ t, exec .updateBegin s = .next t ∧ MailEnded s t 0 ∧ t.host.upd.verified = false ∧ t.host.upd.written = [] ∧
        (∀ a, base ≤ a → a < base + 0x100000 → flashByte t.flash a = 0xFF) ∧
        (∀ a, a < base ∨ base + 0x100000 ≤ a → flashByte t.flash a = flashByte f a) ∧
        (∀ i, i < 16 → base / 65536 + i ∉ t.flash.incomplete)) ∧
    (off % 4096 = 0 → off < 1048576 → f.ch0.op = none → underErase f sec = false → flashLocked f f.ch0 sec = false →
      f.incomplete.contains sec = false → memWf (fun _ => some 0xFF) f.cells = true →
      (∀ i, i < 4096 → flashByte f (base + off + i) = 0xFF) →
      ∃ t, exec .updateWrite s = .next t ∧ MailEnded s t 0 ∧ t.host.upd.verified = false ∧ sec ∈ t.host.upd.written ∧
        flashBytes t.flash (base + off) 4096 = fitBytes 4096 s.host.mail.buf ∧
        ∀ a, a < base + off ∨ base + off + 4096 ≤ a → flashByte t.flash a = flashByte f a) ∧
    (imageCheck s image s.host.upd.written = 0 → ∃ t, exec .updateVerify s = .next t ∧ MailEnded s t 0 ∧
      t.host.upd = { s.host.upd with verified := true } ∧ t.flash = f) ∧
    (imageCheck s image s.host.upd.written ≠ 0 → ∃ t r, exec .updateVerify s = .next t ∧ MailEnded s t r ∧
      t.host.upd = { s.host.upd with verified := false } ∧ t.flash = f) ∧
    (s.host.upd.verified = false ∨ s.sc.firmware = true ∨ s.sc.silicon = true →
      ∃ t, exec .updateActivate s = .next t ∧ MailEnded s t 0x0202 ∧ t.host.upd = s.host.upd ∧
        t.host.dispatch = s.host.dispatch) ∧
    (s.host.upd.verified = true → s.sc.firmware = false → s.sc.silicon = false →
      ∃ t, exec .updateActivate s = .next t ∧ t.host.mail.busy = true ∧ t.host.mail.running = some 0x23 ∧
        t.host.dispatch = false ∧ t.cores = s.cores ∧ t.host.rings = s.host.rings ∧ t.host.upd = { s.host.upd with
          handover := true
          trialSec := if off = 0 then 60 else off })) ∧
  (∀ (s : State) (accept : Bool),
    let ready := s.host.upd.handover = true ∧ s.flash.ch0.op = none ∧ loadsRunning s = false ∧ fwServes s = true ∧
      ∀ x ∈ s.host.ctxs, ∀ b, x.batch = some b → b.ring = none
    (¬ ready → exec (.handover accept) s = .next s) ∧
    (ready → s.host.upd.bmeWait = false → s.host.upd.flrWait = false → ∃ t, exec (.handover accept) s = .next t ∧
      t.host.upd = (if accept then { s.host.upd with
          handover := false
          trial := true
          bootCopy := !s.host.upd.bootCopy
          runningImage := copyImage s.flash (!s.host.upd.bootCopy) }
        else { s.host.upd with handover := false }) ∧
      (t.host.dispatch = true ↔ s.host.fwReady = true ∧ s.hbm.trained = 3 ∧ s.log.fatal = false) ∧
      t.host.rings = s.host.rings ∧ t.host.ctxs = s.host.ctxs ∧ t.cores = s.cores ∧ t.hbm = s.hbm ∧ t.flash = s.flash ∧
      (s.host.mail.running = some 0x23 → MailEnded s t (if accept then 0 else 0x0203)) ∧
      (s.host.mail.running ≠ some 0x23 → t.host.mail = s.host.mail)) ∧
    (ready → s.host.upd.bmeWait = true → s.host.upd.flrWait = false →
      ∀ t, exec (.handover accept) (modUpd s fun u => { u with bmeWait := false }) = .next t →
        exec (.handover accept) s = .next (loseDriver t)))) ∧
  ((∀ s : State, MailReady s →
    (s.host.upd.trial = true → ∃ t, exec .updateCommit s = .next t ∧ MailEnded s t 0 ∧ Committed s t) ∧
    (s.host.upd.trial = false → ∃ t, exec .updateCommit s = .next t ∧ MailEnded s t 0x0202 ∧ t.sc = s.sc ∧ t.flash = s.flash)) ∧
  (∀ s : State,
    (s.host.upd.trial = true → s.log.fatal = false → fwRuns s = true →
      ∃ t, exec .trialEnd s = .next t ∧ Committed s t ∧ t.host.mail = s.host.mail ∧ t.host.rings = s.host.rings) ∧
    (s.host.upd.trial = false ∨ s.log.fatal = true ∨ fwRuns s = false → exec .trialEnd s = .next s)))

/-- R373, R374, R384, R397: FLASH_READ answers the 32-byte word that holds its offset: a status word with its reason while
the scan has not ended, a step runs in the bank, the sector is ERASE_INCOMPLETE or is being erased; else the data, counted
when corrected, or an error response when uncorrectable, which later reads of the word find again. R379, R397, R398, R404:
the supply mode written takes effect, the scan makes every open flag's sector ERASE_INCOMPLETE with one log entry each, and
FL_EI_DATA reads the bitmap word by word. -/
def Obligations.FlashIsReadAndScanned : Prop :=
  (∀ (s : State) (off : Nat) (ecc : Ecc), off < 1073741824 →
    let f := s.flash
    let w := off / 32 * 32
    let sec := w / 65536
    let runs := fun o => ∃ n op, f.step = some n ∧ (chanOf f n).op = some op ∧ op.opcode = o ∧ op.addr / 67108864 = w / 67108864
    let answers := fun (t : State) (r : FlashResp) => t.flash.resps = f.resps ++ [r] ∧ r.off = w ∧ t.flash.cells = f.cells ∧
      t.flash.incomplete = f.incomplete ∧ t.hbm = s.hbm ∧ t.cores = s.cores
    let status := fun (c : Nat) => ∃ t r, exec (.flashRead off ecc) s = .next t ∧ answers t r ∧ r.status = true ∧
      r.error = false ∧ rdLe r.data 0 8 = 0x5355544154534C46 ∧ rdLe r.data 8 1 = c ∧ rdLe r.data 9 1 = w / 67108864 ∧
      rdLe r.data 10 2 = sec ∧ rdLe r.data 12 4 ≤ (if c = 1 then 1000 else if c = 2 then 12000 else 0) ∧
      r.data.drop 16 = List.replicate 16 0 ∧ t.flash.eccCorrected = f.eccCorrected
    (f.scanDone = false → status 5) ∧
    (f.scanDone = true →
      (runs 1 → status 1) ∧ (runs 2 → status 2) ∧
      (¬ runs 1 → ¬ runs 2 → f.incomplete.contains sec = true → status 4) ∧
      (¬ runs 1 → ¬ runs 2 → f.incomplete.contains sec = false → underErase f sec = true → status 3) ∧
      (¬ runs 1 → ¬ runs 2 → f.incomplete.contains sec = false → underErase f sec = false →
        let wrong := match ecc with
          | .clean => (f.worn.find? fun x => x.1 == w).map (·.2)
          | .corrected _ => some false
          | .uncorrectable _ _ => some true
        let kept := fun (t : State) => (t.flash.worn.find? fun x => x.1 == w).map (·.2) = wrong
        (wrong ≠ some true → ∃ t r, exec (.flashRead off ecc) s = .next t ∧ answers t r ∧ kept t ∧
          r.status = false ∧ r.error = false ∧ r.data.length = 32 ∧
          (minWait f ≤ f.waitStates.toNat → r.data = flashBytes f w 32) ∧
          (wrong = none → t.flash.eccCorrected = f.eccCorrected ∧ t.flash.errLast = f.errLast) ∧
          (wrong = some false → t.flash.eccCorrected.toNat = min (f.eccCorrected.toNat + 1) (2 ^ 32 - 1) ∧
            t.flash.errLast.toNat = w)) ∧
        (wrong = some true → ∃ t r, exec (.flashRead off ecc) s = .next t ∧ answers t r ∧ kept t ∧
          r.status = false ∧ r.error = true ∧ t.flash.errLast.toNat = 2 ^ 31 + w ∧
          t.flash.eccUncorrected.toNat = min (f.eccUncorrected.toNat + 1) (2 ^ 32 - 1) ∧
          t.log.nextSeq = s.log.nextSeq + 1)))) ∧
  (∀ s : State,
    exec .supplyModeChange s = .next { s with flash := { s.flash with supplyInForce := s.flash.supplyLow } } ∧
    (s.flash.scanDone = true ∨ s.pw.pllLocked = false → exec .flashScan s = .next s) ∧
    (s.flash.scanDone = false → s.pw.pllLocked = true → ∃ t, exec .flashScan s = .next t ∧ t.flash.scanDone = true ∧
      (∀ x, x ∈ t.flash.incomplete ↔ x ∈ s.flash.openFlags) ∧ t.flash.openFlags = s.flash.openFlags ∧
      t.flash.wear = (s.flash.eraseCount.filter fun p => decide (10000 ≤ p.2)).length ∧
      t.log.nextSeq = s.log.nextSeq + BitVec.ofNat 32 s.flash.openFlags.length ∧ t.flash.cells = s.flash.cells ∧
      t.cores = s.cores) ∧
    ∃ t, exec .flEiDataRead s = .next t ∧ t = { s with
        flash := { s.flash with eiIndex := s.flash.eiIndex + 1 }
        readOut := t.readOut } ∧
      ∀ i, i < 64 → (t.readOut.getLsbD i = true ↔ i < 32 ∧ s.flash.incomplete.contains (32 * s.flash.eiIndex.toNat + i) = true))

/-- R382 to R393, R411: a command on a channel with an operation open is discarded with E_FLASH_BUSY, one after Felt entry
began completes with E_FLASH_ABORTED, and one that its checks refuse with their code; none of them changes the array. An
accepted one opens its operation and, where no step runs, its first step begins, an erase opening the sector's flag;
READ_INFO and LOCK complete at once. ABORT marks a running step's operation, and ends one between steps. -/
def Obligations.FlashCommandsOpenOrRefuse : Prop :=
  ∀ (s : State) (n : Nat), n < 2 → FlashReady s →
    let f := s.flash
    let ch := chanOf f n
    let a := ch.addr.toNat
    let sec := a / 65536
    let blank := ∀ i, i < 512 → flashByte f (a + i) = 0xFF
    let set := f.password ≠ none
    let ends := fun (i : Instr) (code : Nat) => ∃ t, exec i s = .next t ∧ FlashEnded s t n code ∧ t.flash.cells = f.cells ∧
      t.flash.openFlags = f.openFlags ∧ t.flash.regions = f.regions ∧ t.flash.password = f.password ∧ t.cores = s.cores
    (∀ i r e, i ∈ [Instr.programPage n, .eraseSector n, .readInfo n, .unlock n, .lock n, .setPassword n, .setRegion n r e] →
      (ch.op ≠ none → exec i s = .next (modFlash s n fun c => { c with result := 0x01 })) ∧
      (ch.op = none → feltBegun s = true → exec i s = .next (modFlash s n fun c => { c with result := 0x0B }))) ∧
    (ch.op = none → feltBegun s = false →
      (a % 512 ≠ 0 → ends (.programPage n) 0x0A) ∧
      (a % 512 = 0 → flashLocked f ch sec = true → ends (.programPage n) 0x02) ∧
      (a % 512 = 0 → flashLocked f ch sec = false → underErase f sec = true → ends (.programPage n) 0x01) ∧
      (a % 512 = 0 → flashLocked f ch sec = false → underErase f sec = false → f.incomplete.contains sec = true →
        ends (.programPage n) 0x04) ∧
      (a % 512 = 0 → flashLocked f ch sec = false → underErase f sec = false → f.incomplete.contains sec = false →
        f.step = none → ¬ blank → ends (.programPage n) 0x03) ∧
      (flashLocked f ch sec = true → ends (.eraseSector n) 0x02) ∧
      (flashLocked f ch sec = false → underErase f sec = true → ends (.eraseSector n) 0x01) ∧
      (set → ends (.setPassword n) 0x09) ∧ (set → ch.unlocked = false → ∀ r e, ends (.setRegion n r e) 0x02)) ∧
    (ch.op = none → feltBegun s = false → f.step = none → (chanOf f (1 - n)).op = none →
      let opens := fun (i : Instr) (op r : Nat) (e : Bool) => ∃ t x, exec i s = .next t ∧ (chanOf t.flash n).op = some x ∧
        x.opcode = op ∧ x.addr = a ∧ x.arg = ch.arg ∧ x.region = r ∧ x.regionOn = e ∧ x.abort = false ∧ x.data = bufBytes ch ∧
        (chanOf t.flash n).steps = 0 ∧ t.flash.step = (if op = 4 then none else some n) ∧ t.flash.cells = f.cells ∧
        (∀ y, y ∈ t.flash.openFlags ↔ y ∈ f.openFlags ∨ op = 2 ∧ y = sec) ∧ t.cores = s.cores
      (a % 512 = 0 → flashLocked f ch sec = false → f.incomplete.contains sec = false → blank →
        opens (.programPage n) 1 0 false) ∧
      (flashLocked f ch sec = false → opens (.eraseSector n) 2 0 false) ∧ opens (.unlock n) 4 0 false ∧
      (¬ set → opens (.setPassword n) 6 0 false) ∧
      (∀ r e, (¬ set ∨ ch.unlocked = true) → opens (.setRegion n r e) 7 (r % 16) e) ∧
      ends (.readInfo n) 0 ∧
      (∀ t, exec (.readInfo n) s = .next t → let r := (chanOf t.flash n).resultReg
        fld r 23 0 = min (look f.eraseCount sec 0) 0xFFFFFF ∧ (bit r 25 = true ↔ f.openFlags.contains sec = true) ∧
        (bit r 26 = true ↔ f.incomplete.contains sec = true) ∧ bit r 24 = false ∧ fld r 63 28 = 0 ∧
        (bit r 27 = true ↔ ∃ g ∈ f.regions, g.on = true ∧ g.first ≤ sec ∧ sec ≤ g.last)) ∧
      ends (.lock n) 0 ∧ (∀ t, exec (.lock n) s = .next t → (chanOf t.flash n).unlocked = false)) ∧
    (ch.op = none → f.step ≠ some n → exec (.flashAbort n) s = .next s) ∧
    (∀ x, ch.op = some x → f.step = some n → exec (.flashAbort n) s =
      .next (modFlash s n fun c => { c with op := some { x with abort := true } })) ∧
    (∀ x, ch.op = some x → f.step ≠ some n → ∃ t, exec (.flashAbort n) s = .next t ∧ FlashEnded s t n 0x0B ∧
      t.flash.cells = f.cells ∧
      (x.opcode = 2 → x.addr / 65536 ∈ f.openFlags → x.addr / 65536 ∈ t.flash.incomplete ∧ x.addr / 65536 ∈ t.flash.openFlags))

/-- R383 to R388, R391 to R393, R400: the end of a step. A program that verifies has put its page into the array; one that
does not leaves the page's bytes free values. An erase that verifies leaves the sector erased, its flag closed and its count
one higher; after 40 steps without, or at an ABORT, the sector is ERASE_INCOMPLETE. SET_PASSWORD and SET_REGION take effect.
UNLOCK completes by the password, the attempt count and the lockout. -/
def Obligations.FlashStepsAndUnlocksEnd : Prop :=
  (∀ (s : State) (ok : Bool), s.flash.step = none → exec (.flashStepEnd ok) s = .next s) ∧
  (∀ (s : State) (ok : Bool) (n : Nat) (x : FlashOp), n < 2 → s.flash.step = some n → (chanOf s.flash n).op = some x →
    let f := s.flash
    let k := (chanOf f n).steps.toNat
    let sec := x.addr / 65536
    let ends := fun (code : Nat) (P : State → Prop) => ∃ t, exec (.flashStepEnd ok) s = .next t ∧ FlashEnded s t n code ∧
      (chanOf t.flash n).steps.toNat = k + 1 ∧ t.cores = s.cores ∧ P t
    let keeps := fun (lo hi : Nat) (t : State) => ∀ a, a < lo ∨ hi ≤ a → flashByte t.flash a = flashByte f a
    k < 40 →
    (x.opcode = 1 → x.addr % 512 = 0 → x.data.length = 512 → memWf (fun _ => some 0xFF) f.cells = true →
      (∀ i, i < 512 → flashByte f (x.addr + i) = 0xFF) →
      (ok = true → ends 0 fun t => flashBytes t.flash x.addr 512 = x.data ∧ keeps x.addr (x.addr + 512) t ∧
        ∀ w ∈ t.flash.worn, w ∈ f.worn ∧ (w.1 + 32 ≤ x.addr ∨ x.addr + 512 ≤ w.1)) ∧
      (ok = false → ends 0x05 fun t => (∀ i, i < 512 → flashByte t.flash (x.addr + i) = Config.freeByte s.freeCtr (x.addr + i)) ∧
        keeps x.addr (x.addr + 512) t)) ∧
    (x.opcode = 2 →
      (ok = true → ends 0 fun t => (∀ a, a / 65536 = sec → flashByte t.flash a = 0xFF) ∧
        keeps (sec * 65536) (sec * 65536 + 65536) t ∧ sec ∉ t.flash.incomplete ∧
        (∀ w ∈ t.flash.worn, w ∈ f.worn ∧ w.1 / 65536 ≠ sec) ∧
        look t.flash.eraseCount sec 0 = look f.eraseCount sec 0 + 1 ∧ (∀ y, y ≠ sec → look t.flash.eraseCount y 0 = look f.eraseCount y 0)) ∧
      (ok = false → k = 39 → ends 0x06 fun t => sec ∈ t.flash.incomplete ∧ t.flash.cells = f.cells) ∧
      (ok = false → k < 39 → x.abort = true → ends 0x0B fun t => (sec ∈ f.openFlags → sec ∈ t.flash.incomplete) ∧
        t.flash.cells = f.cells) ∧
      (ok = false → k < 39 → x.abort = false → ∃ t, exec (.flashStepEnd ok) s = .next t ∧ (chanOf t.flash n).op = some x ∧
        (chanOf t.flash n).steps.toNat = k + 1 ∧ t.flash.cells = f.cells ∧ t.cores = s.cores)) ∧
    (x.opcode = 6 → (f.password = none → ends 0 fun t => t.flash.password = some x.arg) ∧
      (∀ p, f.password = some p → ends 0x09 fun t => t.flash.password = some p)) ∧
    (x.opcode = 7 → x.region < f.regions.length → ends 0 fun t =>
      t.flash.regions = f.regions.set x.region ⟨x.regionOn, fld x.arg 13 0, fld x.arg 29 16⟩)) ∧
  (∀ (s : State) (n : Nat), n < 2 →
    let f := s.flash
    ((∀ x, (chanOf f n).op = some x → x.opcode ≠ 4) → exec (.unlockCompletion n) s = .next s) ∧
    (∀ x, (chanOf f n).op = some x → x.opcode = 4 →
      (8 ≤ f.attempts → ∃ t, exec (.unlockCompletion n) s = .next t ∧ FlashEnded s t n 0x08 ∧ t.flash.attempts = f.attempts ∧
        (chanOf t.flash n).unlocked = (chanOf f n).unlocked) ∧
      (f.attempts < 8 → f.password = some x.arg → ∃ t, exec (.unlockCompletion n) s = .next t ∧ FlashEnded s t n 0 ∧
        t.flash.attempts = 0 ∧ (chanOf t.flash n).unlocked = true ∧ (chanOf t.flash (1 - n)).unlocked = (chanOf f (1 - n)).unlocked) ∧
      (f.attempts < 8 → f.password ≠ some x.arg → ∃ t, exec (.unlockCompletion n) s = .next t ∧ FlashEnded s t n 0x07 ∧
        t.flash.attempts = f.attempts + 1 ∧ (chanOf t.flash n).unlocked = (chanOf f n).unlocked)))

/-- R25, R342 to R349, R357, R358: a bulk request outside HBM, or where HBM accepts none, receives an error response; the
first faults its requester with E_ADDRESS. An accepted write makes its bytes what every later read of them returns and
changes no other byte; an accepted read's units are answered from entries that hold all their bytes, or queued with the data
the writes before them leave, waiting on partial entries. A real-time request moves bytes from the ingest buffer to the
write queues, and no byte of HBM reads differently for it. R344, R345, R347, R352 to R354: a read that waits for no entry
returns its data from an active stack, or an error response where the unit is uncorrectable, with the counts of MC_ECC_; its
request completes with its last unit. A write entry that may drain is written, and no byte of HBM reads differently for it;
a read-modify-write of an uncorrectable unit is not made, and the unit reports uncorrectable from then on. -/
def Obligations.HbmRequestsAreServed : Prop :=
  ((∀ (s : State) (r : HbmReq), r.realtime = false → r.requester < 0x1000 →
    (∀ o ∈ s.hbm.opens, o.requester ≠ r.requester ∨ o.tag ≠ r.tag) →
    let n := if r.write then r.data.length else r.len
    let units := unitsOf r.addr n
    n ≠ 0 →
    (r.addr + n ≤ 0xC00000000 → hbmDown s r.addr n = true → exec (.hbmRequest r) s =
      .next { s with hbm := { s.hbm with resps := s.hbm.resps ++ [⟨r.requester, r.tag, true, []⟩] } }) ∧
    (0xC00000000 < r.addr + n → ∃ t e, exec (.hbmRequest r) s = .next t ∧
      t.hbm = { s.hbm with resps := s.hbm.resps ++ [⟨r.requester, r.tag, true, []⟩] } ∧ t.cores = s.cores ∧
      t.log.entries = (e :: s.log.entries).take 256 ∧ e.cls = 1 ∧ e.unit = 6 ∧ e.code = 0x0107 ∧ e.address = r.addr) ∧
    (r.addr + n ≤ 0xC00000000 → hbmDown s r.addr n = false → hbmRoom s r.write units = true →
      (r.write = true → IngestClear s r.addr n → ∃ t, exec (.hbmRequest r) s = .next t ∧ hbmRead t r.addr n = r.data ∧
        (∀ a, a < r.addr ∨ r.addr + n ≤ a → hbmRead t a 1 = hbmRead s a 1) ∧ t.hbm.cells = s.hbm.cells ∧
        t.hbm.opens = s.hbm.opens ++ [⟨r.requester, r.tag, true, r.addr, n, units, false, []⟩] ∧
        t.hbm.resps = s.hbm.resps ∧ t.cores = s.cores) ∧
      (r.write = false → ∃ t, exec (.hbmRequest r) s = .next t ∧ t.hbm.cells = s.hbm.cells ∧ t.cores = s.cores ∧
        (∀ a m, hbmRead t a m = hbmRead s a m) ∧
        (∀ u ∈ units, (∀ w, (chanAt s (pcOf u)).writes.find? (fun w => w.unit == u) = some w → w.data.all (·.isSome) = false) →
          ∃ q ∈ (chanAt t (pcOf u)).reads, q.unit = u ∧ q.requester = r.requester ∧ q.tag = r.tag ∧
            q.data = hbmRead s (u * 32) 32 ∧
            (q.waits = true ↔ ∃ w ∈ (chanAt s (pcOf u)).writes, w.unit = u)) ∧
        (IngestClear s (r.addr / 32 * 32) (r.addr % 32 + n + 31) →
          (∀ u ∈ units, ∃ w, (chanAt s (pcOf u)).writes.find? (fun w => w.unit == u) = some w ∧ w.data.length = 32 ∧
            w.data.all (·.isSome) = true) →
          t.hbm.resps = s.hbm.resps ++ [⟨r.requester, r.tag, false, hbmRead s r.addr n⟩] ∧ t.hbm.opens = s.hbm.opens)))) ∧
  (∀ (s : State) (r : HbmReq) (g : Ingest) (rest : List Ingest), r.realtime = true → s.net.ingest = g :: rest →
    let n := min g.bytes.length (256 - g.addr % 256)
    let waits := s.hbm.srState.getD (pcOf (g.addr / 32) / 32 % 2) 0 ≠ 0 ∨ hbmRoom s true (unitsOf g.addr n) = false
    hbmDown s g.addr n = false →
    (waits → exec (.hbmRequest r) s = .next s) ∧
    (¬ waits → ∃ t, exec (.hbmRequest r) s = .next t ∧ (∀ a m, hbmRead t a m = hbmRead s a m) ∧ t.hbm.cells = s.hbm.cells ∧
      t.net.ingest = (if n = g.bytes.length then rest else { g with addr := g.addr + n, bytes := g.bytes.drop n } :: rest) ∧
      t.cores = s.cores ∧ t.host = s.host))) ∧
  ((∀ (s : State) (pc i : Nat) (ecc : Ecc),
    let ch := chanAt s pc
    let serves := s.hbm.srState.getD (pc / 32 % 2) 0 = 0 ∧ ch.failed = false ∧ s.hbm.trained = 3
    (∀ r, ch.reads[i]? = some r → r.waits = true ∨ ¬ serves → exec (.hbmReadComplete pc i ecc) s = .next s) ∧
    (ch.reads[i]? = none → exec (.hbmReadComplete pc i ecc) s = .next s) ∧
    (∀ r o, ch.reads[i]? = some r → r.waits = false → serves →
      s.hbm.opens.find? (fun x => x.requester == r.requester && x.tag == r.tag && x.left.contains r.unit) = some o →
      o.left.Nodup →
      let bad := r.unit ∈ s.hbm.bad ∨ ∃ row cor, ecc = .uncorrectable row cor
      ∃ t, exec (.hbmReadComplete pc i ecc) s = .next t ∧ (chanAt t pc).reads = ch.reads.eraseIdx i ∧
        t.hbm.cells = s.hbm.cells ∧ t.cores = s.cores ∧
        (o.left ≠ [r.unit] → t.hbm.resps = s.hbm.resps) ∧
        (o.left = [r.unit] → ¬ bad → o.error = false → o.write = false → t.hbm.resps = s.hbm.resps ++ [⟨r.requester, r.tag, false,
          slice ((unitsOf o.addr o.len).flatMap fun v => look (put o.got r.unit r.data) v []) (o.addr % 32) o.len⟩]) ∧
        (o.left = [r.unit] → bad ∨ o.error = true →
          t.hbm.resps = s.hbm.resps ++ [⟨r.requester, r.tag, true, []⟩]) ∧
        (¬ bad → t.hbm.eccUncorrected = s.hbm.eccUncorrected) ∧
        (¬ bad → ecc = .clean → t.hbm.eccCorrected = s.hbm.eccCorrected ∧ t.log = s.log) ∧
        (bad → ∃ e, t.log.entries.head? = some e ∧ e.cls = 1 ∧ e.code = 0x0202 ∧ e.address = r.unit * 32))) ∧
  (∀ (s : State) (pc i : Nat) (ecc : Ecc) (w : WriteUnit),
    let ch := chanAt s pc
    let serves := s.hbm.srState.getD (pc / 32 % 2) 0 = 0 ∧ ch.failed = false ∧ s.hbm.trained = 3
    ch.writes[i]? = some w →
    (¬ serves ∨ mayDrain s ch w = false → exec (.hbmWriteDrain pc i ecc) s = .next s) ∧
    (serves → mayDrain s ch w = true → pcOf w.unit = pc → w.data.length = 32 → (ch.writes.map (·.unit)).Nodup →
      memSorted s.hbm.cells = true →
      let spoilt := w.data.all (·.isSome) = false ∧ (w.unit ∈ s.hbm.bad ∨ ∃ row cor, ecc = .uncorrectable row cor)
      ∃ t, exec (.hbmWriteDrain pc i ecc) s = .next t ∧ (chanAt t pc).writes = ch.writes.eraseIdx i ∧ t.cores = s.cores ∧
        (∀ q ∈ (chanAt t pc).reads, q.unit = w.unit → q.waits = false) ∧
        (¬ spoilt → (∀ a m, hbmRead t a m = hbmRead s a m) ∧ w.unit ∉ t.hbm.bad) ∧
        (spoilt → t.hbm.cells = s.hbm.cells ∧ w.unit ∈ t.hbm.bad))) ∧
  (∀ (s : State) (pc i : Nat) (ecc : Ecc), (chanAt s pc).writes[i]? = none → exec (.hbmWriteDrain pc i ecc) s = .next s))

/-- R351, R352, R355 to R358: a wanted bank's refresh is postponed up to eight times, and then forced. An idle stack enters
self-refresh when MC_SR_CTRL.enable is 1, begins its exit with the first request, and serves again when the exit completes.
On a parity alert the commands in their windows are replayed, real-time ones dropped and counted; a fifth alert in a row
fails the pseudo-channel, a device-fatal error. Training ends well, or is device fatal. -/
def Obligations.HbmRefreshesAlertsAndTrains : Prop :=
  (∀ (s : State) (pc b : Nat), let ch := chanAt s pc
    (s.hbm.srState.getD (pc / 32 % 2) 0 ≠ 0 → exec (.refresh pc b) s = .next s) ∧
    (s.hbm.srState.getD (pc / 32 % 2) 0 = 0 → ∃ t, exec (.refresh pc b) s = .next t ∧
      look (chanAt t pc).postponed b 0 = (if bankWanted ch b = true ∧ look ch.postponed b 0 < 8 then look ch.postponed b 0 + 1 else 0) ∧
      chanAt t pc = { ch with postponed := (chanAt t pc).postponed } ∧ (∀ p, p ≠ pc → chanAt t p = chanAt s p) ∧
      t.hbm.cells = s.hbm.cells ∧ t.cores = s.cores)) ∧
  (∀ (s : State) (st : Nat), st < 2 → s.hbm.srState.length = 2 →
    let sr := s.hbm.srState.getD st 0
    let goes := fun (v : Nat) => { s with hbm := { s.hbm with srState := s.hbm.srState.set st v } }
    let idle := s.hbm.srEnable = true ∧ sr = 0 ∧ stackWanted s st = false ∧ s.hbm.trained = 3
    let wakes := sr = 1 ∧ stackWanted s st = true ∧ (s.pw.phase = .active ∨ s.pw.phase = .voile)
    (idle → exec (.selfRefreshEntry st) s = .next (goes 1)) ∧ (¬ idle → exec (.selfRefreshEntry st) s = .next s) ∧
    (wakes → exec (.selfRefreshExit st) s = .next (goes 2)) ∧ (¬ wakes → exec (.selfRefreshExit st) s = .next s) ∧
    (sr = 2 → exec (.selfRefreshExitComplete st) s = .next (goes 0)) ∧
    (sr ≠ 2 → exec (.selfRefreshExitComplete st) s = .next s)) ∧
  (∀ (s : State) (pc n m : Nat), pc < 64 →
    let ch := chanAt s pc
    let cmds := ch.retry.drop (ch.retry.length - n)
    let reads := (ch.reads.filter fun r => !r.waits).take m
    let tired := (∃ c ∈ cmds, c.entry.realtime = false ∧ 4 ≤ c.alerts) ∨ ∃ r ∈ reads, 4 ≤ r.alerts
    let u := Instr.caParityAlert pc n m
    (cmds = [] → reads = [] → exec u s = .next s) ∧ (ch.failed = true ∨ s.hbm.trained ≠ 3 → exec u s = .next s) ∧
    (cmds ≠ [] ∨ reads ≠ [] → ch.failed = false → s.hbm.trained = 3 →
      (tired → ∃ t, exec u s = .next t ∧ FatalTaken t 0x0204 ∧ t.hbm.fatal = true ∧ t.hbm.failedPc.toNat = pc ∧
        chanAt t pc = ⟨[], [], [], [], true⟩ ∧ t.hbm.cells = s.hbm.cells) ∧
      (¬ tired → ∃ t, exec u s = .next t ∧ t.hbm.fatal = s.hbm.fatal ∧
        t.hbm.caAlerts.toNat = min (s.hbm.caAlerts.toNat + 1) 0xFFFF ∧
        t.hbm.caDropped.toNat = min (s.hbm.caDropped.toNat + (cmds.filter fun c => c.entry.realtime).length) 0xFFFF ∧
        (chanAt t pc).retry = (cmds.filter fun c => !c.entry.realtime).map (fun c => { c with alerts := c.alerts + 1 }) ∧
        (chanAt t pc).writes = ch.writes ∧
        (∀ c, cmds = [c] → c.old.length = 32 → c.entry.data.length = 32 → memSorted s.hbm.cells = true →
          (c.entry.realtime = true → memRead t.hbm.cells (fun _ => 0) (c.entry.unit * 32) 32 = c.old) ∧
          (c.entry.realtime = false → c.entry.data.all (·.isSome) = true →
            memRead t.hbm.cells (fun _ => 0) (c.entry.unit * 32) 32 = c.entry.data.map fun b => b.getD 0)) ∧
        t.cores = s.cores))) ∧
  (∀ (s : State) (known : Bool) (ws : List Nat),
    let good := known = true ∧ ∀ w ∈ ws, 12 ≤ w
    (s.hbm.trainDone = true ∨ s.pw.pllLocked = false → exec (.hbmTraining known ws) s = .next s) ∧
    (s.hbm.trainDone = false → s.pw.pllLocked = true →
      (good → ∃ t, exec (.hbmTraining known ws) s = .next t ∧ t = { s with hbm := { s.hbm with
          trainDone := true
          trained := 3
          minWindow := t.hbm.minWindow } }) ∧
      (¬ good → ∃ t, exec (.hbmTraining known ws) s = .next t ∧ FatalTaken t 0x0205 ∧ t.hbm.trainDone = true ∧
        t.hbm.trainFailed = true ∧ t.hbm.fatal = true ∧ t.hbm.cells = s.hbm.cells)))

/-- R427 to R431: a packet meets the checks in their order, and the first it fails counts it; a data packet dropped for its
data or for want of room leaves no frame of its sequence in a slot (before the limit: assumption 31). One that passes enters
the ingest buffer, and with the last fragment its frame is accepted and a credit frame answers. CREDIT_PROBE sets the base
of a stream that has none and RESET_SEQUENCE sets it anew, past the frames a batch still holds before it; both are answered
by a credit frame. -/
def Obligations.PacketsAreCheckedAndTaken : Prop :=
  ∀ (s : State) (p : SspPacket) (i : Instr), i = .streamPacket p ∨ (i = .creditProbe p ∧ p.ptype = 3 ∧ p.format = 1) ∨
      (i = .resetSequence p ∧ p.ptype = 3 ∧ p.format = 2) →
    let s0 := setOccupancy s p.port p.prio p.occ
    let sid := p.stream
    let q := p.seq
    (¬ StreamHeard s p → exec i s = .next s) ∧
    (StreamHeard s p → s.net.dropping = false → (s.net.streams.map (·.sid)).Nodup →
      (malformed p = true → exec i s = .next (countDrop s0 0)) ∧
      (malformed p = false → boundStream s p = none → exec i s = .next (countDrop s0 1)) ∧
      ∀ st, malformed p = false → boundStream s p = some st →
        let beyond := st.based = true ∧ seqAfter (limitOf st) q = false
        let stale := st.based = true ∧ (seqAfter q st.last = false ∨ st.gaps.contains q = true)
        let old := st.frames.find? fun f => f.seq == q
        let f0 := old.getD ⟨q, [], none, p.frameBytes, p.timestamp, false, false, false⟩
        let f1 := { f0 with frags := f0.frags ++ [(p.frag, p.payloadBytes)], lastFrag := if p.last then some p.frag else f0.lastFrag }
        let full := 4194304 < s.hbm.rtLevel + p.payload.length
        let lost := fun (n : Nat) => ∃ t, exec i s = .next t ∧ t.net.drops = (countDrop s0 n).net.drops ∧
          (∀ y, streamOf t sid = some y → ∀ f ∈ y.frames, f.seq ≠ q) ∧ t.cores = s.cores ∧ t.hbm.cells = s.hbm.cells
        let credited := fun (t : State) (y : Stream) => y.based = true ∧ Sent s0 t p.port
          (.credit ⟨p.port, p.srcMac, p.vlan, p.srcAddr, p.srcPort⟩ sid (lowestOf y) (limitOf y) s.net.ptp s.net.creditPcp.toNat)
        (p.ptype ≠ 3 → badData p st.entry = true → beyond → exec i s = .next (countDrop s0 0)) ∧
        (p.ptype ≠ 3 → badData p st.entry = true → ¬ beyond → (st.based = true → seqAfter q st.last = true) →
          (∀ f ∈ st.frames, f.seq = q → f.admitted = false) → lost 0) ∧
        (p.ptype ≠ 3 → badData p st.entry = false → beyond ∨ slotTaken st q = true → exec i s = .next (countDrop s0 2)) ∧
        (p.ptype ≠ 3 → badData p st.entry = false → ¬ beyond → slotTaken st q = false → stale →
          exec i s = .next (countDrop s0 3)) ∧
        (p.ptype ≠ 3 → badData p st.entry = false → ¬ beyond → slotTaken st q = false → ¬ stale →
          (full → (∀ f ∈ st.frames, f.seq = q → f.admitted = false) → lost 4) ∧
          (¬ full → (∃ g ∈ f0.frags, g.1 = p.frag) → exec i s = .next s0) ∧
          (¬ full → (∀ g ∈ f0.frags, g.1 ≠ p.frag) → ∃ t y, exec i s = .next t ∧ streamOf t sid = some y ∧
            t.net.ingest = s.net.ingest ++ (if old.isSome then [] else [⟨sid, q, slotAddr st.entry q, slotHeader p, false⟩]) ++
              (if p.payload = [] then [] else [⟨sid, q, slotAddr st.entry q + 64 + fragOffset p, p.payload, true⟩]) ∧
            (frameComplete f1 = false → f1 ∈ y.frames.map (fun f => { f with accepted := f0.accepted }) ∧ y.based = st.based ∧
              t.net.out = s0.net.out) ∧
            (frameComplete f1 = true → (∃ f ∈ y.frames, f.seq = q ∧ f.accepted = true ∧ f.frags = f1.frags) ∧
              y.creditReq = p.creditRequest ∧ credited t y) ∧
            t.cores = s.cores ∧ t.hbm.cells = s.hbm.cells)) ∧
        (p.ptype = 3 → ∃ t y, exec i s = .next t ∧ streamOf t sid = some y ∧ credited t y ∧ t.cores = s.cores ∧
          (p.format = 1 → st.based = true → y.frames.length = st.frames.length ∧ (st.frames = [] → y.last = st.last)) ∧
          (p.format = 1 → st.based = false → st.frames = [] → y.last = q - 1 ∧ lowestOf y = q) ∧
          (p.format = 2 → y.last = q - 1 ∧ y.gaps = [] ∧ ∀ f ∈ y.frames, f.admitted = true) ∧
          (p.format = 2 → (∀ f ∈ st.frames, f.admitted = true → f.seq ≠ q ∧ seqAfter f.seq q = false) → lowestOf y = q)))

/-- R429, R435, R437, R547, R588: a frame whose reassembly time has passed is counted and holds no slot. A batch whose
deadline has passed closes while fewer than eight closed ones wait, and stays open otherwise. From step 3 of a Felt entry on
data frames are dropped and counted; after a device-fatal error they are dropped. R415, R417 to R420: a PFC frame pauses or
resumes exactly the lossless priorities it names, and a pause ends after its quanta; the frames kept for a resumed priority
leave. XOFF is sent above 64 KiB of a lossless priority's occupancy, again while it stays above, and XON below 32 KiB. Event
messages reach firmware with the PTP clock's value, frames with options without; fragments and damaged frames are discarded.
-/
def Obligations.FramesExpireAndPrioritiesPause : Prop :=
  ((∀ (s : State) (sid : Nat) (q : W32),
    let open1 := fun (st : Stream) => st.frames.any fun f => f.seq == q && !f.accepted
    (∀ st, streamOf s sid = some st → open1 st = false → exec (.reassemblyTimeout sid q) s = .next s) ∧
    (streamOf s sid = none → exec (.reassemblyTimeout sid q) s = .next s) ∧
    (∀ st, streamOf s sid = some st → open1 st = true → (∀ f ∈ st.frames, f.seq = q → f.admitted = false) →
      (st.based = true → seqAfter q st.last = true) → (s.net.streams.map (·.sid)).Nodup →
      ∃ t, exec (.reassemblyTimeout sid q) s = .next t ∧
      t.net.drops = (countDrop s 5).net.drops ∧ (∀ y, streamOf t sid = some y → ∀ f ∈ y.frames, f.seq ≠ q) ∧
      (∀ g ∈ t.net.ingest, g.sid = sid → g.seq ≠ q) ∧ t.cores = s.cores ∧ t.hbm.cells = s.hbm.cells)) ∧
  (∀ (s : State) (c : Nat), let b := openOf s c
    (b.frames = [] → exec (.batchDeadline c) s = .next s) ∧
    (b.frames ≠ [] → (closedOf s c).length < 8 → ∃ t more, exec (.batchDeadline c) s = .next t ∧
      t.net.closedB = s.net.closedB ++ (c, ⟨b.frames, false⟩) :: more ∧ t.cores = s.cores ∧ t.host = s.host ∧ t.net.out = s.net.out) ∧
    (b.frames ≠ [] → 8 ≤ (closedOf s c).length → ∃ t more, exec (.batchDeadline c) s = .next t ∧
      t.net.closedB = s.net.closedB ∧ openOf t c = ⟨b.frames ++ more, true⟩ ∧ t.cores = s.cores)) ∧
  (∀ (s : State) (p : SspPacket), StreamHeard s p → s.net.dropping = true → p.ptype ≠ 3 →
    let s0 := setOccupancy s p.port p.prio p.occ
    (∀ n, s.pw.phase = .entering true n → exec (.streamPacket p) s = .next (countDrop s0 4)) ∧
    (s.pw.phase = .active → exec (.streamPacket p) s = .next s0))) ∧
  ((∀ (s : State) (port : Nat) (quanta : List (Nat × Nat)),
    (receives s port = false → exec (.pfcFrame port quanta) s = .next s) ∧
    (receives s port = true → (quanta.map (·.1)).Nodup → ∃ t, exec (.pfcFrame port quanta) s = .next t ∧
      (∀ i, i < 8 → let was := (portAt s port).paused.getLsbD i
        let is := (portAt t port).paused.getLsbD i
        ((∀ v, (i, v) ∉ quanta) ∨ s.net.lossless.getLsbD i = false → is = was) ∧
        (∀ v, (i, v) ∈ quanta → s.net.lossless.getLsbD i = true → is = decide (v ≠ 0)) ∧
        (∀ v, (i, v) ∈ quanta → s.net.lossless.getLsbD i = true → v ≠ 0 → look (portAt t port).pause i 0 = v)) ∧
      (∀ p, p ≠ port → portAt t p = portAt s p) ∧ t.cores = s.cores ∧ t.host = s.host)) ∧
  (∀ (s : State) (port prio : Nat), prio < 8 → port < s.net.ports.length → let p := portAt s port
    (p.paused.getLsbD prio = false → exec (.pfcPauseEnd port prio) s = .next s) ∧
    (p.paused.getLsbD prio = true → ∃ t, exec (.pfcPauseEnd port prio) s = .next t ∧
      t.net.out = s.net.out ++ (p.held.filter fun f => f.1 == prio).map (·.2) ∧
      (portAt t port).held = (p.held.filter fun f => f.1 != prio) ∧ (portAt t port).paused.getLsbD prio = false ∧
      (∀ i, i ≠ prio → (portAt t port).paused.getLsbD i = p.paused.getLsbD i) ∧ t.cores = s.cores)) ∧
  (∀ (s : State) (port prio occ : Nat), prio < 8 → receives s port = true → let p := portAt s port
    p.occupancy.length = 8 →
    ∃ t, exec (.xoffRefresh port prio occ) s = .next t ∧ (portAt t port).occupancy = p.occupancy.set prio occ ∧
      (let lossless := s.net.lossless.getLsbD prio = true
       (lossless → 65536 < occ → (portAt t port).xoffSent.getLsbD prio = true ∧ t.net.out = s.net.out ++ [.pfc port prio 0xFFFF]) ∧
        (lossless → occ < 32768 → (portAt t port).xoffSent.getLsbD prio = false ∧
          t.net.out = s.net.out ++ (if p.xoffSent.getLsbD prio = true then [.pfc port prio 0] else [])) ∧
        (¬ lossless ∨ 32768 ≤ occ ∧ occ ≤ 65536 → (portAt t port).xoffSent = p.xoffSent ∧ t.net.out = s.net.out)) ∧
      t.cores = s.cores) ∧
  (∀ (s : State) (port prio occ : Nat) (kind : FrameKind),
    let i := Instr.receivedFrame port prio occ kind
    let s0 := setOccupancy s port prio occ
    (receives s port = false ∨ bufferFull s port prio occ = true → exec i s = .next s) ∧
    (receives s port = true → bufferFull s port prio occ = false →
      (kind = .ptpEvent → exec i s = .next { s0 with net := { s0.net with out := s0.net.out ++ [.toFirmware port (some s.net.ptp)] } }) ∧
      (kind = .arpNdIcmp ∨ kind = .ipOptions → exec i s =
        .next { s0 with net := { s0.net with out := s0.net.out ++ [.toFirmware port none] } }) ∧
      (kind = .ipFragment ∨ kind = .badFcs → exec i s = .next s))))

/-- R422, R423, R472: a RoCEv2 packet whose ICRC fails is counted; one in PSN order is carried out against the region and
rights of its queue pair and acknowledged, a refused access fails the queue pair, one ahead of order is reported once, and a
duplicate is acknowledged again. Acknowledgements end outstanding messages; a packet marked CE causes a CNP, at most one in
50 µs. -/
def Obligations.RocePacketsAreCarriedOut : Prop :=
  ∀ (s : State) (r : RocePacket),
    let i := Instr.rocePacket r
    let s0 := setOccupancy s r.port r.prio r.occ
    let heard := receives s r.port = true ∧ bufferFull s r.port r.prio r.occ = false
    (¬ heard → exec i s = .next s) ∧
    (heard → r.icrcOk = false → exec i s = .next { s0 with net := { s0.net with icrcBad := s0.net.icrcBad + 1 } }) ∧
    (heard → r.icrcOk = true → (∀ p, qpOf s r.qp = some p → p.error = true) → exec i s = .next s0) ∧
    ∀ p, heard → r.icrcOk = true → qpOf s r.qp = some p → p.error = false →
      let port := qpPort p.params
      let next := BitVec.ofNat 24 p.rqPsn
      let psn := BitVec.ofNat 24 r.psn
      let request := r.kind = .read ∨ r.kind = .send ∨ ∃ v, r.kind = .write v
      let fails := fun (f : OutFrame) => ∃ t, exec i s = .next t ∧ QpFailed t r.qp ∧ Sent s0 t port f ∧ t.hbm = s.hbm
      let acked := fun (t : State) => Sent s0 t port (.ack r.qp r.psn) ∧
        ∃ y, qpOf t r.qp = some y ∧ y.rqPsn = (psn + 1).toNat ∧ y.nakSent = false ∧ y.error = false
      (r.ce = true → (∀ c, p.cnpAt = some c → c + 50 ≤ s.timeUs) → r.kind = .rnrNak → ∃ t, exec i s = .next t ∧
        Sent s0 t port (.cnp r.qp) ∧ ∃ y, qpOf t r.qp = some y ∧ y.cnpAt = some s.timeUs ∧ y.rnrWait = true) ∧
      (r.ce = true → (∃ c, p.cnpAt = some c ∧ s.timeUs < c + 50) → r.kind = .rnrNak → ∃ t, exec i s = .next t ∧
        t.net.out = s0.net.out ∧ ∃ y, qpOf t r.qp = some y ∧ y.cnpAt = p.cnpAt ∧ y.rnrWait = true) ∧
      (r.ce = false →
        (request → next ≠ psn → (psn - next).toNat < 8388608 → p.nakSent = false → ∃ t, exec i s = .next t ∧ t.hbm = s.hbm ∧
          Sent s0 t port (.seqNak r.qp p.rqPsn) ∧ ∃ y, qpOf t r.qp = some y ∧ y = { p with nakSent := true }) ∧
        (request → next ≠ psn → (psn - next).toNat < 8388608 → p.nakSent = true → exec i s = .next s0) ∧
        (request → 8388608 ≤ (psn - next).toNat → ∃ t, exec i s = .next t ∧ t.hbm = s.hbm ∧
          Sent s0 t port (.ack r.qp (next - 1).toNat) ∧ qpOf t r.qp = some p) ∧
        (next = psn → linkOfQp s r.qp = none →
          (∀ v, r.kind = .write v →
            (peerMay p r.rkey 1 r.addr r.payload.length = true → hbmDown s r.addr r.payload.length = false →
              IngestClear s r.addr r.payload.length → ∃ t, exec i s = .next t ∧ acked t ∧ t.cores = s.cores ∧
                (memSorted s.hbm.cells = true → (∀ c ∈ s.hbm.chans, c.2.writes = []) →
                  hbmRead t r.addr r.payload.length = r.payload ∧
                  ∀ a, a < r.addr ∨ r.addr + r.payload.length ≤ a → hbmRead t a 1 = hbmRead s a 1)) ∧
            (peerMay p r.rkey 1 r.addr r.payload.length = true → hbmDown s r.addr r.payload.length = true →
              fails (.operationNak r.qp r.psn)) ∧
            (peerMay p r.rkey 1 r.addr r.payload.length = false → fails (.accessNak r.qp r.psn))) ∧
          (r.kind = .read →
            let n := packets (qpMtu p.params) r.len
            (peerMay p r.rkey 0 r.addr r.len = true → hbmBad s r.addr r.len = false → ∃ t, exec i s = .next t ∧ t.hbm = s.hbm ∧
              t.net.out = ((List.range n).foldl (fun x j => sendFrame x port (.readResponse r.qp
                (psn + BitVec.ofNat 24 j).toNat (slice (hbmRead s r.addr r.len) (j * qpMtu p.params) (qpMtu p.params)))) s0).net.out ∧
              ∃ y, qpOf t r.qp = some y ∧ y.rqPsn = (psn + BitVec.ofNat 24 n).toNat) ∧
            (peerMay p r.rkey 0 r.addr r.len = true → hbmBad s r.addr r.len = true → fails (.operationNak r.qp r.psn)) ∧
            (peerMay p r.rkey 0 r.addr r.len = false → fails (.accessNak r.qp r.psn))) ∧
          (r.kind = .send → ∃ t, exec i s = .next t ∧ acked t ∧ t.hbm = s.hbm)) ∧
        (r.kind = .ack ∨ r.kind = .readResponse →
          psnDist p.ackPsn r.psn < psnDist p.ackPsn p.sqPsn → ∃ t y, exec i s = .next t ∧ qpOf t r.qp = some y ∧
            y.ackPsn = (psn + 1).toNat ∧ y.retries = 0 ∧ (∀ m, m ∈ y.outstanding ↔ m ∈ p.outstanding ∧ psnDist p.ackPsn r.psn <
              psnDist p.ackPsn (psnAdd m.psn (packets (qpMtu p.params) m.payload.length - 1))) ∧ t.net.out = s0.net.out) ∧
        (r.kind = .rnrNak → ∃ t, exec i s = .next t ∧ qpOf t r.qp = some { p with rnrWait := true } ∧ t.net.out = s0.net.out) ∧
        (r.kind = .nak true → ∃ t, exec i s = .next t ∧ QpFailed t r.qp))

/-- R422, R423: a CNP lowers its queue pair's rate by the step, to no less than 1 % of the port's, and an interval without
one raises it by an eighth of a step, up to the port's; a percent counts 800. A lost acknowledgement or an RNR NAK whose
time has passed sends the outstanding messages again while the count of tries lasts, and fails the queue pair after it. R12,
R154, R159, R335, R336, R473: a sending link writes its next page, read as an unscheduled access once it is FULL, while its
credit is held, with the immediate that names the link and the page, and releases it when the Write is acknowledged (a
POISON page answers with an error); a receiving link returns the credit of a page its lane has released, as a Send. A
stopped link does none of it. A page that arrives on a link is written through unscheduled accesses into an EMPTY page and
committed; one that cannot be is tried again, and an error response fails the queue pair. -/
def Obligations.QueuePairsRetryAndLinksMovePages : Prop :=
  (∀ (s : State) (n : Nat), (∀ i ∈ [Instr.ackTimeout n, .rnrTimerExpiry n, .cnpReceive n, .rateIncrease n],
      qpOf s n = none → ∃ t, exec i s = .next t ∧ t.net.qps = s.net.qps ∧ t.net.out = s.net.out ∧ t.cores = s.cores) ∧
    ∀ p, qpOf s n = some p →
      let step := max 1 s.net.ecnStep.toNat
      let tries := fun (i : Instr) (y : Qp) => ∃ t, exec i s = .next t ∧ qpOf t n = some y ∧
        t.net.out = (p.outstanding.foldl (fun x m => emitMsg x y m) s).net.out ∧ t.hbm = s.hbm ∧ t.cores = s.cores
      (∃ t, exec (.cnpReceive n) s = .next t ∧ qpOf t n = some { p with rate := max 800 (p.rate - 800 * step) } ∧
        (∀ m, m ≠ n → qpOf t m = qpOf s m) ∧ t.net.out = s.net.out ∧ t.cores = s.cores) ∧
      (∃ t, exec (.rateIncrease n) s = .next t ∧ qpOf t n = some { p with rate := min 80000 (p.rate + 100 * step) } ∧
        (∀ m, m ≠ n → qpOf t m = qpOf s m) ∧ t.net.out = s.net.out ∧ t.cores = s.cores) ∧
      (p.error = true ∨ p.outstanding = [] → exec (.ackTimeout n) s = .next s) ∧
      (p.error = false → p.outstanding ≠ [] → p.retries < qpRetry p.params →
        tries (.ackTimeout n) { p with retries := p.retries + 1 }) ∧
      (p.error = false → p.outstanding ≠ [] → qpRetry p.params ≤ p.retries →
        ∃ t, exec (.ackTimeout n) s = .next t ∧ QpFailed t n) ∧
      (p.rnrWait = false → exec (.rnrTimerExpiry n) s = .next s) ∧
      (p.rnrWait = true → qpRnr p.params = 7 ∨ p.rnrRetries < qpRnr p.params →
        tries (.rnrTimerExpiry n) { p with rnrWait := false, rnrRetries := p.rnrRetries + 1 }) ∧
      (p.rnrWait = true → p.error = false → qpRnr p.params ≠ 7 → qpRnr p.params ≤ p.rnrRetries →
        ∃ t, exec (.rnrTimerExpiry n) s = .next t ∧ QpFailed t n)) ∧
  ((∀ (s : State) (n : Nat) (i : Instr), i = .linkPageSend n ∨ i = .linkWriteAck n ∨ (∃ x, i = .linkCreditReturn n x) →
    (linkOf s n = none → exec i s = .next s) ∧ (∀ l, linkOf s n = some l → l.stopped = true → exec i s = .next s)) ∧
  (∀ (s : State) (n : Nat) (l : Link) (p : Qp), linkOf s n = some l → qpOf s l.qp = some p → l.stopped = false →
    let posts := fun (s t : State) (imm : Option W32) (lk : Option (Nat × Nat)) (bs : Bytes) => ∃ y, qpOf t l.qp = some y ∧
      y.outstanding = p.outstanding ++ [⟨p.sqPsn, imm, lk, bs⟩] ∧ y.sqPsn = psnAdd p.sqPsn (packets (qpMtu p.params) bs.length) ∧
      t.net.out = (emitMsg s p ⟨p.sqPsn, imm, lk, bs⟩).net.out ∧ t.cores = s.cores ∧ t.hbm = s.hbm
    (∀ k g, linkPlace s l l.next = some (k, g) →
      let ready := l.role = 0 ∧ p.error = false ∧ p.rnrWait = false ∧ l.next ∈ l.credits
      let read := outsideAccess s k l.ctx (g * 4096) 4096 false []
      (¬ ready ∨ read = none → exec (.linkPageSend n) s = .next s) ∧
      (∀ s1, ready → read = some (s1, none) → exec (.linkPageSend n) s = .next s1) ∧
      (∀ s1 page, ready → read = some (s1, some page) → ∃ t, exec (.linkPageSend n) s = .next t ∧
        posts s1 t (some (BitVec.ofNat 32 (l.remote * 2 ^ 24 + l.next))) (some (n, l.next)) page ∧
        linkOf t n = some { l with
          credits := l.credits.filter (· != l.next)
          sent := l.sent ++ [l.next]
          next := (l.next + 1) % max 1 l.pages })) ∧
    (∀ idx rest, l.sent = idx :: rest →
      let waits := l.role ≠ 0 ∨ ∃ m ∈ p.outstanding, m.link = some (n, idx)
      (waits → exec (.linkWriteAck n) s = .next s) ∧
      let state := fun (k g : Nat) => tagState (tagOf (coreAt s k).sp g)
      (∀ k g, linkPlace s l idx = some (k, g) → state k g ≠ 1 → state k g ≠ 3 → exec (.linkWriteAck n) s = .next s) ∧
      (¬ waits → (∀ k g, linkPlace s l idx = some (k, g) → state k g = 1 ∨ state k g = 3) →
        ∃ t, exec (.linkWriteAck n) s = .next t ∧ linkOf t n = some { l with sent := rest } ∧ t.net.out = s.net.out ∧
        (∀ k g, linkPlace s l idx = some (k, g) → k < s.cores.length → memWf zeroDflt (coreAt s k).sp.tags = true →
          (state k g = 1 → tagOf (coreAt t k).sp g = releaseTag (tagOf (coreAt s k).sp g) ∧
            (∀ h, h ≠ g → tagOf (coreAt t k).sp h = tagOf (coreAt s k).sp h) ∧ (coreAt t k).sp.cells = (coreAt s k).sp.cells) ∧
          (state k g = 3 → t.cores = s.cores ∧ ∃ e, t.log.entries = (e :: s.log.entries).take 256 ∧ e.cls = 1 ∧
            (e.code = 0x0105 ∨ e.code = 0x0106) ∧ e.core = k ∧ e.address = g ∧ e.ctx = l.ctx)))) ∧
    (∀ idx k g, linkPlace s l idx = some (k, g) →
      let ready := l.role ≠ 0 ∧ p.error = false ∧ idx ∈ l.sent ∧ tagState (tagOf (coreAt s k).sp g) = 0
      (¬ ready → exec (.linkCreditReturn n idx) s = .next s) ∧
      (ready → ∃ t bs, exec (.linkCreditReturn n idx) s = .next t ∧ posts s t none none bs ∧ bs.length = 16 ∧
        rdLe bs 0 4 = 0x4B4E494C ∧ rdLe bs 4 1 = n % 256 ∧ rdLe bs 5 1 = idx % 256 ∧
        linkOf t n = some { l with sent := l.sent.filter (· != idx) }))) ∧
  (∀ (s : State) (r : RocePacket) (p : Qp) (l : Link) (v : W32) (k g : Nat),
    receives s r.port = true → bufferFull s r.port r.prio r.occ = false → r.icrcOk = true → r.ce = false →
    qpOf s r.qp = some p → p.error = false → BitVec.ofNat 24 p.rqPsn = BitVec.ofNat 24 r.psn → linkOfQp s r.qp = some l →
    r.kind = .write (some v) → l.stopped = false → l.role ≠ 0 → v.toNat / 2 ^ 24 = l.num →
    let idx := v.toNat % 64
    let page := p.got ++ r.payload
    let s0 := setOccupancy s r.port r.prio r.occ
    idx < l.pages → page.length = 4096 → linkPlace s l idx = some (k, g) → k < s.cores.length →
    let written := outsideAccess s0 k l.ctx (g * 4096) 4096 true page
    (written = none → ∃ t, exec (.rocePacket r) s = .next t ∧ t.cores = s.cores ∧
      Sent s0 t (qpPort p.params) (.rnrNak r.qp r.psn)) ∧
    (∀ s1, written = some (s1, none) → ∃ t, exec (.rocePacket r) s = .next t ∧ QpFailed t r.qp ∧ t.cores = s.cores ∧
      Sent s0 t (qpPort p.params) (.operationNak r.qp r.psn)) ∧
    (∀ c, tagState (tagOf (coreAt s k).sp g) = 0 → ctxOwns s l.ctx k g = true →
      atFree 64 (coreAt s k) ((accRows (g * 4096) 32).map (·.2)) = some c → c.reports = [] → memWf zeroDflt c.sp.tags = true →
      memWf (spWDflt c.sp) c.sp.cells = true → ∃ t, exec (.rocePacket r) s = .next t ∧
      spRead (coreAt t k).sp (g * 4096) 4096 = page ∧ tagOf (coreAt t k).sp g = commitTag (tagOf c.sp g) ∧
      (∀ h, h ≠ g → tagOf (coreAt t k).sp h = tagOf c.sp h) ∧
      (∀ j, j ≠ k → coreAt t j = coreAt s j) ∧ Sent s0 t (qpPort p.params) (.ack r.qp r.psn))))

/-- R414, R446, R450: NW_PORT_MODE.reset holds every lane of a port as its first lane's bit says; a port entering reset
loses its link, its queued frames and its registers. A port of the mode out of reset whose modules are up takes its link up
with every priority unpaused, resends what its queue pairs have outstanding and sends a credit frame for each of its
streams. A link that goes down drops the frames queued in its port. R444, R445, R452: each second the highest bias of each
lane and the module's hours are kept. Above 90 % of the threshold the wear alert is raised, once per insertion, with a log
entry and MALERT_N; it clears after an hour with every lane below 85 %. Every 24 hours the life record takes the hours and
the day's highest bias. -/
def Obligations.PortsLinkAndModulesAreSampled : Prop :=
  ((∀ (s : State) (v : Byte), ∃ t, exec (.portReset v) s = .next t ∧
    (∀ p, p < 8 → let n := 2 ^ (min 2 s.net.mode.toNat)
      t.net.portReset.getLsbD p = v.getLsbD (p / n * n) ∧
      (p < s.net.ports.length → portAt t p = if t.net.portReset.getLsbD p = true then Port.reset else portAt s p)) ∧
    t.net = { s.net with
      portReset := t.net.portReset
      ports := t.net.ports } ∧ t.cores = s.cores ∧ t.host = s.host) ∧
  (∀ (s : State) (p : Nat), p < s.net.ports.length →
    let may := (portAt s p).linkUp = false ∧ mayLink s p = true ∧ flashUp s = true
    (¬ may → exec (.linkUp p) s = .next s) ∧
    (may → (s.net.qps.map (·.num)).Nodup → (s.net.streams.map (·.sid)).Nodup →
      ∃ t, exec (.linkUp p) s = .next t ∧ portAt t p = { Port.reset with linkUp := true } ∧
      (∀ q, q ≠ p → portAt t q = portAt s q) ∧ (∃ sent, t.net.out = s.net.out ++ sent) ∧
      (∀ st ∈ s.net.streams, st.port = p → streamValid st = true → st.based = true →
        s.net.dropping = false →
        OutFrame.credit (pathOf st) st.sid (lowestOf st) (limitOf st) s.net.ptp s.net.creditPcp.toNat ∈ t.net.out) ∧
      t.cores = s.cores ∧ t.host = s.host ∧ t.net.streams = s.net.streams ∧ t.net.qps = s.net.qps) ∧
    exec (.linkDown p) s = .next { s with net := { s.net with ports := s.net.ports.set p { portAt s p with
      linkUp := false
      held := [] } } })) ∧
  (∀ (s : State) (c : Nat) (bias : List Nat), c < s.net.cages.length → let g := cageAt s c
    let worn := 0 < g.threshold ∧ ∃ b ∈ bias, 90 * g.threshold < 100 * b
    let low := ∀ b ∈ bias, 100 * b < 85 * g.threshold
    (g.active = false → exec (.txBiasSample c bias) s = .next s ∧ exec (.lifeRecordWrite c) s = .next s) ∧
    (g.active = true → ∃ t, exec (.txBiasSample c bias) s = .next t ∧
      (let h := cageAt t c
       h.seconds = g.seconds + 1 ∧ (low → h.lowSeconds = g.lowSeconds + 1) ∧ (¬ low → h.lowSeconds = 0) ∧
        (∀ j, j < 8 → h.dayBias.getD j 0 = max (g.dayBias.getD j 0) (bias.getD j 0)) ∧
        (worn → g.wearRaised = false → h.wear = true ∧ h.wearRaised = true ∧ t.mg.alert.getLsbD 1 = true) ∧
        (¬ worn ∨ g.wearRaised = true → h.wearRaised = g.wearRaised ∧ t.log = s.log ∧ t.mg = s.mg ∧
          (h.wear = true ↔ g.wear = true ∧ h.lowSeconds < 3600)) ∧
        h = { g with
          seconds := h.seconds
          lowSeconds := h.lowSeconds
          dayBias := h.dayBias
          maxBias := h.maxBias
          wear := h.wear
          wearRaised := h.wearRaised }) ∧
      (∀ d, d ≠ c → cageAt t d = cageAt s d) ∧ t.net.ports = s.net.ports ∧ t.cores = s.cores ∧ t.flash = s.flash) ∧
    (g.active = true → lifeOf s g.serial = none → exec (.lifeRecordWrite c) s = .next s) ∧
    (∀ o, g.active = true → lifeOf s g.serial = some o → o.length = 128 → ∃ t r, exec (.lifeRecordWrite c) s = .next t ∧
      lifeOf t g.serial = some r ∧ rdLe r 0x30 4 = (rdLe o 0x30 4 + g.seconds / 3600) % 2 ^ 32 ∧
      (∀ j, j < 8 → rdLe r (0x4C + 2 * j) 2 = g.dayBias.getD j 0 % 2 ^ 16) ∧
      rdLe r 0x5C 4 = s.net.ptp / 1000000000 % 2 ^ 32 ∧ slice r 0 0x30 = slice o 0 0x30 ∧ (cageAt t c).dayBias = [] ∧
      (cageAt t c).seconds = g.seconds % 3600 ∧ t.cores = s.cores))

/-- R442 to R445, R452: an inserted module of a cage in use has its reset released and waits for ModuleReady; one that does
not answer, or fails a step, stays in low-power mode with the step recorded and an entry written. One that passes is active,
and its life record is created, or counts one more insertion. A removed module's ports go down and its record is written. -/
def Obligations.ModulesComeUpAndGo : Prop :=
  (∀ (s : State) (c : Nat), c < s.net.cages.length → let g := cageAt s c
    let used := if s.net.cageWidth = true then c < 2 else c < 4
    let put := fun (x : Cage) => { s with net := { s.net with cages := s.net.cages.set c x } }
    (g.present = true ∨ ¬ used → exec (.moduleInsert c) s = .next s) ∧
    (g.present = false → used → exec (.moduleInsert c) s = .next (put { Cage.reset with
      present := true
      bringUp := true
      rstReleased := true
      lpMode := true })) ∧
    (g.bringUp = false → exec (.moduleReadyTimeout c) s = .next s) ∧
    (g.bringUp = true → g.active = false → ∃ t, exec (.moduleReadyTimeout c) s = .next t ∧ ModuleFailed t c 2 ∧
      t.net.ports = s.net.ports ∧ t.flash = s.flash)) ∧
  (∀ (s : State) (c : Nat) (serial vendor part : Bytes) (th : Nat) (rate : Bool) (step : Nat) (bias : List Nat),
    c < s.net.cages.length → let g := cageAt s c
    let i := Instr.moduleReady c serial vendor part th rate step bias
    let id := padAscii 16 serial
    (g.bringUp = false → exec i s = .next s) ∧
    (g.bringUp = true → g.active = false → 1 ≤ step → step ≤ 4 → ∃ t, exec i s = .next t ∧ ModuleFailed t c step ∧
      t.flash = s.flash) ∧
    (g.bringUp = true → g.active = false → step = 0 ∨ 5 ≤ step → (rate = false ∨ step ≠ 0) →
      ∃ t, exec i s = .next t ∧ ModuleFailed t c 5 ∧ (lifeOf t id ≠ none)) ∧
    (g.bringUp = true → rate = true → step = 0 → (∀ o, lifeOf s id = some o → o.length = 128) → ∃ t r, exec i s = .next t ∧
      cageAt t c = { g with
        bringUp := false
        active := true
        lpMode := false
        threshold := th
        serial := id } ∧ lifeOf t id = some r ∧ slice r 0 16 = id ∧ rdLe r 0x38 2 = th % 2 ^ 16 ∧
      rdLe r 0x5C 4 = s.net.ptp / 1000000000 % 2 ^ 32 ∧
      (lifeOf s id = none → rdLe r 0x34 4 = 1 ∧ rdLe r 0x30 4 = 0 ∧ slice r 0x10 16 = padAscii 16 vendor ∧
        slice r 0x20 16 = padAscii 16 part ∧ ∀ j, j < 8 → rdLe r (0x3C + 2 * j) 2 = bias.getD j 0 % 2 ^ 16) ∧
      (∀ o, lifeOf s id = some o → rdLe r 0x34 4 = (rdLe o 0x34 4 + 1) % 2 ^ 32 ∧
        slice r 0x3C 16 = slice o 0x3C 16 ∧ rdLe r 0x30 4 = rdLe o 0x30 4) ∧
      (s.flash.lives.length ≤ 256 → t.flash.lives.length ≤ 256) ∧ t.net.ports = s.net.ports)) ∧
  (∀ (s : State) (c : Nat), c < s.net.cages.length → let g := cageAt s c
    (g.present = false → exec (.moduleRemove c) s = .next s) ∧
    (g.present = true → ∃ t, exec (.moduleRemove c) s = .next t ∧ cageAt t c = Cage.reset ∧
      (∀ d, d ≠ c → cageAt t d = cageAt s d) ∧
      (∀ p, p < 8 → portInMode s.net.mode p = true →
        (∃ j, j < 2 ^ (min 2 s.net.mode.toNat) ∧ cageOf s (p + j) = c) → (portAt t p).linkUp = false) ∧
      (∀ o, g.active = true → lifeOf s g.serial = some o → o.length = 128 → ∃ r, lifeOf t g.serial = some r ∧
        rdLe r 0x30 4 = (rdLe o 0x30 4 + g.seconds / 3600) % 2 ^ 32 ∧ slice r 0x34 40 = slice o 0x34 40) ∧ t.cores = s.cores))

/-- R382, R388, R513 to R518: a short command is discarded while one runs, and one that writes the buffer completes with
E_MG_BUSY while a dump's data is ready. FLASH_READ, LOG_READ, FW_INFO and ATTEST answer in the buffer, the last two once
firmware serves them, with E_MG_NO_FIRMWARE after the time; READ_INFO, UNLOCK and LOCK run on channel 1; CONTINUE starts the
dump's next step, and ABORT ends a dump at once and a flash operation at its step boundary. The bytes of FW_INFO are free
values (assumption 12). -/
def Obligations.ManagementShortCommandsAnswer : Prop :=
  (∀ (s : State) (i : Instr), i ∈ [Instr.mgFlashRead, .logRead, .fwInfo, .mgAttest, .mgFlashReadInfo, .mgFlashUnlock, .mgFlashLock,
      .mgContinue, .mgAbort, .calicoWriteConfig, .calicoWriteEntry, .calicoRestart, .calicoStop] →
    mgUp s = false ∨ s.mg.shortState = 1 → exec i s = .next s) ∧
  (∀ s : State, mgUp s = true → s.mg.shortState ≠ 1 →
    let a := s.mg.arg
    let off := fld a 29 0
    let n := fld a 41 32 + 1
    let f := s.flash
    let answers := fun (i : Instr) (bs : Bytes) => ∃ t, exec i s = .next t ∧ ShortEnded s t 0 ∧
      t.mg.buf.take bs.length = bs ∧ t.flash.cells = f.cells
    (s.mg.longState = 2 → ∀ i ∈ [Instr.mgFlashRead, .logRead, .fwInfo, .mgAttest, .mgFlashReadInfo],
      exec i s = .next (answered s 0x40)) ∧
    (s.mg.longState ≠ 2 →
      (512 < n ∨ 1073741824 < off + n → exec .mgFlashRead s = .next (answered s 0x42)) ∧
      (n ≤ 512 → off + n ≤ 1073741824 → ∃ t, exec .mgFlashRead s = .next t ∧ ShortEnded s t 0) ∧
      (n ≤ 512 → off + n ≤ 1073741824 → minWait f ≤ f.waitStates.toNat → wornBad f off n = false →
        (∀ w, off / 32 ≤ w → 32 * w < off + n → statusReason f (32 * w) = none) → answers .mgFlashRead (flashBytes f off n)) ∧
      answers .logRead ((List.range 8).flatMap fun j => logSlot s (fld a 7 0 + j)) ∧
      (fwServes s = true → answers .fwInfo ((List.range 16).map (Config.infoByte s.freeCtr)) ∧
        answers .mgAttest (attestReport s (slice s.mg.buf 0 32))) ∧
      (fwServes s = false → ∀ p ∈ [(Instr.fwInfo, 0x80), (Instr.mgAttest, 0x85)], exec p.1 s = .next { s with mg := { s.mg with
        shortState := 1
        mailbox := some p.2 } })) ∧
    (∀ p ∈ [(Instr.mgFlashReadInfo, 3), (Instr.mgFlashUnlock, 4), (Instr.mgFlashLock, 5)], s.mg.longState ≠ 2 ∨ p.2 ≠ 3 →
      (f.ch1.op ≠ none → exec p.1 s = .next (answered s 0x01)) ∧
      (f.ch1.op = none → feltBegun s = true → exec p.1 s = .next (answered s 0x0B)) ∧
      (FlashIdle s → s.mg.long ≠ .program → s.mg.long ≠ .erase → ∃ t, exec p.1 s = .next t ∧ t.flash.cells = f.cells ∧
        (p.2 = 3 → ShortEnded s t 0 ∧ (8 ≤ s.mg.buf.length → rdLe t.mg.buf 0 8 = t.flash.ch1.resultReg.toNat) ∧
          fld t.flash.ch1.resultReg 23 0 = min (look f.eraseCount (off / 65536) 0) 0xFFFFFF) ∧
        (p.2 = 5 → ShortEnded s t 0 ∧ t.flash.ch1.unlocked = false) ∧
        (p.2 = 4 → t.mg.shortState = 1 ∧ t.mg.shortFlash = true ∧
          ∃ x, t.flash.ch1.op = some x ∧ x.opcode = 4 ∧ x.arg = a))) ∧
    (∀ first left, s.mg.long = .dump first left → let m := min 8 left
      (∃ t, exec .mgContinue s = .next t ∧ t.mg.shortState = 3 ∧ t.mg.shortResult = 0 ∧
        t.mg.buf.take (64 * m) = (List.range m).flatMap (fun j => logSlot s (first + j)) ∧ (left ≤ 8 → LongEnded t 0) ∧
        (8 < left → t.mg.longState = 2 ∧ t.mg.long = .dump (first + 8) (left - 8) ∧ t.mg.alert.getLsbD 4 = true) ∧
        t.cores = s.cores) ∧
      exec .mgAbort s = .next (answered { s with mg := { s.mg with
        longState := 3
        longResult := 0x44
        long := .none } } 0)) ∧
    ((∀ x y, s.mg.long ≠ .dump x y) → exec .mgContinue s = .next (answered s 0)) ∧
    (s.mg.long = .none → exec .mgAbort s = .next (answered s 0)) ∧
    (∀ x, s.mg.long = .program ∨ s.mg.long = .erase → FlashReady s → f.ch1.op = some x →
      ∃ t, exec .mgAbort s = .next t ∧ t.mg.shortState = 3 ∧ t.mg.shortResult = 0 ∧ t.flash.cells = f.cells ∧
        (f.step = some 1 → t.flash.ch1.op = some { x with abort := true } ∧ t.mg.longState = s.mg.longState) ∧
        (f.step ≠ some 1 → t.flash.ch1.op = none ∧ LongEnded t 0x0B))) ∧
  (∀ s : State, (s.mg.mailbox = none → exec .mailboxTimeout s = .next s) ∧
    (s.mg.mailbox ≠ none → exec .mailboxTimeout s = .next (answered { s with mg := { s.mg with mailbox := none } } 0x43)))

/-- R382, R389, R390, R513 to R517: a long command written while one is in progress, or has data ready, completes with
E_MG_BUSY in the short result. LOG_DUMP puts its first eight entries into the buffer; FLASH_PROGRAM and FLASH_ERASE open
their operation on channel 1, FLASH_PROGRAM with the buffer as the page, or end with the flash's refusal. -/
def Obligations.ManagementLongCommandsRun : Prop :=
  (∀ (s : State) (i : Instr), i ∈ [Instr.mgFlashProgram, .mgFlashErase, .logDump] →
    (mgUp s = false → exec i s = .next s) ∧
    (mgUp s = true → s.mg.longState = 1 ∨ s.mg.longState = 2 →
      (s.mg.shortState = 1 → exec i s = .next { s with mg := { s.mg with shortResult := 0x40 } }) ∧
      (s.mg.shortState ≠ 1 → exec i s = .next (answered s 0x40)))) ∧
  (∀ s : State, mgUp s = true → s.mg.longState ≠ 1 → s.mg.longState ≠ 2 →
    let first := fld s.mg.arg 7 0
    let n := fld s.mg.arg 16 8
    let f := s.flash
    let a := s.mg.arg.toNat % 2 ^ 30
    let sec := a / 65536
    let ends := fun (i : Instr) (r : Nat) => ∃ t, exec i s = .next t ∧ LongEnded t r ∧ t.flash.cells = f.cells ∧
      t.flash.openFlags = f.openFlags ∧ t.mg.shortState = s.mg.shortState ∧ t.cores = s.cores
    let opens := fun (i : Instr) (op : Nat) (d : Bytes) (l : LongCmd) => ∃ t, exec i s = .next t ∧
      t.flash.ch1.op = some ⟨op, a, d, s.mg.arg, 0, false, false⟩ ∧ t.flash.ch1.steps = 0 ∧ t.flash.step = some 1 ∧
      t.mg.longState = 1 ∧ t.mg.longSteps = 0 ∧ t.mg.long = l ∧ t.mg.shortState = s.mg.shortState ∧ t.flash.cells = f.cells ∧
      (op = 2 → sec ∈ t.flash.openFlags) ∧ t.cores = s.cores
    (n = 0 ∨ 256 < n → ends .logDump 0x42) ∧
    (0 < n → n ≤ 256 → ∃ t, exec .logDump s = .next t ∧
      t.mg.buf.take (64 * min 8 n) = (List.range (min 8 n)).flatMap (fun j => logSlot s (first + j)) ∧ t.mg.longSteps = 1 ∧
      (n ≤ 8 → LongEnded t 0) ∧ (8 < n → t.mg.longState = 2 ∧ t.mg.long = .dump (first + 8) (n - 8) ∧
        t.mg.alert.getLsbD 4 = true) ∧ t.mg.shortState = s.mg.shortState ∧ t.cores = s.cores) ∧
    (∀ i, i = .mgFlashProgram ∨ i = .mgFlashErase → (f.ch1.op ≠ none → ends i 0x01) ∧
      (f.ch1.op = none → feltBegun s = true → ends i 0x0B)) ∧
    (FlashIdle s →
      (a % 512 ≠ 0 → ends .mgFlashProgram 0x0A) ∧
      (a % 512 = 0 → flashLocked f f.ch1 sec = true → ends .mgFlashProgram 0x02) ∧
      (a % 512 = 0 → flashLocked f f.ch1 sec = false → f.incomplete.contains sec = true → ends .mgFlashProgram 0x04) ∧
      (a % 512 = 0 → flashLocked f f.ch1 sec = false → f.incomplete.contains sec = false →
        (¬ (∀ i, i < 512 → flashByte f (a + i) = 0xFF) → ends .mgFlashProgram 0x03) ∧
        ((∀ i, i < 512 → flashByte f (a + i) = 0xFF) → memSorted f.ch1.buf = true →
          opens .mgFlashProgram 1 (fitBytes 512 s.mg.buf) .program)) ∧
      (flashLocked f f.ch1 sec = true → ends .mgFlashErase 0x02) ∧
      (flashLocked f f.ch1 sec = false → ∃ d, opens .mgFlashErase 2 d .erase)))

/-- R507, R508, R510, R519 to R521, R581: a management soft reset ends the long command, its flash operation at the step
boundary, resets the registers of its domain and nothing outside the port. Each access of MG_BUF_DATA moves MG_BUF_PTR on.
The lowest byte of a register latches all of it. The window reads and writes MG_WIN_ADDR; where it may not, a read returns
0xFFFF_FFFF, a write has no effect, and the error bit says so. R506, R509, R511: the port takes a dynamic address by ENTDAA,
by SETDASA for its static address, or by SETNEWDA for one it has, and gives it up at RSTDAA; ENEC and DISEC enable and
disable its in-band interrupts; the GET codes answer without changing it (their bytes are free values, assumption 12).
TELEMETRY_SAMPLE takes every temperature and power, and in Felt the management island's temperature and the package power
alone. -/
def Obligations.ManagementPortAndBusAreServed : Prop :=
  ((∀ s : State, mgUp s = false → exec .mgSoftReset s = .next s ∧ exec .windowRead s = .next s ∧ exec .windowWrite s = .next s ∧
    (∀ w v, exec (.mgBufDataAccess w v) s = .next s) ∧ ∀ o, exec (.multibyteLatchRead o) s = .next s) ∧
  (∀ s : State, mgUp s = true →
    let g := s.mg
    (∃ t, exec .mgSoftReset s = .next t ∧ t.mg.longState = 0 ∧ t.mg.shortState = 0 ∧ t.mg.longSteps = 0 ∧ t.mg.longResult = 0 ∧
      t.mg.shortResult = 0 ∧ t.mg.long = .none ∧ t.mg.mailbox = none ∧ t.mg.arg = 0 ∧ t.mg.bufPtr = 0 ∧ t.mg.winAddr = 0 ∧
      t.mg.winData = 0 ∧ t.mg.winBusy = false ∧ t.mg.winError = false ∧ t.mg.held = [] ∧ t.cores = s.cores ∧ t.hbm = s.hbm ∧
      t.pw = s.pw ∧ t.mg.dynAddr = g.dynAddr ∧ t.mg.pwrRb = g.pwrRb ∧ t.mg.temps = g.temps ∧ t.mg.regOffset = g.regOffset ∧
      (g.long ≠ .program → g.long ≠ .erase → t.flash = s.flash ∧ t.host = s.host ∧ t.mg.alert = g.alert) ∧
      (∀ x, g.long = .program ∨ g.long = .erase → FlashReady s → s.flash.ch1.op = some x → s.flash.step = some 1 →
        t.flash.ch1.op = some { x with abort := true } ∧ t.flash.step = some 1)) ∧
    (∀ v, exec (.mgBufDataAccess true v) s = .next { s with mg := { g with
      buf := g.buf.set g.bufPtr.toNat v
      bufPtr := g.bufPtr + 1
      regOffset := 0x1B } } ∧
      exec (.mgBufDataAccess false v) s = .next { s with mg := { g with
        lastRead := [g.buf.getD g.bufPtr.toNat 0]
        bufPtr := g.bufPtr + 1
        regOffset := 0x1B } }) ∧
    (∀ o base n v, o < 256 → o ≠ 0x1A → mgReg s o = (base, n, v) → ∃ t, exec (.multibyteLatchRead o) s = .next t ∧
      t.mg.regOffset = (o + 1) % 256 ∧ (n = 1 → t.mg.lastRead = [(toLe n v).getD (o - base) 0] ∧ t.mg.latches = g.latches) ∧
      (n ≠ 1 → o = base → t.mg.lastRead = [(toLe n v).getD 0 0] ∧ look t.mg.latches base [] = toLe n v) ∧
      (n ≠ 1 → o ≠ base → t.mg.latches = g.latches ∧ t.mg.lastRead = [(look g.latches base (toLe n v)).getD (o - base) 0]) ∧
      t = { s with mg := { g with
        latches := t.mg.latches
        lastRead := t.mg.lastRead
        regOffset := t.mg.regOffset } }) ∧
    (g.winBusy = false →
      let a := g.winAddr.toNat / 4 * 4
      let done := fun (x : State) (e : Bool) (v : W32) => { x with mg := { x.mg with
        winError := e
        winData := v } }
      (winRefused s false a = true → exec .windowRead s = .next (done s true 0xFFFFFFFF)) ∧
      (winRefused s true a = true → exec .windowWrite s = .next (done s true g.winData)) ∧
      (∀ b o, regBlock a = some (b, o) → winRefused s false a = false → ∃ t, exec .windowRead s = .next t ∧
        t.mg.winError = false ∧ t.cores.length = s.cores.length ∧ t.hbm = s.hbm ∧
        (isWide b o = true → t.mg.winData = BitVec.ofNat 32 (blockRead s b o) ∧ t.mg.winHigh = BitVec.ofNat 32 (blockRead s b (o + 4))) ∧
        (isWide b o = false → 4 ≤ o → isWide b (o - 4) = true → t.mg.winData = g.winHigh) ∧
        (isWide b o = false → o < 4 ∨ isWide b (o - 4) = false → t.mg.winData = BitVec.ofNat 32 (blockRead s b o))) ∧
      (∀ b o, regBlock a = some (b, o) → winRefused s true a = false →
        (isWide b o = true → exec .windowWrite s = .next (done { s with mg := { g with winLow := some (a, g.winData) } } false g.winData)) ∧
        (isWide b o = false → 4 ≤ o → isWide b (o - 4) = true → ∀ low, g.winLow = some (a - 4, low) → 4 ≤ a →
          exec .windowWrite s = .next (blockWrite (done { s with mg := { g with winLow := none } } false g.winData) .window b (o - 4)
            (g.winData.toNat * 2 ^ 32 + low.toNat))) ∧
        (isWide b o = false → o < 4 ∨ isWide b (o - 4) = false →
          exec .windowWrite s = .next (blockWrite (done s false g.winData) .window b o g.winData.toNat)))) ∧
    (∀ a, regBlock a = none → winRefused s false a = true ∧ winRefused s true a = true) ∧
    (∀ a o, regBlock a = some (7, o) → (winRefused s true a = false ↔ o = 0x10) ∧ winRefused s false a = false) ∧
    (∀ a o, regBlock a = some (0, o) → 0xE000 ≤ o → winRefused s false a = true ∧ winRefused s true a = true))) ∧
  (∀ s : State,
    let g := s.mg
    let becomes := fun (i : Instr) (x : Mg) => exec i s = .next (if mgUp s = true then { s with mg := x } else s)
    (∀ a, becomes (.entdaa a) { g with dynAddr := some (g.dynAddr.getD (a % 128)) }) ∧
    (∀ p a, becomes (.setdasa p a) (if p = g.staticAddr then { g with dynAddr := some (g.dynAddr.getD (a % 128)) } else g)) ∧
    (∀ a, becomes (.setnewda a) { g with dynAddr := if g.dynAddr = none then none else some (a % 128) }) ∧
    becomes .rstdaa { g with dynAddr := none } ∧
    (∀ e : Byte, becomes (.enec e) { g with ibiEnabled := g.ibiEnabled || e.getLsbD 0 }) ∧
    (∀ e : Byte, becomes (.disec e) { g with ibiEnabled := g.ibiEnabled && !e.getLsbD 0 }) ∧
    (∀ p ∈ [(Instr.getpid, 6), (Instr.getbcr, 1), (Instr.getdcr, 1), (Instr.getstatus, 2), (Instr.getmwl, 2), (Instr.getmrl, 3)],
      (mgUp s = false → exec p.1 s = .next s) ∧
      (mgUp s = true → ∃ t bs, exec p.1 s = .next t ∧ bs.length = p.2 ∧ t = { s with
        freeCtr := t.freeCtr
        mg := { g with lastRead := bs } })) ∧
    (∀ temps total core hbm, let i := Instr.telemetrySample temps total core hbm
      (s.pw.phase = .off → exec i s = .next s) ∧
      (s.pw.phase = .felt → exec i s = .next { s with mg := { g with
        temps := g.temps.set 7 (temps.getD 7 0)
        powers := g.powers.set 0 total } }) ∧
      (s.pw.phase ≠ .off → s.pw.phase ≠ .felt → ∃ t, exec i s = .next t ∧ t = { s with mg := { g with
          temps := t.mg.temps
          powers := [total, core, hbm] } } ∧
        t.mg.temps.length = 8 ∧ ∀ j, j < 8 → t.mg.temps.getD j 0 = temps.getD j 0)))

/-- R525, R526: CALICO_WRITE_CONFIG stores a record that passes its checks, with the sequence number after the current one;
CALICO_WRITE_ENTRY writes the directory anew with the entry in its place, under a header that fits. A record or entry that
fails completes with E_MG_ARG and changes nothing. While firmware does not serve the mailbox a command waits for it. How the
directory's sector is rewritten is assumption 46. R527, R531: Calico starts at the end of firmware's start-up, and anew at
CALICO_RESTART, when its record enables it: the ports and the stream engine are set as the record says, and each enabled
entry of the catalogue takes an UNLOADED context or is counted as skipped. Without an enabled record it is OFF. CALICO_STOP
gives up its contexts and stops. -/
def Obligations.CalicoIsConfiguredAndStarted : Prop :=
  (∀ s : State, mgUp s = true → s.mg.shortState ≠ 1 →
    (fwServes s = false → ∀ p ∈ [(Instr.calicoWriteConfig, 0x81), (.calicoWriteEntry, 0x82), (.calicoRestart, 0x83),
      (.calicoStop, 0x84)], exec p.1 s = .next { s with mg := { s.mg with
        shortState := 1
        mailbox := some p.2 } }) ∧
    (fwServes s = true →
      let r := slice (fitBytes 512 s.mg.buf) 0 256
      let i := fld s.mg.arg 3 0
      let e := slice (fitBytes 512 s.mg.buf) 0 128
      let dir := flashBytes s.flash 0x04000000 2112
      let bad := badCatalogue e = true ∨
        dirValid dir = true ∧ ∃ j, j < 16 ∧ j ≠ i ∧ rangesMeet e (catalogue dir j) = true
      (badRecord r = true → exec .calicoWriteConfig s = .next (answered s 0x42)) ∧
      (badRecord r = false → ∃ t, exec .calicoWriteConfig s = .next t ∧ ShortEnded s t 0 ∧ t.flash.cells = s.flash.cells ∧
        (let n := t.flash.record
         n.length = 256 ∧ rdLe n 8 4 = (rdLe s.flash.record 8 4 + 1) % 2 ^ 32 ∧ slice n 0 8 = slice r 0 8 ∧
          slice n 0x0C 0xF0 = slice r 0x0C 0xF0 ∧ rdLe n 0xFC 4 = crc32 (slice n 0 252) % 2 ^ 32)) ∧
      (bad → exec .calicoWriteEntry s = .next (answered s 0x42)) ∧
      (¬ bad → memWf (fun _ => some 0xFF) s.flash.cells = true → ∃ t, exec .calicoWriteEntry s = .next t ∧ ShortEnded s t 0 ∧
        (let new := flashBytes t.flash 0x04000000 2112
         dirValid new = true ∧ catalogue new i = e ∧
          (∀ j, j < 16 → j ≠ i → catalogue new j = if dirValid dir = true then catalogue dir j else List.replicate 128 0) ∧
          (∀ a, a < 0x04000000 ∨ 0x04000A00 ≤ a → flashByte t.flash a = flashByte s.flash a) ∧
          look t.flash.eraseCount 1024 0 = look s.flash.eraseCount 1024 0 + 1)))) ∧
  ((∀ s : State, let r := s.flash.record
    let off := r = [] ∨ rdLe r 6 1 % 2 = 0
    (fwRuns s = false ∨ s.calico.state ≠ 0 ∨ off → exec .calicoStart s = .next s) ∧
    (fwRuns s = true → s.calico.state = 0 → ¬ off → s.host.ctxs.length = 16 →
      ∃ t, exec .calicoStart s = .next t ∧ CalicoStarted s t r)) ∧
  (∀ s : State, mgUp s = true → s.mg.shortState ≠ 1 → fwServes s = true → s.host.ctxs.length = 16 →
    let r := s.flash.record
    let off := r = [] ∨ rdLe r 6 1 % 2 = 0
    (∃ t, exec .calicoStop s = .next t ∧ t.mg.shortState = 3 ∧ t.mg.shortResult = 0 ∧ t.calico.state = 3 ∧
      t.mg.alert.getLsbD 6 = true ∧ CalicoLeft s t ∧ (∀ c, (ctxAt s c).calico = none → ctxAt t c = ctxAt s c) ∧
      t.hbm.cells = s.hbm.cells) ∧
    (off → ∃ t, exec .calicoRestart s = .next t ∧ t.mg.shortState = 3 ∧ t.mg.shortResult = 0 ∧ t.calico.state = 0 ∧
      CalicoLeft s t) ∧
    (¬ off → ∃ t u, exec .calicoRestart s = .next t ∧ t.mg.shortState = 3 ∧ t.mg.shortResult = 0 ∧ CalicoLeft s u ∧
      (∀ c, (ctxAt s c).calico = none → ctxAt u c = ctxAt s c) ∧ CalicoStarted u t r)))

/-- R483, R529, R530: a report of an unbound packet whose stream lies in a started entry's range binds the stream, when its
type fits, a rank is free and the stream has no valid entry: to the lowest free rank, with the entry's slots in the
context's share and a filter on the packet's source. A second report within 10 ms does nothing. An idle Calico stream is
unbound, and the frames admitted stay. The reassembly time of the entry is a free value (assumption 25). -/
def Obligations.CalicoBindsItsStreams : Prop :=
  (∀ (s : State) (p : SspPacket) (i c : Nat), entryFor s p.stream = some (i, c) →
    let e := catalogue s.calico.dir i
    let hears := fwRuns s = true ∧ s.calico.state = 2 ∧ s.net.stEnable = true ∧ malformed p = false ∧ boundStream s p = none
    let recent := ∃ r ∈ s.calico.reported, r.1 = p.stream ∧ s.timeUs < r.2 + 10000
    (¬ hears ∨ recent → exec (.unboundReport p) s = .next s) ∧
    (∀ rank base, hears → ¬ recent → freeRank s c = some rank → allocCtx s c (caSlots e * caSlotBytes e) = some base →
      (∀ st, streamOf s p.stream = some st → streamValid st = false) → (p.ptype = 3 ∨ p.ptype = caType e) →
      c < 16 → rank < 64 → caType e < 256 → e.length = 128 → ∃ t y, exec (.unboundReport p) s = .next t ∧ streamOf t p.stream = some y ∧
        streamValid y = true ∧ y.calico = true ∧ seCtx y.entry = c ∧ seRank y.entry = rank ∧ seType y.entry = caType e ∧
        seBase y.entry = base % 2 ^ 64 ∧ seSlots y.entry = caSlots e ∧ seSlotBytes y.entry = caSlotBytes e ∧
        seFormat y.entry = rdLe e 2 2 ∧ (seFlags y.entry).testBit 2 = true ∧ seSrcAddr y.entry = p.srcAddr % 2 ^ 128 ∧
        seSrcPort y.entry = p.srcPort % 2 ^ 16 ∧ 1 ≤ seReassembly y.entry ∧
        look t.calico.reported p.stream 0 = s.timeUs ∧ (∀ x, x ≠ p.stream → (streamOf t x).isSome = (streamOf s x).isSome) ∧
        t.cores = s.cores ∧ t.host = { s.host with ctxs := t.host.ctxs } ∧ (streamOf s p.stream = none → t.host = s.host))) ∧
  (∀ (s : State) (p : SspPacket), entryFor s p.stream = none → exec (.unboundReport p) s = .next s) ∧
  (∀ (s : State) (sid : Nat) (st : Stream), streamOf s sid = some st →
    let idle := fwRuns s = true ∧ st.calico = true ∧ streamValid st = true
    (¬ idle → exec (.calicoIdleUnbind sid) s = .next s) ∧
    (idle → ∃ t y, exec (.calicoIdleUnbind sid) s = .next t ∧ streamOf t sid = some y ∧ streamValid y = false ∧ y.calico = false ∧
      y.frames = st.frames.filter (·.admitted) ∧ (∀ x, x ≠ sid → streamOf t x = streamOf s x) ∧ t.cores = s.cores ∧ t.host = s.host)) ∧
  (∀ (s : State) (sid : Nat), streamOf s sid = none → exec (.calicoIdleUnbind sid) s = .next s)

/-- R534 to R537, R613, R614: the divider of CLK_CORE, and with it the core supply, is that of the slowest of the request,
the cap limit and the thermal limit. Two samples in a row above the cap move the cap limit one step slower, ten below 90 %
of it one step faster; each millisecond at the alarm in Active moves the thermal limit slower, and each with every sensor
below alarm less hysteresis faster. An alarm is reported, and a trip stops the clocks and is device fatal. -/
def Obligations.ClocksFollowPowerAndHeat : Prop :=
  (∀ s : State, s.pw.phase ≠ .off → ∀ v : W32, ∃ t, exec (.pwDvfsWrite v) s = .next t ∧ t.pw.reqDiv.toNat = v.toNat % 4 ∧
    DividerFollows s.pw t.pw ∧ t.pw.capLimit = s.pw.capLimit ∧ t.pw.thermalLimit = s.pw.thermalLimit ∧
    t = { s with pw := t.pw }) ∧
  (∀ s : State, (s.pw.pendingDiv = none → exec .railSettled s = .next s) ∧
    ∀ d, s.pw.pendingDiv = some d → exec .railSettled s = .next { s with pw := { s.pw with
      curDiv := d
      pendingDiv := none } }) ∧
  (∀ s : State, s.pw.phase ≠ .off →
    let p := s.pw
    let cap := max 75 (min 240 p.cap.toNat)
    let w := (s.mg.powers.getD 0 0).toNat
    let hot := 8 * cap < w
    let cool := 10 * w < 72 * cap
    ∃ t, exec .powerSample s = .next t ∧ t = { s with pw := t.pw } ∧ t.pw.reqDiv = p.reqDiv ∧ t.pw.thermalLimit = p.thermalLimit ∧
      (hot → 1 ≤ p.above → p.capLimit.toNat < 3 → t.pw.capLimit.toNat = p.capLimit.toNat + 1 ∧ t.pw.above = 0 ∧ t.pw.below = 0 ∧
        DividerFollows p t.pw) ∧
      (hot → p.above = 0 ∨ p.capLimit = 3 → t.pw.capLimit = p.capLimit ∧ t.pw.above = min (p.above + 1) 2 ∧ t.pw.below = 0 ∧
        t.pw.curDiv = p.curDiv ∧ (t.pw.capExceeded = true ↔ p.curDiv = 3)) ∧
      (cool → 9 ≤ p.below → 0 < p.capLimit.toNat → t.pw.capLimit.toNat = p.capLimit.toNat - 1 ∧ t.pw.above = 0 ∧ t.pw.below = 0 ∧
        DividerFollows p t.pw) ∧
      (cool → p.below < 9 ∨ p.capLimit = 0 → t.pw.capLimit = p.capLimit ∧ t.pw.below = min (p.below + 1) 10 ∧ t.pw.above = 0 ∧
        t.pw.capExceeded = false) ∧
      (¬ hot → ¬ cool → t.pw = { p with
        above := 0
        below := 0
        capExceeded := false })) ∧
  (∀ s : State, s.pw.phase ≠ .off →
    let p := s.pw
    let up := alarmed s = true ∧ p.phase = .active ∧ p.thermalLimit.toNat < 3
    let down := cooled s = true ∧ 0 < p.thermalLimit.toNat
    (up → ∃ t, exec .thermalStep s = .next t ∧ t = { s with pw := t.pw } ∧
      t.pw.thermalLimit.toNat = p.thermalLimit.toNat + 1 ∧ DividerFollows p t.pw) ∧
    (¬ up → down → ∃ t, exec .thermalStep s = .next t ∧ t = { s with pw := t.pw } ∧
      t.pw.thermalLimit.toNat = p.thermalLimit.toNat - 1 ∧ DividerFollows p t.pw) ∧
    (¬ up → ¬ down → exec .thermalStep s = .next s)) ∧
  (∀ (s : State) (i : Nat),
    let at1 := s.pw.phase ≠ .off ∧ s.mg.temps.getD i 0 ≠ 0 ∧ alarmCode s.pw ≤ (s.mg.temps.getD i 0).toNat
    (¬ at1 → exec (.thermalAlarm i) s = .next s) ∧
    (at1 → ∃ t, exec (.thermalAlarm i) s = .next t ∧ PowerOnly s t ∧ t.mg.alert.getLsbD 3 = true ∧
      (s.pw.phase = .active → t.pw = s.pw) ∧ (s.pw.phase = .voile → t.pw.phase = .exiting false) ∧
      (s.pw.phase = .felt → t.pw.phase = .exiting true))) ∧
  (∀ s : State, (s.pw.phase = .off ∨ s.pw.phase = .tripped → exec .thermalTrip s = .next s) ∧
    (s.pw.phase ≠ .off → s.pw.phase ≠ .tripped → ∃ t, exec .thermalTrip s = .next t ∧ FatalTaken t 0x0601 ∧
      t.pw.phase = .tripped ∧ t.pw.pllLocked = false ∧ t.pw.thermTripPin = true ∧ t.net.ptpRuns = false ∧ t.hbm = s.hbm))

/-- R522, R544 to R547, R551: a power request is refused with the code of its cause, is answered at once for Active while
Active, or begins the entry: result 1, PW_WAKE_SRC cleared, and for Felt the retained blocks noted. A request for Active in
a low-power state is a wake. Other values are ignored. R440, R524, R550 to R553: in Voile every source but the management
address wakes the device, in Felt that too, and the network only when enabled; a wake during an entry waits for its abort
point, and the first sets PW_WAKE_SRC. Voile exit and Felt exit resume dispatch and complete the request; after Felt the
retained blocks hold their data and tags, the others zero with tags 0x00, and the registers of the core reset domain are as
after reset. -/
def Obligations.PowerRequestsAndWakes : Prop :=
  (∀ (s : State) (v : Byte), mgUp s = true →
    let p := s.pw
    let i := Instr.mgPwrReq v
    let low := p.phase = .voile ∨ (∃ f n, p.phase = .entering f n) ∨ ∃ f, p.phase = .exiting f
    let moving := (∃ f n, p.phase = .entering f n) ∨ ∃ f, p.phase = .exiting f
    let waits := moving ∨ s.host.upd.handover = true ∨ p.inReset = true
    let debug := s.sc.firmware = true ∨ s.sc.silicon = true
    let port := s.net.wakeEnable = true ∧
      (portInMode s.net.mode s.net.wakePort.toNat = false ∨ s.net.portReset.getLsbD s.net.wakePort.toNat = true)
    let gets := fun (r : BitVec 4) => ∃ t, exec i s = .next t ∧ PowerOnly s t ∧ t.mg.alert.getLsbD 5 = true ∧ t.pw = { p with
      requester := 2
      result := r }
    (2 < v.toNat → exec i s = .next s) ∧
    (v.toNat ≤ 2 → ¬ (v = 0 ∧ low) →
      (waits → gets 3) ∧
      (¬ waits → v = 2 → debug → gets 4) ∧
      (¬ waits → ¬ (v = 2 ∧ debug) → p.phase = .tripped ∨ v = 1 ∧ p.phase = .voile → gets 5) ∧
      (¬ waits → v = 2 → ¬ debug → p.phase ≠ .tripped → port → gets 6) ∧
      (¬ waits → v = 0 → p.phase = .active → gets 2) ∧
      (¬ waits → v = 1 → p.phase = .active → exec i s = .next { s with pw := { p with
        phase := .entering false 0
        wakePending := false
        lastAp := 0
        aborted := false
        result := 1
        requester := 2
        wakeSrc := 0 } }) ∧
      (¬ waits → v = 2 → ¬ debug → ¬ port → p.phase = .active ∨ p.phase = .voile → exec i s = .next { s with pw := { p with
        phase := .entering true 0
        wakePending := false
        lastAp := 0
        aborted := false
        result := 1
        requester := 2
        rb := s.mg.pwrRb
        wakeSrc := 0 } })) ∧
    (v = 0 → p.phase = .voile → ∃ t, exec i s = .next t ∧ PowerOnly s t ∧ t.pw.phase = .exiting false ∧ t.pw.wakeSrc = 32) ∧
    (v = 0 → ∀ f n, p.phase = .entering f n → p.wakePending = false → ∃ t, exec i s = .next t ∧ PowerOnly s t ∧
      t.pw.phase = p.phase ∧ t.pw.wakePending = true ∧ t.pw.wakeSrc = 32)) ∧
  ((∀ (s : State) (src : BitVec 7) (port : Nat),
    let p := s.pw
    let felt : Bool := match p.phase with
      | .felt => true
      | .entering f _ => f
      | _ => false
    let heard : BitVec 7 := src &&& (if felt then 0x7F else 0x7B) &&& (if felt && !s.net.wakeEnable then 0x7D else 0x7F)
    let from1 := if p.phase = .felt then s.net.wakePort.toNat else port
    let value := heard.toNat + if heard.getLsbD 1 = true then from1 % 8 * 256 else 0
    (heard = 0 → exec (.wake src port) s = .next s) ∧
    (p.phase = .active ∨ p.phase = .off ∨ p.phase = .tripped ∨ (∃ f, p.phase = .exiting f) → exec (.wake src port) s = .next s) ∧
    (heard ≠ 0 →
      (∀ f n, p.phase = .entering f n → p.wakePending = true → exec (.wake src port) s = .next s) ∧
      (∀ f n, p.phase = .entering f n → p.wakePending = false → ∃ t, exec (.wake src port) s = .next t ∧
        t = { s with pw := { p with
          wakePending := true
          wakeSrc := t.pw.wakeSrc } } ∧ t.pw.wakeSrc.toNat = value) ∧
      (p.phase = .voile → ∃ t, exec (.wake src port) s = .next t ∧ PowerOnly s t ∧ t.pw.phase = .exiting false ∧
        t.pw.wakeSrc.toNat = value ∧ t.pw.timerArmed = false ∧ t.mg.alert.getLsbD 5 = true) ∧
      (p.phase = .felt → ∃ t, exec (.wake src port) s = .next t ∧ PowerOnly s t ∧ t.pw.phase = .exiting true ∧
        t.pw.wakeSrc.toNat = 4096 + value ∧ t.pw.timerArmed = false ∧ t.mg.alert.getLsbD 5 = true))) ∧
  (∀ s : State, let p := s.pw
    let out := fun (f : Bool) (v : Nat) (t : State) => PowerOnly s t ∧ t.pw.phase = .exiting f ∧ t.pw.wakeSrc.toNat = v
    (p.timerArmed = false ∨ p.phase ≠ .voile ∧ p.phase ≠ .felt → exec .wakeTimer s = .next s) ∧
    (p.timerArmed = true → p.phase = .voile → ∃ t, exec .wakeTimer s = .next t ∧ out false 8 t) ∧
    (p.timerArmed = true → p.phase = .felt → ∃ t, exec .wakeTimer s = .next t ∧ out true 4104 t) ∧
    (∀ a, p.phase ≠ .felt ∨ a ≠ s.mg.dynAddr.getD s.mg.staticAddr ∨ a = 0x7E → exec (.mgAddressMatch a) s = .next s) ∧
    (∀ a, p.phase = .felt → a = s.mg.dynAddr.getD s.mg.staticAddr → a ≠ 0x7E →
      ∃ t, exec (.mgAddressMatch a) s = .next t ∧ out true 4100 t) ∧
    (∀ port mac frame, (p.phase ≠ .felt ∧ ∀ n, p.phase ≠ .entering true n) ∨ isWakeFrame s port mac frame = false →
      exec (.wakeFrame port mac frame) s = .next s) ∧
    (∀ port mac frame, p.phase = .felt → isWakeFrame s port mac frame = true →
      ∃ t, exec (.wakeFrame port mac frame) s = .next t ∧ out true (4098 + s.net.wakePort.toNat * 256) t) ∧
    (∀ port mac frame, isWakeFrame s port mac frame = true ↔ s.net.wakeEnable = true ∧ port = s.net.wakePort.toNat ∧
      mac = portMac s port ∧ (let o := min 112 s.net.wakeOffset.toNat
        o + 16 ≤ frame.length ∧ ∀ j, j < 16 → (frame.getD (o + j) 0 ^^^ s.net.wakePattern.getD j 0) &&& s.net.wakeMask.getD j 0 = 0))) ∧
  (∀ s : State, let p := s.pw
    let done := fun (t : State) => t.pw.result = if p.result = 1 then 2 else p.result
    (p.phase ≠ .exiting false → exec .voileExit s = .next s) ∧ (p.phase ≠ .exiting true → exec .feltExit s = .next s) ∧
    (p.phase = .exiting false → ∃ t, exec .voileExit s = .next t ∧ t.pw.phase = .active ∧ DispatchResumed s t ∧ done t ∧
      t.cores = s.cores ∧ t.hbm = s.hbm) ∧
    (p.phase = .exiting true → ∃ t, exec .feltExit s = .next t ∧ t.pw.phase = .active ∧ DispatchResumed s t ∧ done t ∧
      t.pw.vddCore = [850, 780, 750, 700].getD (effectiveDiv p).toNat 850 ∧ t.pw.vddSram = 750 ∧
      t.pw.pllLocked = true ∧ t.pw.wdtSuspended = false ∧ t.pw.wdtSince = s.timeUs ∧ t.hbm = { s.hbm with srState := [0, 0] } ∧
      t.net.ptpRuns = true ∧ t.net.dropping = s.log.fatal ∧ t.flash = s.flash ∧ ∀ k, k < s.cores.length →
      (let c := coreAt s k
       let d := coreAt t k
       d.ctl = Ctl.reset ∧ d.regs = CtlRegs.reset ∧ d.mq = [] ∧ d.vq = [] ∧ d.movq = [] ∧ d.banks = c.banks ∧
        (∀ g, tagOf d.sp g = if p.rb.getLsbD (g / 512) = true then tagOf c.sp g else 0) ∧
        ∀ a, a < 16777216 → spRead d.sp a 1 = if p.rb.getLsbD (a / 4096 / 512) = true then spRead c.sp a 1 else [0]))))

/-- R331, R389, R393, R547 to R549, R559, R613: each step of an entry ends at its abort point, where a wake that has come
abandons the entry. Step 1 stops dispatch; step 2 waits for idle cores, and Voile is then reached; in Felt, step 3 waits for
the flash, ends the channels' unlocks and abandons loading sets, step 4 puts both stacks into self-refresh, and step 5 stops
the PTP clock and reaches Felt, with the compute rails at 0.60 V, links down and FL_TIMING and FL_SUPPLY reset. -/
def Obligations.EntriesReachTheirAbortPoints : Prop :=
  ∀ s : State,
    let ph := s.pw.phase
    let wakes := s.pw.wakePending = true
    let timer := fun (t : State) => t.pw.timerArmed = true ↔ s.pw.wakeTimer ≠ 0
    let done := fun (t : State) => t.pw.result = if s.pw.result = 1 then 2 else s.pw.result
    (∀ p ∈ [(Instr.voileEntry, false), (.feltEntry, true)],
      (ph ≠ .entering p.2 0 → exec p.1 s = .next s) ∧
      (ph = .entering p.2 0 → ∃ t, exec p.1 s = .next t ∧ (wakes → Abandoned s t p.2 1) ∧
        (¬ wakes → EntryAt t p.2 1 ∧ t.host.dispatch = false ∧ t.cores = s.cores ∧ t.hbm = s.hbm))) ∧
    (coresIdle s = false ∨ (∀ f, ph ≠ .entering f 1) → exec .ap2CoresQuiesced s = .next s) ∧
    (coresIdle s = true → ph = .entering false 1 → ∃ t, exec .ap2CoresQuiesced s = .next t ∧ (wakes → Abandoned s t false 2) ∧
      (¬ wakes → t.pw.phase = .voile ∧ t.pw.lastAp = 2 ∧ timer t ∧ done t ∧ PowerOnly s t)) ∧
    (coresIdle s = true → ph = .entering true 1 → ∃ t, exec .ap2CoresQuiesced s = .next t ∧ (wakes → Abandoned s t true 2) ∧
      (¬ wakes → EntryAt t true 2 ∧ t.net.dropping = true ∧ t.cores = s.cores)) ∧
    (ph ≠ .entering true 2 ∨ s.flash.ch0.op ≠ none ∨ s.flash.ch1.op ≠ none → exec .ap3StateSaved s = .next s) ∧
    (ph = .entering true 2 → s.flash.ch0.op = none → s.flash.ch1.op = none → ∃ t, exec .ap3StateSaved s = .next t ∧
      (wakes → Abandoned s t true 3) ∧ (¬ wakes → EntryAt t true 3 ∧ t.pw.wdtSuspended = true) ∧
      t.flash.ch0.unlocked = false ∧ t.flash.ch1.unlocked = false ∧ t.flash.cells = s.flash.cells ∧
      t.host.ctxs = (s.host.ctxs.map fun x => { x with slotA := feltSlot x.slotA, slotB := feltSlot x.slotB }) ∧ t.cores = s.cores) ∧
    (ph ≠ .entering true 3 → exec .ap4HbmInSelfRefresh s = .next s) ∧
    (ph = .entering true 3 → ∃ t, exec .ap4HbmInSelfRefresh s = .next t ∧ (wakes → Abandoned s t true 4) ∧
      (¬ wakes → EntryAt t true 4 ∧ t.hbm = { s.hbm with srState := [1, 1] } ∧ t.cores = s.cores)) ∧
    (ph ≠ .entering true 4 → exec .ap5GatesCommanded s = .next s) ∧
    (ph = .entering true 4 → ∃ t, exec .ap5GatesCommanded s = .next t ∧ (wakes → Abandoned s t true 5) ∧
      (¬ wakes → t.pw.phase = .felt ∧ t.pw.vddCore = 600 ∧ t.pw.vddSram = 600 ∧ t.pw.lastAp = 5 ∧ timer t ∧ done t ∧
        t.net.ptpRuns = false ∧ t.pw.pllLocked = false ∧
        (∀ p ∈ t.net.ports, p.linkUp = false) ∧ t.flash.scanDone = false ∧ t.flash.clkDiv = 0 ∧ t.flash.waitStates = 0xF ∧
        t.flash.supplyLow = false ∧ t.flash.supplyInForce = false ∧ t.flash.cells = s.flash.cells ∧ t.hbm = s.hbm ∧
        t.cores = s.cores ∧ ∀ c, c < s.net.cages.length → (cageAt t c).lpMode =
          (if s.net.wakeEnable = true ∧ c = cageOf s s.net.wakePort.toNat then (cageAt s c).present && !(cageAt s c).active else true)))

/-- R171, R538, R540, R542, R566, R610, R615: a cold reset, with MADDR's level in the static address, a warm reset and a
fall of a rail leave the state of R542. A warm reset keeps HBM's contents and counters, the error log, the flash attempts,
the wake filter and the dynamic address; started in Voile or Felt, it sets PW_WAKE_SRC.reset. The clocks then run again. -/
def Obligations.ResetsLeaveTheSurvivingState : Prop :=
  (∀ (s : State) (maddr : Nat), ∃ t, exec (.coldReset maddr) s = .next t ∧ ResetDone s t ∧ t.mg.staticAddr = 0x58 + maddr % 4 ∧
    t.mg.dynAddr = none ∧ t.hbm = Hbm.reset ∧ t.log = ErrLog.reset ∧ t.timeUs = 0 ∧ t.flash.attempts = 0 ∧ t.pw = Pw.reset ∧
    (∀ c ∈ t.net.cages, c = Cage.reset) ∧ t.sc.unlockFailures = 0) ∧
  (∀ s : State, ∃ t, exec .railFault s = .next t ∧ ResetDone s t ∧ t.pw.phase = .off ∧ t.hbm = Hbm.reset ∧ t.log = ErrLog.reset) ∧
  (∀ (s : State) (pin : Bool), (s.pw.phase = .off → exec (.warmReset pin) s = .next s) ∧
    (s.pw.phase ≠ .off → ∃ t, exec (.warmReset pin) s = .next t ∧ ResetDone s t ∧ t.pw.phase = .active ∧
      ((∀ p ∈ s.hbm.chans, p.2.writes = []) → t.hbm.cells = s.hbm.cells) ∧ t.hbm.bad = s.hbm.bad ∧
      t.hbm.eccCorrected = s.hbm.eccCorrected ∧ t.hbm.caAlerts = s.hbm.caAlerts ∧ t.log.entries = s.log.entries ∧
      t.log.nextSeq = s.log.nextSeq ∧ t.log.folded = s.log.folded ∧ t.timeUs = s.timeUs ∧ t.flash.attempts = s.flash.attempts ∧
      t.net.wakeEnable = s.net.wakeEnable ∧ t.net.wakePattern = s.net.wakePattern ∧ t.net.cages = s.net.cages ∧
      t.mg.dynAddr = s.mg.dynAddr ∧ t.mg.staticAddr = s.mg.staticAddr ∧ t.mg.alertEn = s.mg.alertEn ∧ t.pw.alarm = s.pw.alarm ∧
      t.pw.wakeTimer = s.pw.wakeTimer ∧ t.pw.capExceeded = s.pw.capExceeded ∧
      t.flash.worn = s.flash.worn ∧ t.sc.unlockFailures = s.sc.unlockFailures ∧
      (s.pw.phase = .voile → t.pw.wakeSrc = 64) ∧ (s.pw.phase = .felt → t.pw.wakeSrc = 4160) ∧
      (s.pw.phase = .active → t.pw.wakeSrc = s.pw.wakeSrc) ∧
      (∀ k, k < s.cores.length → (coreAt t k).sp.eccCorrected = (coreAt s k).sp.eccCorrected ∧
        (coreAt t k).sp.eccLast = (coreAt s k).sp.eccLast))) ∧
  ∀ s : State, let ready := s.pw.phase = .active ∧ s.pw.inReset = true ∧ ¬ (s.pw.thermTripPin = true ∧ alarmed s = true)
    (¬ ready → exec .pllLock s = .next s) ∧
    (ready → exec .pllLock s = .next { s with
      net := { s.net with ptpRuns := true }
      pw := { s.pw with
        inReset := false
        thermTripPin := false
        pllLocked := true } })

/-- R358, R395, R539, R569, R572, R583, R589: once after a reset, with the clocks running and the scan ended, the boot ROM
checks the copy of the active boot-select record, then the other; the first that passes is started, and each code is
recorded. Firmware is ready after training. A decommissioning left half done is repeated first. -/
def Obligations.BootChecksAndStartsACopy : Prop :=
  (∀ s : State,
    let ready := s.pw.pllLocked = true ∧ s.flash.scanDone = true ∧ s.sc.booted = false ∧ s.sc.resultA = 0xF ∧ s.sc.resultB = 0xF
    let half := s.sc.lifecycle = 2 ∧ s.sc.decomDone = false
    let first := match activeRecord s.flash with
      | some r => r.2.2
      | none => false
    let code := fun c => imageCheck s (copyImage s.flash c) (copySectors c)
    let result := fun (t : State) (c : Bool) => if c then t.sc.resultB.toNat else t.sc.resultA.toNat
    let same := fun (t : State) => t.cores = s.cores ∧ t.hbm = s.hbm ∧ t.flash = s.flash ∧ t.net = s.net ∧ t.log = s.log ∧ t.mg = s.mg
    let starts := fun (t : State) (c : Bool) => t.sc.booted = true ∧ t.sc.copy = c ∧ t.pw.wdtRunning = true ∧
      t.pw.wdtSince = s.timeUs ∧ t.host.upd.bootCopy = c ∧ t.host.upd.bootImage = copyImage s.flash c ∧
      t.host.upd.runningImage = copyImage s.flash c ∧ (t.sc.identityValid = true ↔ s.sc.lifecycle ≠ 2) ∧
      t.sc.cdi = cdiItems s (copyImage s.flash c) ∧ t.sc.keySlot.toNat = fwKeySlot (copyImage s.flash c) % 4 ∧ same t
    (¬ ready → exec .boot s = .next s) ∧
    (ready → half → ∃ t, exec .boot s = .next t ∧ Decommissioned s t) ∧
    (ready → ¬ half →
      (code first = 0 → ∃ t, exec .boot s = .next t ∧ starts t first ∧ result t first = 0 ∧ result t (!first) = 15) ∧
      (code first ≠ 0 → code (!first) = 0 → ∃ t, exec .boot s = .next t ∧ starts t (!first) ∧ result t first = code first ∧
        result t (!first) = 0) ∧
      (code first ≠ 0 → code (!first) ≠ 0 → ∃ t, exec .boot s = .next t ∧ t.sc.booted = false ∧ result t first = code first ∧
        result t (!first) = code (!first) ∧ same t ∧ t.host = s.host ∧ t.pw = s.pw))) ∧
  ∀ s : State, let ready := s.sc.booted = true ∧ s.hbm.trainDone = true ∧ s.host.fwReady = false ∧ s.pw.wdtRunning = true
    (¬ ready → exec .fwReady s = .next s) ∧
    (ready → ∃ t, exec .fwReady s = .next t ∧ t.host.fwReady = true ∧
      (t.host.dispatch = true ↔ s.hbm.trained = 3 ∧ s.log.fatal = false ∧ s.host.upd.handover = false) ∧
      t = { s with host := { s.host with
        fwReady := true
        dispatch := t.host.dispatch } })

/-- R541, R588, R589, R598 to R600: firmware resets a core whose batch has failed or on which none runs; a core leaves
service when no batch runs on it, and comes back through a core reset, the check and the scrub, or stays out, its class 0
streams unbound. A watchdog period without service is device fatal, and firmware no longer runs. -/
def Obligations.CoresAndFirmwareAreRecovered : Prop :=
  (∀ (s : State) (k : Nat),
    let failed := ∀ i b, (coreAt s k).ctx = some i → (ctxAt s i).batch = some b → b.failing = true
    let may := fwRuns s = true ∧ k < s.cores.length ∧ (coreRuns s k = false ∨ failed)
    (¬ may → exec (.coreReset k) s = .next s) ∧ (may → ∃ t, exec (.coreReset k) s = .next t ∧ CoreWasReset s t k)) ∧
  (∀ (s : State) (k : Nat), let may := k < s.cores.length ∧ coreRuns s k = false
    (¬ may → exec (.coreOutOfService k) s = .next s) ∧
    (may → exec (.coreOutOfService k) s = .next { s with log := { s.log with
      coreService := s.log.coreService ||| BitVec.ofNat 32 (2 ^ k) } })) ∧
  (∀ (s : State) (k : Nat) (pass : Bool), k < s.cores.length →
    let due := fwRuns s = true ∧ s.log.coreService.getLsbD k = true ∧ s.log.coreFailed.getLsbD k = false ∧ coreRuns s k = false
    (¬ due → exec (.coreCheck k pass) s = .next s) ∧
    (due → pass = true → ∃ t, exec (.coreCheck k pass) s = .next t ∧
      (∀ j, t.log.coreService.getLsbD j = (s.log.coreService.getLsbD j && decide (j ≠ k))) ∧ t.log.entries = s.log.entries ∧
      (coreAt t k).ctl = Ctl.reset ∧ (coreAt t k).mx = Mx.reset s.freeCtr ∧
      ((∀ c, c < 16 → k ∉ ctxCores (ctxAt s c)) → (∀ g, tagOf (coreAt t k).sp g = 0) ∧ ∀ a, spRead (coreAt t k).sp a 1 = [0])) ∧
    (due → pass = false → ∃ t, exec (.coreCheck k pass) s = .next t ∧ CoreWasReset s t k ∧
      t.log.coreService = s.log.coreService ∧ t.log.coreFailed = s.log.coreFailed ||| BitVec.ofNat 32 (2 ^ k) ∧
      (∃ e, t.log.entries.head? = some e ∧ e.cls = 1 ∧ e.code = 0x0505 ∧ e.core = k) ∧
      ∀ st ∈ t.net.streams, streamValid st = true →
        ¬ ((ctxAt t (seCtx st.entry)).cls = 0 ∧ k ∈ ctxCores (ctxAt t (seCtx st.entry))))) ∧
  ∀ s : State,
    (s.pw.wdtRunning = false → exec .fwWatchdogKick s = .next s) ∧
    (s.pw.wdtRunning = true → exec .fwWatchdogKick s = .next { s with pw := { s.pw with wdtSince := s.timeUs } }) ∧
    (¬ (s.pw.wdtRunning = true ∧ s.pw.wdtSuspended = false ∧ s.sc.fwHalted = false ∧ s.pw.phase ≠ .off ∧ s.pw.phase ≠ .tripped ∧
        s.pw.wdtSince + 1000 * max 10 s.pw.wdtPeriod.toNat ≤ s.timeUs) → exec .fwWatchdogExpire s = .next s) ∧
    (s.pw.wdtRunning = true → s.pw.wdtSuspended = false → s.sc.fwHalted = false → s.pw.phase ≠ .off → s.pw.phase ≠ .tripped →
      s.pw.wdtSince + 1000 * max 10 s.pw.wdtPeriod.toNat ≤ s.timeUs → ∃ t, exec .fwWatchdogExpire s = .next t ∧
      FatalTaken t 0x0602 ∧ t.host.fwReady = false ∧ t.pw.wdtRunning = false ∧ t.host.rings = s.host.rings ∧ t.hbm = s.hbm)

/-- R575: SC_DECOMMISSION decommissions a part on its second key, after the first; another value or a longer gap cancels the
sequence, and nothing happens once the part is DECOMMISSIONED. R577, R578, R582, R584: the JTAG port's instructions, in
every state with power, hold the instruction register and shift out the boundary register, the ID code, SC_DEBUG and
SC_STATUS, or the bypass register's 0; sessions stay as they are. R577 to R580, R589: DBG_CHALLENGE for FIRMWARE, or for
SILICON in MANUFACTURE, shifts out a challenge, and opens the level at once in MANUFACTURE; a response to it, good once,
opens the level when its key is known and its signature verifies, or is counted as failed, and from four on always fails.
DBG_CLOSE ends the sessions; FW_ACCESS and SCAN act as BYPASS without them. -/
def Obligations.SecurityFollowsLifecycleAndSessions : Prop :=
  ((∀ (s : State) (v : W32),
    (s.pw.phase = .off ∨ s.sc.lifecycle = 2 → exec (.decommission v) s = .next s) ∧
    (s.pw.phase ≠ .off → s.sc.lifecycle ≠ 2 →
      (v = 0xDEC00001 → exec (.decommission v) s = .next { s with sc := { s.sc with decomKey := true } }) ∧
      (v = 0xDEC00002 → s.sc.decomKey = true → ∃ t, exec (.decommission v) s = .next t ∧ Decommissioned s t) ∧
      (v ≠ 0xDEC00001 → ¬ (v = 0xDEC00002 ∧ s.sc.decomKey = true) →
        exec (.decommission v) s = .next { s with sc := { s.sc with decomKey := false } }))) ∧
  ∀ s : State, exec .decommissionCancel s = .next { s with sc := { s.sc with decomKey := false } }) ∧
  ((∀ s : State, s.pw.phase = .off → ∀ i ∈ [Instr.extest, .samplePreload, .idcode, .clamp, .highz, .bypass, .tapReset, .dbgStatus],
    exec i s = .next s) ∧
  ∀ s : State, s.pw.phase ≠ .off →
    let out := fun (ir : Byte) (b : Bytes) => Host.Outcome.next { s with sc := { s.sc with
      jtagIr := ir
      tdo := b } }
    let x := s.sc
    exec .extest s = out 0 (toLe 4 x.boundary) ∧ exec .clamp s = out 3 [0] ∧ exec .highz s = out 4 [0] ∧
    exec .bypass s = out 0xFF [0] ∧ exec .tapReset s = out 2 [] ∧
    (∃ b, exec .idcode s = out 2 b ∧ b.length = 4 ∧ leNat b = 0x0320 * 4096 + Config.jedec.toNat * 2 + 1) ∧
    (∃ v t, exec .samplePreload s = .next t ∧ t = { s with
      freeCtr := t.freeCtr
      sc := { s.sc with
        jtagIr := 1
        boundary := v
        tdo := toLe 4 v } }) ∧
    ∃ b, exec .dbgStatus s = out 0x10 b ∧ b.length = 8 ∧
      (let d := rdLe b 0 4
       let st := rdLe b 4 4
       d.testBit 31 = x.debugged ∧ d.testBit 30 = x.silicon ∧ d.testBit 29 = x.firmware ∧ d.testBit 28 = x.observe ∧
        d % 268435456 = 0 ∧ st / 1073741824 = x.lifecycle.toNat ∧ st.testBit 29 = x.identityValid ∧ st.testBit 28 = x.decomDone ∧
        st / 16777216 % 16 = x.revoked.toNat ∧ st / 256 % 65536 = x.unlockFailures.toNat ∧ st % 256 = x.rollback % 128)) ∧
  ((∀ (s : State) (level : BitVec 2) (random : Bytes),
    let may := s.pw.phase ≠ .off ∧ (level = 2 ∨ level = 3 ∧ s.sc.lifecycle = 0)
    let i := Instr.dbgChallenge level random
    (s.pw.phase = .off → exec i s = .next s) ∧
    (s.pw.phase ≠ .off → ¬ may → exec i s = .next { s with sc := { s.sc with
      jtagIr := 0x11
      tdo := [0] } }) ∧
    (may → ∃ c t, c.length = 96 ∧ c.take 8 = [0x44, 0x42, 0x47, 0x43, level.setWidth 8, s.sc.lifecycle.setWidth 8, 0, 0] ∧
      (∀ j, j < 32 → c.getD (8 + j) 0 = random.getD j 0 ∧ c.getD (40 + j) 0 = if s.sc.lifecycle = 2 then 0 else Config.deviceIdKey.getD j 0) ∧
      (∀ j, 72 ≤ j → c.getD j 0 = 0) ∧ exec i s = .next t ∧ t.sc.jtagIr = 0x11 ∧ t.sc.tdo = c ∧ t = { s with sc := t.sc } ∧
      t.sc.observe = s.sc.observe ∧ t.sc.unlockFailures = s.sc.unlockFailures ∧
      (s.sc.lifecycle ≠ 0 → t.sc.challenge = some (level, c) ∧ t.sc.firmware = s.sc.firmware ∧ t.sc.silicon = s.sc.silicon ∧
        t.sc.debugged = s.sc.debugged) ∧
      (s.sc.lifecycle = 0 → t.sc.challenge = none ∧ t.sc.debugged = true ∧ (t.sc.firmware = true ↔ s.sc.firmware = true ∨ level = 2) ∧
        (t.sc.silicon = true ↔ s.sc.silicon = true ∨ level = 3)))) ∧
  (∀ (s : State) (key sig : Bytes) (inTime : Bool), s.pw.phase ≠ .off →
    let i := Instr.dbgResponse key sig inTime
    let known := ∃ k, k < 4 ∧ s.sc.revoked.getLsbD k = false ∧ Config.sha512 key = Config.keyDigest k
    (s.sc.challenge = none → exec i s = .next { s with sc := { s.sc with
      jtagIr := 0x12
      tdo := [0] } }) ∧
    ∀ level c, s.sc.challenge = some (level, c) → ∃ t, exec i s = .next t ∧ t = { s with sc := t.sc } ∧ t.sc.challenge = none ∧
      (let opens := inTime = true ∧ s.sc.unlockFailures.toNat < 4 ∧ known ∧ Config.ed25519Verify key (Config.sha512 c) sig = true
       (opens → t.sc.debugged = true ∧ t.sc.unlockFailures = s.sc.unlockFailures ∧
          (t.sc.firmware = true ↔ s.sc.firmware = true ∨ level = 2) ∧ (t.sc.silicon = true ↔ s.sc.silicon = true ∨ level = 3)) ∧
        (¬ opens → t.sc.debugged = s.sc.debugged ∧ t.sc.firmware = s.sc.firmware ∧ t.sc.silicon = s.sc.silicon ∧
          t.sc.unlockFailures.toNat = min 4 (s.sc.unlockFailures.toNat + 1)))) ∧
  ∀ s : State,
    (s.pw.phase = .off → ∀ i ∈ [Instr.dbgClose, .fwAccess true, .fwAccess false, .scan], exec i s = .next s) ∧
    (s.pw.phase ≠ .off → ∃ t, exec .dbgClose s = .next t ∧ t.sc.firmware = false ∧ t.sc.silicon = false ∧ t.sc.fwHalted = false ∧
      t.sc.observe = s.sc.observe ∧ t.sc.debugged = s.sc.debugged ∧
      t.pw = { s.pw with wdtSince := if s.sc.fwHalted = true then s.timeUs else s.pw.wdtSince } ∧
      t = { s with
        sc := t.sc
        pw := t.pw }) ∧
    (∀ halt, s.pw.phase ≠ .off → s.sc.firmware = true → exec (.fwAccess halt) s = .next { s with
      sc := { s.sc with
        jtagIr := 0x20
        tdo := []
        fwHalted := halt }
      pw := { s.pw with wdtSince := if s.sc.fwHalted = true ∧ halt = false then s.timeUs else s.pw.wdtSince } }) ∧
    (∀ halt, s.pw.phase ≠ .off → s.sc.firmware = false → exec (.fwAccess halt) s = .next { s with sc := { s.sc with
      jtagIr := 0x20
      tdo := [0] } }) ∧
    (s.pw.phase ≠ .off → s.sc.silicon = false ∨ s.pw.phase ≠ .active → exec .scan s = .next { s with sc := { s.sc with
      jtagIr := 0x30
      tdo := [0] } }) ∧
    (s.sc.silicon = true → s.pw.phase = .active → ∃ v t, exec .scan s = .next t ∧ t = { s with
      freeCtr := t.freeCtr
      sc := { s.sc with
        jtagIr := 0x30
        tdo := [v] } }))

/-- R9, R507 to R510: a byte written to the direct map sets the offset of the transfers that follow. MG_ALERT's bits are
cleared by ones, MG_ALERT_EN and MG_PWR_RB store, a byte of MG_ARG is held until its highest byte is written, and read-only
and reserved offsets take nothing. Nothing is answered in Felt. R9, R10, R25, R29, R459, R460, R581: a register write
outside every block, or to a block that its path does not reach, faults the requester with E_ADDRESS; one not aligned, to
the other function's part, or without power has no effect, nor has one to a read-only register or an unassigned offset.
Fields store what is written to them, with the accepting agents of PW_REQ and PW_FW_WDT, and W1C bits are cleared by ones.
-/
def Obligations.RegisterWritesFollowTheirAccess : Prop :=
  (∀ (s : State) (v : W64) (addr : Nat), addr < 256 →
    let b : Byte := v.setWidth 8
    let i := Instr.registerWrite .direct addr v
    let next := BitVec.ofNat 8 (addr + 1)
    (mgUp s = false → exec i s = .next s) ∧
    (mgUp s = true →
      (addr = 0x09 → ∃ t, exec i s = .next t ∧ t = { s with mg := { s.mg with
        regOffset := next.toNat
        alert := s.mg.alert &&& ~~~ b
        ibis := t.mg.ibis } }) ∧
      (addr = 0x0A → ∃ t, exec i s = .next t ∧ t = { s with mg := { s.mg with
        regOffset := next.toNat
        alertEn := b
        ibis := t.mg.ibis } } ∧
        (s.mg.ibiEnabled = false → t.mg.ibis = s.mg.ibis) ∧
        (s.mg.ibiEnabled = true → (s.mg.alert &&& b) &&& ~~~ (s.mg.alert &&& s.mg.alertEn) ≠ 0 →
          t.mg.ibis = s.mg.ibis ++ [s.mg.alert])) ∧
      (addr = 0x21 → exec i s = .next { s with mg := { s.mg with
        regOffset := next.toNat
        pwrRb := b } }) ∧
      (0x10 ≤ addr → addr < 0x17 → ∃ t, exec i s = .next t ∧ look t.mg.held addr 0 = b ∧ t = { s with mg := { s.mg with
        regOffset := next.toNat
        held := t.mg.held } }) ∧
      (addr = 0x17 → ∃ t, exec i s = .next t ∧ t = { s with mg := { s.mg with
        regOffset := next.toNat
        held := t.mg.held
        arg := t.mg.arg } } ∧
        (∀ j, j < 8 → ∀ d, look t.mg.held (0x10 + j) d = d) ∧
        ∀ j, j < 8 → t.mg.arg.toNat / 256 ^ j % 256 =
          if j = 7 then b.toNat else (look s.mg.held (0x10 + j) (BitVec.ofNat 8 (s.mg.arg.toNat / 256 ^ j))).toNat) ∧
      (addr < 0x09 ∨ 0x0C ≤ addr ∧ addr < 0x0F ∨ 0x1B ≤ addr ∧ addr < 0x20 ∨ 0x22 ≤ addr ∧ addr < 0x60 ∨ 0x6B ≤ addr →
        exec i s = .next { s with mg := { s.mg with regOffset := next.toNat } }))) ∧
  ((∀ (s : State) (path : RegPath) (addr : Nat) (v : W64), path ∈ [RegPath.firmware, .pf0, .pf1] →
    let outside := addr < 0x003000000000 ∨ 0x003003000000 ≤ addr ∨ (0x0030000A0000 ≤ addr ∧ addr < 0x003001000000) ∨
      (path ≠ .firmware ∧ 0x003000010000 ≤ addr)
    (s.pw.phase ≠ .off → outside → ∃ t e, exec (.registerWrite path addr v) s = .next t ∧
      t.log.entries = (e :: s.log.entries).take 256 ∧ e.cls = 1 ∧ e.unit = (if path = .firmware then 0x0C else 0x0B) ∧ e.code = 0x0107 ∧ e.address = addr ∧ t.cores = s.cores ∧ t.hbm = s.hbm ∧
      t.net = s.net ∧ t.flash = s.flash ∧ t.pw = s.pw) ∧
    (s.pw.phase = .off → exec (.registerWrite path addr v) s = .next s) ∧
    (¬ outside → addr % 4 ≠ 0 ∨ (path = .pf1 ∧ addr < 0x003000008000) ∨
        (path = .pf0 ∧ 0x003000008000 ≤ addr ∧ addr < 0x00300000C000) ∨
        (0x003000060000 ≤ addr ∧ addr < 0x003001000000) →
      exec (.registerWrite path addr v) s = .next s)) ∧
  (∀ (s : State) (v : W64), s.pw.phase ≠ .off →
    let w := fun (off : Nat) => exec (.registerWrite .firmware (0x003000050000 + off) v) s
    w 0x0C = .next { s with pw := { s.pw with wakeTimer := v.setWidth 32 } } ∧
    w 0x14 = .next { s with pw := { s.pw with cap := v.setWidth 8 } } ∧
    (∃ t, w 0x18 = .next t ∧ t.pw.alarm.toNat = v.toNat % 256 ∧ t.pw.hysteresis.toNat = v.toNat / 256 % 256 ∧
      t = { s with pw := { s.pw with
        hysteresis := t.pw.hysteresis
        alarm := t.pw.alarm } }) ∧
    (v.getLsbD 0 = false → w 0x1C = .next s) ∧ (v.getLsbD 0 = true → w 0x1C = exec (.warmReset false) s) ∧
    w 0x10 = exec (.pwDvfsWrite (v.setWidth 32)) s ∧
    (∃ t, w 0x20 = .next t ∧ t.pw.wdtPeriod = v.setWidth 16 ∧
      t.pw.wdtSince = (if v.getLsbD 30 = true ∧ s.pw.wdtRunning = true then s.timeUs else s.pw.wdtSince) ∧
      t = { s with pw := { s.pw with
        wdtPeriod := t.pw.wdtPeriod
        wdtSince := t.pw.wdtSince } }) ∧
    w 0x00 = .next s ∧ w 0x08 = .next s) ∧
  (∀ (s : State) (v : W64) (path : RegPath) (k : Nat), k < 32 → s.pw.phase = .active → path = .firmware →
    let w := fun (off : Nat) => exec (.registerWrite path (0x003001000000 + k * 0x100000 + off) v) s
    let c := coreAt s k
    k < s.cores.length →
    (∃ t, w 0x20000 = .next t ∧ (coreAt t k).mx = { c.mx with ovf := c.mx.ovf &&& ~~~ v.setWidth 4 } ∧ (coreAt t k).sp = c.sp) ∧
    (∃ t, w 0x20 = .next t ∧ (coreAt t k).regs = { c.regs with holdWdt := v.setWidth 5 } ∧ (coreAt t k).ctl = c.ctl) ∧
    (∃ t, w 0x10010 = .next t ∧ (coreAt t k).sp = { c.sp with tagIndex := v.setWidth 12 } ∧ (coreAt t k).regs = c.regs) ∧
    (∃ t, w 0x10030 = .next t ∧ (coreAt t k).sp = { c.sp with scrubOn := v.getLsbD 31 }) ∧
    (∀ off, off ∈ [0x00, 0x04, 0x08, 0x10, 0x18, 0x28, 0x30, 0x34, 0x10000, 0x10004, 0x1002C, 0x20004, 0x30004, 0x50000, 0xFFFFC] →
      w off = .next s)) ∧
  ∀ (s : State) (v : W64), s.pw.phase = .active →
    let w := fun (path : RegPath) (addr : Nat) => exec (.registerWrite path addr v) s
    (∃ t, w .firmware 0x00300001000C = .next t ∧ t.hbm = { s.hbm with
      srEnable := v.getLsbD 31
      srIdleUs := v.setWidth 14 } ∧ t.cores = s.cores) ∧
    (∃ t, w .firmware 0x003000020108 = .next t ∧ t.flash.ch0 = { s.flash.ch0 with addr := v.setWidth 30 } ∧ t.flash.ch1 = s.flash.ch1) ∧
    (∃ t, w .firmware 0x003000020020 = .next t ∧ t.flash = { s.flash with eiIndex := v.setWidth 9 }) ∧
    (∃ t, w .firmware 0x003000030014 = .next t ∧ t.net = { s.net with ecnStep := v.setWidth 6 }) ∧
    (∃ t, w .firmware 0x003000040000 = .next t ∧ t.net = { s.net with
      stEnable := v.getLsbD 31
      udpPort := v.setWidth 16 }) ∧
    (∃ t, w .pf0 0x003000000010 = .next t ∧ t.host = { s.host with waitTimeoutMs := v.setWidth 16 }) ∧
    (∃ t, w .pf1 0x003000008008 = .next t ∧ t.host = { s.host with mail := { s.host.mail with arg0 := v } }) ∧
    ∃ t, w .pf1 0x003000008010 = .next t ∧ t.host = { s.host with mail := { s.host.mail with arg1 := v } })

/-- The queue is first in, first out: a step carries out the command in front with the rest of the queue. R421, R591, with
the model's choice of assumption 38 that a step with nothing to do is one microsecond: the log's clock counts in every state
but Off, and the PTP clock by 1,000 ns while it runs; nothing else changes while firmware has nothing to do. -/
def Obligations.StepsTakeTheFrontCommandOrPassTime : Prop :=
  (∀ (s : State) (c : Instr), step { s with pending := c :: s.pending } = exec c s) ∧
  (∀ s : State, s.pending = [] → s.mg.mailbox = none → s.calico.state ≠ 3 → (∀ x ∈ s.flash.incomplete, areaOf x < 2 ∨ 4 < areaOf x) →
    (s.pw.phase = .off → step s = .next s) ∧
    (s.pw.phase ≠ .off → step s = .next { s with
      timeUs := s.timeUs + 1
      net := { s.net with ptp := s.net.ptp + if s.net.ptpRuns = true then 1000 else 0 } }))

/-- R171, R447, R493 to R502, R510, R528, R539, R556, R560 to R564, R585, R604: what a cold reset leaves, in the values that
the spec gives, and that the state after reset keeps every invariant stated here. -/
def Obligations.ResetStateIsAsTheSpecSays : Prop :=
  let s := State.reset
  s.pending = [] ∧ Numbered s ∧ Settled s ∧ (∀ c ∈ s.cores, FilesSized c) ∧ MemoriesOk s ∧ Distinct s ∧ SessionsLegal s ∧
    (∀ c ∈ s.cores, c.sp.scrubOn = true ∧ c.started = false ∧ c.regs.fault = false ∧ (∀ p, tagOf c.sp p = 0) ∧
      ∀ a, spRead c.sp a 1 = [0]) ∧
    (∀ r ∈ s.host.rings, r.state = .idle ∧ r.enable = false ∧ r.sizeLog2 = 4) ∧ (∀ x ∈ s.host.ctxs, x.configured = false) ∧
    (∀ f ∈ s.host.flags, f = 0) ∧ s.host.fwReady = false ∧ s.host.timeoutMs = 1000 ∧ s.host.waitTimeoutMs = 2000 ∧
    s.net.portReset = 0xFF ∧ s.net.wakeEnable = true ∧ s.net.udpPort = 0xB7FC ∧ s.mg.alert = 0 ∧ s.mg.alertEn = 0xEF ∧
    s.mg.pwrRb = 0xFF ∧ s.mg.fatal = false ∧ s.calico.state = 0 ∧ s.pw.phase = .active ∧ s.pw.cap = 0xF0 ∧ s.pw.hysteresis = 5 ∧
    s.pw.wdtPeriod = 100 ∧ s.pw.reqDiv = 0 ∧ s.hbm.trained = 0 ∧ s.hbm.srIdleUs = 100 ∧ s.hbm.srEnable = true ∧
    s.flash.clkDiv = 0 ∧ s.flash.waitStates = 0xF ∧ s.flash.scanDone = false ∧ s.log.entries = [] ∧ s.log.nextSeq = 1 ∧
    s.sc.resultA = 0xF ∧ s.sc.resultB = 0xF ∧ s.sc.debugged = false ∧ s.sc.jtagIr = 2

/-- Every step keeps every memory of the block in its canonical form: addresses strictly rising, and no entry that an
unlisted address would read as anyway. -/
def Obligations.StepsKeepMemoriesCanonical : Prop :=
  ∀ s t : State, MemoriesOk s → step s = .next t → MemoriesOk t

/-- Every step keeps a core's register files and queue ends at the manual's sizes, and leaves no error of a core that has
not entered the error log. -/
def Obligations.StepsKeepCoresWhole : Prop :=
  ∀ s t : State, Settled s → (∀ c ∈ s.cores, FilesSized c) → step s = .next t → Settled t ∧ ∀ c ∈ t.cores, FilesSized c

/-- Every step keeps the numbers distinct by which streams, queue pairs, placed cores, write units and transfers are found.
-/
def Obligations.StepsKeepNumbersDistinct : Prop :=
  ∀ s t : State, Distinct s → step s = .next t → Distinct t

/-- R576, R577, R579: no step opens a SILICON session outside MANUFACTURE or leaves one open there, keeps a challenge that
could open one, shows keys as derived in DECOMMISSIONED, or clears the debugged bit while a session is open. -/
def Obligations.StepsKeepSessionsLegal : Prop :=
  ∀ s t : State, SessionsLegal s → step s = .next t → SessionsLegal t
end

