-- ==== Sys2Proof/Laws/State.lean ====
section
/-!
SUPPORT. The small lemmas of the state: for each named update of `State`, one lemma for each field, true by unfolding the
update once, so that no later proof unfolds a record update; and what reading a numbered part back answers.
-/

namespace Sys2Proof.Machine

set_option linter.all false

/-! ### List positions and association lists -/

@[simp] theorem modAt_length {α : Type} (l : List α) (i : Nat) (f : α → α) : (modAt l i f).length = l.length := by
  unfold modAt
  split <;> simp

theorem modAt_same {α : Type} {l : List α} {i : Nat} (f : α → α) (d : α) (h : i < l.length) :
    (modAt l i f).getD i d = f (l.getD i d) := by
  simp [modAt, h]

theorem modAt_ne {α : Type} {l : List α} {i j : Nat} (f : α → α) (d : α) (h : i ≠ j) :
    (modAt l i f).getD j d = l.getD j d := by
  unfold modAt
  split
  · simp [List.getD_eq_getElem?_getD, List.getElem?_set_ne h]
  · rfl

theorem modAt_of_le {α : Type} {l : List α} {i : Nat} (f : α → α) (h : l.length ≤ i) : modAt l i f = l := by
  simp [modAt, h]

theorem look_put_same {β : Type} (l : List (Nat × β)) (k : Nat) (v d : β) : look (put l k v) k d = v := by
  have h : (l.filter (fun p => p.1 != k)).find? (fun p => p.1 == k) = none := by
    simp [List.find?_eq_none]
  simp [look, put, List.find?_append, h]

theorem look_put_ne {β : Type} (l : List (Nat × β)) {k j : Nat} (v d : β) (h : j ≠ k) :
    look (put l k v) j d = look l j d := by
  have h1 : (l.filter (fun p => p.1 != k)).find? (fun p => p.1 == j) = l.find? (fun p => p.1 == j) := by
    rw [List.find?_filter]
    congr 1
    funext p
    by_cases e : p.1 = j <;> simp [e, h]
  have h2 : ¬ k = j := fun e => h e.symm
  unfold look put
  rw [List.find?_append, h1]
  cases l.find? (fun p => p.1 == j) <;> simp [h2]

/-! ### One lemma for each field of each update -/

@[simp] theorem setCore_pending (s : State) (k : Nat) (c : Core) : (setCore s k c).pending = s.pending := rfl
@[simp] theorem setCore_freeCtr (s : State) (k : Nat) (c : Core) : (setCore s k c).freeCtr = s.freeCtr := rfl
@[simp] theorem setCore_timeUs (s : State) (k : Nat) (c : Core) : (setCore s k c).timeUs = s.timeUs := rfl
@[simp] theorem setCore_readOut (s : State) (k : Nat) (c : Core) : (setCore s k c).readOut = s.readOut := rfl
@[simp] theorem setCore_cores (s : State) (k : Nat) (c : Core) : (setCore s k c).cores = s.cores.set k c := rfl
@[simp] theorem setCore_mesh (s : State) (k : Nat) (c : Core) : (setCore s k c).mesh = s.mesh := rfl
@[simp] theorem setCore_hbm (s : State) (k : Nat) (c : Core) : (setCore s k c).hbm = s.hbm := rfl
@[simp] theorem setCore_flash (s : State) (k : Nat) (c : Core) : (setCore s k c).flash = s.flash := rfl
@[simp] theorem setCore_net (s : State) (k : Nat) (c : Core) : (setCore s k c).net = s.net := rfl
@[simp] theorem setCore_host (s : State) (k : Nat) (c : Core) : (setCore s k c).host = s.host := rfl
@[simp] theorem setCore_log (s : State) (k : Nat) (c : Core) : (setCore s k c).log = s.log := rfl
@[simp] theorem setCore_mg (s : State) (k : Nat) (c : Core) : (setCore s k c).mg = s.mg := rfl
@[simp] theorem setCore_calico (s : State) (k : Nat) (c : Core) : (setCore s k c).calico = s.calico := rfl
@[simp] theorem setCore_pw (s : State) (k : Nat) (c : Core) : (setCore s k c).pw = s.pw := rfl
@[simp] theorem setCore_sc (s : State) (k : Nat) (c : Core) : (setCore s k c).sc = s.sc := rfl

@[simp] theorem modCore_pending (s : State) (k : Nat) (f : Core → Core) : (modCore s k f).pending = s.pending := rfl
@[simp] theorem modCore_freeCtr (s : State) (k : Nat) (f : Core → Core) : (modCore s k f).freeCtr = s.freeCtr := rfl
@[simp] theorem modCore_timeUs (s : State) (k : Nat) (f : Core → Core) : (modCore s k f).timeUs = s.timeUs := rfl
@[simp] theorem modCore_readOut (s : State) (k : Nat) (f : Core → Core) : (modCore s k f).readOut = s.readOut := rfl
@[simp] theorem modCore_cores (s : State) (k : Nat) (f : Core → Core) : (modCore s k f).cores = modAt s.cores k f := rfl
@[simp] theorem modCore_mesh (s : State) (k : Nat) (f : Core → Core) : (modCore s k f).mesh = s.mesh := rfl
@[simp] theorem modCore_hbm (s : State) (k : Nat) (f : Core → Core) : (modCore s k f).hbm = s.hbm := rfl
@[simp] theorem modCore_flash (s : State) (k : Nat) (f : Core → Core) : (modCore s k f).flash = s.flash := rfl
@[simp] theorem modCore_net (s : State) (k : Nat) (f : Core → Core) : (modCore s k f).net = s.net := rfl
@[simp] theorem modCore_host (s : State) (k : Nat) (f : Core → Core) : (modCore s k f).host = s.host := rfl
@[simp] theorem modCore_log (s : State) (k : Nat) (f : Core → Core) : (modCore s k f).log = s.log := rfl
@[simp] theorem modCore_mg (s : State) (k : Nat) (f : Core → Core) : (modCore s k f).mg = s.mg := rfl
@[simp] theorem modCore_calico (s : State) (k : Nat) (f : Core → Core) : (modCore s k f).calico = s.calico := rfl
@[simp] theorem modCore_pw (s : State) (k : Nat) (f : Core → Core) : (modCore s k f).pw = s.pw := rfl
@[simp] theorem modCore_sc (s : State) (k : Nat) (f : Core → Core) : (modCore s k f).sc = s.sc := rfl

@[simp] theorem modCtx_pending (s : State) (i : Nat) (f : Ctx → Ctx) : (modCtx s i f).pending = s.pending := rfl
@[simp] theorem modCtx_freeCtr (s : State) (i : Nat) (f : Ctx → Ctx) : (modCtx s i f).freeCtr = s.freeCtr := rfl
@[simp] theorem modCtx_timeUs (s : State) (i : Nat) (f : Ctx → Ctx) : (modCtx s i f).timeUs = s.timeUs := rfl
@[simp] theorem modCtx_readOut (s : State) (i : Nat) (f : Ctx → Ctx) : (modCtx s i f).readOut = s.readOut := rfl
@[simp] theorem modCtx_cores (s : State) (i : Nat) (f : Ctx → Ctx) : (modCtx s i f).cores = s.cores := rfl
@[simp] theorem modCtx_mesh (s : State) (i : Nat) (f : Ctx → Ctx) : (modCtx s i f).mesh = s.mesh := rfl
@[simp] theorem modCtx_hbm (s : State) (i : Nat) (f : Ctx → Ctx) : (modCtx s i f).hbm = s.hbm := rfl
@[simp] theorem modCtx_flash (s : State) (i : Nat) (f : Ctx → Ctx) : (modCtx s i f).flash = s.flash := rfl
@[simp] theorem modCtx_net (s : State) (i : Nat) (f : Ctx → Ctx) : (modCtx s i f).net = s.net := rfl
@[simp] theorem modCtx_host (s : State) (i : Nat) (f : Ctx → Ctx) : (modCtx s i f).host = { s.host with ctxs := modAt s.host.ctxs i f } := rfl
@[simp] theorem modCtx_log (s : State) (i : Nat) (f : Ctx → Ctx) : (modCtx s i f).log = s.log := rfl
@[simp] theorem modCtx_mg (s : State) (i : Nat) (f : Ctx → Ctx) : (modCtx s i f).mg = s.mg := rfl
@[simp] theorem modCtx_calico (s : State) (i : Nat) (f : Ctx → Ctx) : (modCtx s i f).calico = s.calico := rfl
@[simp] theorem modCtx_pw (s : State) (i : Nat) (f : Ctx → Ctx) : (modCtx s i f).pw = s.pw := rfl
@[simp] theorem modCtx_sc (s : State) (i : Nat) (f : Ctx → Ctx) : (modCtx s i f).sc = s.sc := rfl

@[simp] theorem modRing_pending (s : State) (q : Nat) (f : Ring → Ring) : (modRing s q f).pending = s.pending := rfl
@[simp] theorem modRing_freeCtr (s : State) (q : Nat) (f : Ring → Ring) : (modRing s q f).freeCtr = s.freeCtr := rfl
@[simp] theorem modRing_timeUs (s : State) (q : Nat) (f : Ring → Ring) : (modRing s q f).timeUs = s.timeUs := rfl
@[simp] theorem modRing_readOut (s : State) (q : Nat) (f : Ring → Ring) : (modRing s q f).readOut = s.readOut := rfl
@[simp] theorem modRing_cores (s : State) (q : Nat) (f : Ring → Ring) : (modRing s q f).cores = s.cores := rfl
@[simp] theorem modRing_mesh (s : State) (q : Nat) (f : Ring → Ring) : (modRing s q f).mesh = s.mesh := rfl
@[simp] theorem modRing_hbm (s : State) (q : Nat) (f : Ring → Ring) : (modRing s q f).hbm = s.hbm := rfl
@[simp] theorem modRing_flash (s : State) (q : Nat) (f : Ring → Ring) : (modRing s q f).flash = s.flash := rfl
@[simp] theorem modRing_net (s : State) (q : Nat) (f : Ring → Ring) : (modRing s q f).net = s.net := rfl
@[simp] theorem modRing_host (s : State) (q : Nat) (f : Ring → Ring) : (modRing s q f).host = { s.host with rings := modAt s.host.rings q f } := rfl
@[simp] theorem modRing_log (s : State) (q : Nat) (f : Ring → Ring) : (modRing s q f).log = s.log := rfl
@[simp] theorem modRing_mg (s : State) (q : Nat) (f : Ring → Ring) : (modRing s q f).mg = s.mg := rfl
@[simp] theorem modRing_calico (s : State) (q : Nat) (f : Ring → Ring) : (modRing s q f).calico = s.calico := rfl
@[simp] theorem modRing_pw (s : State) (q : Nat) (f : Ring → Ring) : (modRing s q f).pw = s.pw := rfl
@[simp] theorem modRing_sc (s : State) (q : Nat) (f : Ring → Ring) : (modRing s q f).sc = s.sc := rfl

@[simp] theorem modUpd_pending (s : State) (f : Update → Update) : (modUpd s f).pending = s.pending := rfl
@[simp] theorem modUpd_freeCtr (s : State) (f : Update → Update) : (modUpd s f).freeCtr = s.freeCtr := rfl
@[simp] theorem modUpd_timeUs (s : State) (f : Update → Update) : (modUpd s f).timeUs = s.timeUs := rfl
@[simp] theorem modUpd_readOut (s : State) (f : Update → Update) : (modUpd s f).readOut = s.readOut := rfl
@[simp] theorem modUpd_cores (s : State) (f : Update → Update) : (modUpd s f).cores = s.cores := rfl
@[simp] theorem modUpd_mesh (s : State) (f : Update → Update) : (modUpd s f).mesh = s.mesh := rfl
@[simp] theorem modUpd_hbm (s : State) (f : Update → Update) : (modUpd s f).hbm = s.hbm := rfl
@[simp] theorem modUpd_flash (s : State) (f : Update → Update) : (modUpd s f).flash = s.flash := rfl
@[simp] theorem modUpd_net (s : State) (f : Update → Update) : (modUpd s f).net = s.net := rfl
@[simp] theorem modUpd_host (s : State) (f : Update → Update) : (modUpd s f).host = { s.host with upd := f s.host.upd } := rfl
@[simp] theorem modUpd_log (s : State) (f : Update → Update) : (modUpd s f).log = s.log := rfl
@[simp] theorem modUpd_mg (s : State) (f : Update → Update) : (modUpd s f).mg = s.mg := rfl
@[simp] theorem modUpd_calico (s : State) (f : Update → Update) : (modUpd s f).calico = s.calico := rfl
@[simp] theorem modUpd_pw (s : State) (f : Update → Update) : (modUpd s f).pw = s.pw := rfl
@[simp] theorem modUpd_sc (s : State) (f : Update → Update) : (modUpd s f).sc = s.sc := rfl

@[simp] theorem modMg_pending (s : State) (f : Mg → Mg) : (modMg s f).pending = s.pending := rfl
@[simp] theorem modMg_freeCtr (s : State) (f : Mg → Mg) : (modMg s f).freeCtr = s.freeCtr := rfl
@[simp] theorem modMg_timeUs (s : State) (f : Mg → Mg) : (modMg s f).timeUs = s.timeUs := rfl
@[simp] theorem modMg_readOut (s : State) (f : Mg → Mg) : (modMg s f).readOut = s.readOut := rfl
@[simp] theorem modMg_cores (s : State) (f : Mg → Mg) : (modMg s f).cores = s.cores := rfl
@[simp] theorem modMg_mesh (s : State) (f : Mg → Mg) : (modMg s f).mesh = s.mesh := rfl
@[simp] theorem modMg_hbm (s : State) (f : Mg → Mg) : (modMg s f).hbm = s.hbm := rfl
@[simp] theorem modMg_flash (s : State) (f : Mg → Mg) : (modMg s f).flash = s.flash := rfl
@[simp] theorem modMg_net (s : State) (f : Mg → Mg) : (modMg s f).net = s.net := rfl
@[simp] theorem modMg_host (s : State) (f : Mg → Mg) : (modMg s f).host = s.host := rfl
@[simp] theorem modMg_log (s : State) (f : Mg → Mg) : (modMg s f).log = s.log := rfl
@[simp] theorem modMg_mg (s : State) (f : Mg → Mg) : (modMg s f).mg = f s.mg := rfl
@[simp] theorem modMg_calico (s : State) (f : Mg → Mg) : (modMg s f).calico = s.calico := rfl
@[simp] theorem modMg_pw (s : State) (f : Mg → Mg) : (modMg s f).pw = s.pw := rfl
@[simp] theorem modMg_sc (s : State) (f : Mg → Mg) : (modMg s f).sc = s.sc := rfl

@[simp] theorem modChan_pending (s : State) (pc : Nat) (f : PseudoChan → PseudoChan) : (modChan s pc f).pending = s.pending := rfl
@[simp] theorem modChan_freeCtr (s : State) (pc : Nat) (f : PseudoChan → PseudoChan) : (modChan s pc f).freeCtr = s.freeCtr := rfl
@[simp] theorem modChan_timeUs (s : State) (pc : Nat) (f : PseudoChan → PseudoChan) : (modChan s pc f).timeUs = s.timeUs := rfl
@[simp] theorem modChan_readOut (s : State) (pc : Nat) (f : PseudoChan → PseudoChan) : (modChan s pc f).readOut = s.readOut := rfl
@[simp] theorem modChan_cores (s : State) (pc : Nat) (f : PseudoChan → PseudoChan) : (modChan s pc f).cores = s.cores := rfl
@[simp] theorem modChan_mesh (s : State) (pc : Nat) (f : PseudoChan → PseudoChan) : (modChan s pc f).mesh = s.mesh := rfl
@[simp] theorem modChan_hbm (s : State) (pc : Nat) (f : PseudoChan → PseudoChan) : (modChan s pc f).hbm = { s.hbm with chans := put s.hbm.chans pc (f (chanAt s pc)) } := rfl
@[simp] theorem modChan_flash (s : State) (pc : Nat) (f : PseudoChan → PseudoChan) : (modChan s pc f).flash = s.flash := rfl
@[simp] theorem modChan_net (s : State) (pc : Nat) (f : PseudoChan → PseudoChan) : (modChan s pc f).net = s.net := rfl
@[simp] theorem modChan_host (s : State) (pc : Nat) (f : PseudoChan → PseudoChan) : (modChan s pc f).host = s.host := rfl
@[simp] theorem modChan_log (s : State) (pc : Nat) (f : PseudoChan → PseudoChan) : (modChan s pc f).log = s.log := rfl
@[simp] theorem modChan_mg (s : State) (pc : Nat) (f : PseudoChan → PseudoChan) : (modChan s pc f).mg = s.mg := rfl
@[simp] theorem modChan_calico (s : State) (pc : Nat) (f : PseudoChan → PseudoChan) : (modChan s pc f).calico = s.calico := rfl
@[simp] theorem modChan_pw (s : State) (pc : Nat) (f : PseudoChan → PseudoChan) : (modChan s pc f).pw = s.pw := rfl
@[simp] theorem modChan_sc (s : State) (pc : Nat) (f : PseudoChan → PseudoChan) : (modChan s pc f).sc = s.sc := rfl

@[simp] theorem setStack_pending (s : State) (i v : Nat) : (setStack s i v).pending = s.pending := rfl
@[simp] theorem setStack_freeCtr (s : State) (i v : Nat) : (setStack s i v).freeCtr = s.freeCtr := rfl
@[simp] theorem setStack_timeUs (s : State) (i v : Nat) : (setStack s i v).timeUs = s.timeUs := rfl
@[simp] theorem setStack_readOut (s : State) (i v : Nat) : (setStack s i v).readOut = s.readOut := rfl
@[simp] theorem setStack_cores (s : State) (i v : Nat) : (setStack s i v).cores = s.cores := rfl
@[simp] theorem setStack_mesh (s : State) (i v : Nat) : (setStack s i v).mesh = s.mesh := rfl
@[simp] theorem setStack_hbm (s : State) (i v : Nat) : (setStack s i v).hbm = { s.hbm with srState := s.hbm.srState.set i v } := rfl
@[simp] theorem setStack_flash (s : State) (i v : Nat) : (setStack s i v).flash = s.flash := rfl
@[simp] theorem setStack_net (s : State) (i v : Nat) : (setStack s i v).net = s.net := rfl
@[simp] theorem setStack_host (s : State) (i v : Nat) : (setStack s i v).host = s.host := rfl
@[simp] theorem setStack_log (s : State) (i v : Nat) : (setStack s i v).log = s.log := rfl
@[simp] theorem setStack_mg (s : State) (i v : Nat) : (setStack s i v).mg = s.mg := rfl
@[simp] theorem setStack_calico (s : State) (i v : Nat) : (setStack s i v).calico = s.calico := rfl
@[simp] theorem setStack_pw (s : State) (i v : Nat) : (setStack s i v).pw = s.pw := rfl
@[simp] theorem setStack_sc (s : State) (i v : Nat) : (setStack s i v).sc = s.sc := rfl

@[simp] theorem modFlash_pending (s : State) (n : Nat) (g : FlashChan → FlashChan) : (modFlash s n g).pending = s.pending := rfl
@[simp] theorem modFlash_freeCtr (s : State) (n : Nat) (g : FlashChan → FlashChan) : (modFlash s n g).freeCtr = s.freeCtr := rfl
@[simp] theorem modFlash_timeUs (s : State) (n : Nat) (g : FlashChan → FlashChan) : (modFlash s n g).timeUs = s.timeUs := rfl
@[simp] theorem modFlash_readOut (s : State) (n : Nat) (g : FlashChan → FlashChan) : (modFlash s n g).readOut = s.readOut := rfl
@[simp] theorem modFlash_cores (s : State) (n : Nat) (g : FlashChan → FlashChan) : (modFlash s n g).cores = s.cores := rfl
@[simp] theorem modFlash_mesh (s : State) (n : Nat) (g : FlashChan → FlashChan) : (modFlash s n g).mesh = s.mesh := rfl
@[simp] theorem modFlash_hbm (s : State) (n : Nat) (g : FlashChan → FlashChan) : (modFlash s n g).hbm = s.hbm := rfl
@[simp] theorem modFlash_flash (s : State) (n : Nat) (g : FlashChan → FlashChan) : (modFlash s n g).flash = if n = 1 then { s.flash with ch1 := g s.flash.ch1 } else { s.flash with ch0 := g s.flash.ch0 } := rfl
@[simp] theorem modFlash_net (s : State) (n : Nat) (g : FlashChan → FlashChan) : (modFlash s n g).net = s.net := rfl
@[simp] theorem modFlash_host (s : State) (n : Nat) (g : FlashChan → FlashChan) : (modFlash s n g).host = s.host := rfl
@[simp] theorem modFlash_log (s : State) (n : Nat) (g : FlashChan → FlashChan) : (modFlash s n g).log = s.log := rfl
@[simp] theorem modFlash_mg (s : State) (n : Nat) (g : FlashChan → FlashChan) : (modFlash s n g).mg = s.mg := rfl
@[simp] theorem modFlash_calico (s : State) (n : Nat) (g : FlashChan → FlashChan) : (modFlash s n g).calico = s.calico := rfl
@[simp] theorem modFlash_pw (s : State) (n : Nat) (g : FlashChan → FlashChan) : (modFlash s n g).pw = s.pw := rfl
@[simp] theorem modFlash_sc (s : State) (n : Nat) (g : FlashChan → FlashChan) : (modFlash s n g).sc = s.sc := rfl

@[simp] theorem modCage_pending (s : State) (c : Nat) (f : Cage → Cage) : (modCage s c f).pending = s.pending := rfl
@[simp] theorem modCage_freeCtr (s : State) (c : Nat) (f : Cage → Cage) : (modCage s c f).freeCtr = s.freeCtr := rfl
@[simp] theorem modCage_timeUs (s : State) (c : Nat) (f : Cage → Cage) : (modCage s c f).timeUs = s.timeUs := rfl
@[simp] theorem modCage_readOut (s : State) (c : Nat) (f : Cage → Cage) : (modCage s c f).readOut = s.readOut := rfl
@[simp] theorem modCage_cores (s : State) (c : Nat) (f : Cage → Cage) : (modCage s c f).cores = s.cores := rfl
@[simp] theorem modCage_mesh (s : State) (c : Nat) (f : Cage → Cage) : (modCage s c f).mesh = s.mesh := rfl
@[simp] theorem modCage_hbm (s : State) (c : Nat) (f : Cage → Cage) : (modCage s c f).hbm = s.hbm := rfl
@[simp] theorem modCage_flash (s : State) (c : Nat) (f : Cage → Cage) : (modCage s c f).flash = s.flash := rfl
@[simp] theorem modCage_net (s : State) (c : Nat) (f : Cage → Cage) : (modCage s c f).net = { s.net with cages := modAt s.net.cages c f } := rfl
@[simp] theorem modCage_host (s : State) (c : Nat) (f : Cage → Cage) : (modCage s c f).host = s.host := rfl
@[simp] theorem modCage_log (s : State) (c : Nat) (f : Cage → Cage) : (modCage s c f).log = s.log := rfl
@[simp] theorem modCage_mg (s : State) (c : Nat) (f : Cage → Cage) : (modCage s c f).mg = s.mg := rfl
@[simp] theorem modCage_calico (s : State) (c : Nat) (f : Cage → Cage) : (modCage s c f).calico = s.calico := rfl
@[simp] theorem modCage_pw (s : State) (c : Nat) (f : Cage → Cage) : (modCage s c f).pw = s.pw := rfl
@[simp] theorem modCage_sc (s : State) (c : Nat) (f : Cage → Cage) : (modCage s c f).sc = s.sc := rfl

@[simp] theorem modQp_pending (s : State) (n : Nat) (f : Qp → Qp) : (modQp s n f).pending = s.pending := rfl
@[simp] theorem modQp_freeCtr (s : State) (n : Nat) (f : Qp → Qp) : (modQp s n f).freeCtr = s.freeCtr := rfl
@[simp] theorem modQp_timeUs (s : State) (n : Nat) (f : Qp → Qp) : (modQp s n f).timeUs = s.timeUs := rfl
@[simp] theorem modQp_readOut (s : State) (n : Nat) (f : Qp → Qp) : (modQp s n f).readOut = s.readOut := rfl
@[simp] theorem modQp_cores (s : State) (n : Nat) (f : Qp → Qp) : (modQp s n f).cores = s.cores := rfl
@[simp] theorem modQp_mesh (s : State) (n : Nat) (f : Qp → Qp) : (modQp s n f).mesh = s.mesh := rfl
@[simp] theorem modQp_hbm (s : State) (n : Nat) (f : Qp → Qp) : (modQp s n f).hbm = s.hbm := rfl
@[simp] theorem modQp_flash (s : State) (n : Nat) (f : Qp → Qp) : (modQp s n f).flash = s.flash := rfl
@[simp] theorem modQp_net (s : State) (n : Nat) (f : Qp → Qp) : (modQp s n f).net = { s.net with qps := s.net.qps.map fun p => if p.num = n then f p else p } := rfl
@[simp] theorem modQp_host (s : State) (n : Nat) (f : Qp → Qp) : (modQp s n f).host = s.host := rfl
@[simp] theorem modQp_log (s : State) (n : Nat) (f : Qp → Qp) : (modQp s n f).log = s.log := rfl
@[simp] theorem modQp_mg (s : State) (n : Nat) (f : Qp → Qp) : (modQp s n f).mg = s.mg := rfl
@[simp] theorem modQp_calico (s : State) (n : Nat) (f : Qp → Qp) : (modQp s n f).calico = s.calico := rfl
@[simp] theorem modQp_pw (s : State) (n : Nat) (f : Qp → Qp) : (modQp s n f).pw = s.pw := rfl
@[simp] theorem modQp_sc (s : State) (n : Nat) (f : Qp → Qp) : (modQp s n f).sc = s.sc := rfl

@[simp] theorem modLink_pending (s : State) (n : Nat) (f : Link → Link) : (modLink s n f).pending = s.pending := rfl
@[simp] theorem modLink_freeCtr (s : State) (n : Nat) (f : Link → Link) : (modLink s n f).freeCtr = s.freeCtr := rfl
@[simp] theorem modLink_timeUs (s : State) (n : Nat) (f : Link → Link) : (modLink s n f).timeUs = s.timeUs := rfl
@[simp] theorem modLink_readOut (s : State) (n : Nat) (f : Link → Link) : (modLink s n f).readOut = s.readOut := rfl
@[simp] theorem modLink_cores (s : State) (n : Nat) (f : Link → Link) : (modLink s n f).cores = s.cores := rfl
@[simp] theorem modLink_mesh (s : State) (n : Nat) (f : Link → Link) : (modLink s n f).mesh = s.mesh := rfl
@[simp] theorem modLink_hbm (s : State) (n : Nat) (f : Link → Link) : (modLink s n f).hbm = s.hbm := rfl
@[simp] theorem modLink_flash (s : State) (n : Nat) (f : Link → Link) : (modLink s n f).flash = s.flash := rfl
@[simp] theorem modLink_net (s : State) (n : Nat) (f : Link → Link) : (modLink s n f).net = { s.net with links := s.net.links.map fun l => if l.num = n then f l else l } := rfl
@[simp] theorem modLink_host (s : State) (n : Nat) (f : Link → Link) : (modLink s n f).host = s.host := rfl
@[simp] theorem modLink_log (s : State) (n : Nat) (f : Link → Link) : (modLink s n f).log = s.log := rfl
@[simp] theorem modLink_mg (s : State) (n : Nat) (f : Link → Link) : (modLink s n f).mg = s.mg := rfl
@[simp] theorem modLink_calico (s : State) (n : Nat) (f : Link → Link) : (modLink s n f).calico = s.calico := rfl
@[simp] theorem modLink_pw (s : State) (n : Nat) (f : Link → Link) : (modLink s n f).pw = s.pw := rfl
@[simp] theorem modLink_sc (s : State) (n : Nat) (f : Link → Link) : (modLink s n f).sc = s.sc := rfl

@[simp] theorem nextEpoch_pending (s : State) : (nextEpoch s).pending = s.pending := rfl
@[simp] theorem nextEpoch_freeCtr (s : State) : (nextEpoch s).freeCtr = s.freeCtr + 1 := rfl
@[simp] theorem nextEpoch_timeUs (s : State) : (nextEpoch s).timeUs = s.timeUs := rfl
@[simp] theorem nextEpoch_readOut (s : State) : (nextEpoch s).readOut = s.readOut := rfl
@[simp] theorem nextEpoch_cores (s : State) : (nextEpoch s).cores = s.cores := rfl
@[simp] theorem nextEpoch_mesh (s : State) : (nextEpoch s).mesh = s.mesh := rfl
@[simp] theorem nextEpoch_hbm (s : State) : (nextEpoch s).hbm = s.hbm := rfl
@[simp] theorem nextEpoch_flash (s : State) : (nextEpoch s).flash = s.flash := rfl
@[simp] theorem nextEpoch_net (s : State) : (nextEpoch s).net = s.net := rfl
@[simp] theorem nextEpoch_host (s : State) : (nextEpoch s).host = s.host := rfl
@[simp] theorem nextEpoch_log (s : State) : (nextEpoch s).log = s.log := rfl
@[simp] theorem nextEpoch_mg (s : State) : (nextEpoch s).mg = s.mg := rfl
@[simp] theorem nextEpoch_calico (s : State) : (nextEpoch s).calico = s.calico := rfl
@[simp] theorem nextEpoch_pw (s : State) : (nextEpoch s).pw = s.pw := rfl
@[simp] theorem nextEpoch_sc (s : State) : (nextEpoch s).sc = s.sc := rfl

@[simp] theorem sendMsix_pending (s : State) (fn v : Nat) : (sendMsix s fn v).pending = s.pending := rfl
@[simp] theorem sendMsix_freeCtr (s : State) (fn v : Nat) : (sendMsix s fn v).freeCtr = s.freeCtr := rfl
@[simp] theorem sendMsix_timeUs (s : State) (fn v : Nat) : (sendMsix s fn v).timeUs = s.timeUs := rfl
@[simp] theorem sendMsix_readOut (s : State) (fn v : Nat) : (sendMsix s fn v).readOut = s.readOut := rfl
@[simp] theorem sendMsix_cores (s : State) (fn v : Nat) : (sendMsix s fn v).cores = s.cores := rfl
@[simp] theorem sendMsix_mesh (s : State) (fn v : Nat) : (sendMsix s fn v).mesh = s.mesh := rfl
@[simp] theorem sendMsix_hbm (s : State) (fn v : Nat) : (sendMsix s fn v).hbm = s.hbm := rfl
@[simp] theorem sendMsix_flash (s : State) (fn v : Nat) : (sendMsix s fn v).flash = s.flash := rfl
@[simp] theorem sendMsix_net (s : State) (fn v : Nat) : (sendMsix s fn v).net = s.net := rfl
@[simp] theorem sendMsix_host (s : State) (fn v : Nat) : (sendMsix s fn v).host = { s.host with msix := s.host.msix ++ [⟨fn, v⟩] } := rfl
@[simp] theorem sendMsix_log (s : State) (fn v : Nat) : (sendMsix s fn v).log = s.log := rfl
@[simp] theorem sendMsix_mg (s : State) (fn v : Nat) : (sendMsix s fn v).mg = s.mg := rfl
@[simp] theorem sendMsix_calico (s : State) (fn v : Nat) : (sendMsix s fn v).calico = s.calico := rfl
@[simp] theorem sendMsix_pw (s : State) (fn v : Nat) : (sendMsix s fn v).pw = s.pw := rfl
@[simp] theorem sendMsix_sc (s : State) (fn v : Nat) : (sendMsix s fn v).sc = s.sc := rfl

@[simp] theorem eventMsix_pending (s : State) : (eventMsix s).pending = s.pending := rfl
@[simp] theorem eventMsix_freeCtr (s : State) : (eventMsix s).freeCtr = s.freeCtr := rfl
@[simp] theorem eventMsix_timeUs (s : State) : (eventMsix s).timeUs = s.timeUs := rfl
@[simp] theorem eventMsix_readOut (s : State) : (eventMsix s).readOut = s.readOut := rfl
@[simp] theorem eventMsix_cores (s : State) : (eventMsix s).cores = s.cores := rfl
@[simp] theorem eventMsix_mesh (s : State) : (eventMsix s).mesh = s.mesh := rfl
@[simp] theorem eventMsix_hbm (s : State) : (eventMsix s).hbm = s.hbm := rfl
@[simp] theorem eventMsix_flash (s : State) : (eventMsix s).flash = s.flash := rfl
@[simp] theorem eventMsix_net (s : State) : (eventMsix s).net = s.net := rfl
@[simp] theorem eventMsix_host (s : State) : (eventMsix s).host = { s.host with msix := s.host.msix ++ [⟨0, s.host.eventVector.toNat⟩] } := rfl
@[simp] theorem eventMsix_log (s : State) : (eventMsix s).log = s.log := rfl
@[simp] theorem eventMsix_mg (s : State) : (eventMsix s).mg = s.mg := rfl
@[simp] theorem eventMsix_calico (s : State) : (eventMsix s).calico = s.calico := rfl
@[simp] theorem eventMsix_pw (s : State) : (eventMsix s).pw = s.pw := rfl
@[simp] theorem eventMsix_sc (s : State) : (eventMsix s).sc = s.sc := rfl

/-! ### Reading a numbered part back -/

@[simp] theorem setCore_same {s : State} {k : Nat} (c : Core) (h : k < s.cores.length) : coreAt (setCore s k c) k = c := by
  simp [coreAt, h]

@[simp] theorem setCore_ne {s : State} {k j : Nat} (c : Core) (h : k ≠ j) : coreAt (setCore s k c) j = coreAt s j := by
  simp [coreAt, List.getD_eq_getElem?_getD, List.getElem?_set_ne h]

@[simp] theorem modCore_same {s : State} {k : Nat} (f : Core → Core) (h : k < s.cores.length) :
    coreAt (modCore s k f) k = f (coreAt s k) := modAt_same f _ h

@[simp] theorem modCore_ne {s : State} {k j : Nat} (f : Core → Core) (h : k ≠ j) :
    coreAt (modCore s k f) j = coreAt s j := modAt_ne f _ h

@[simp] theorem modCtx_same {s : State} {c : Nat} (f : Ctx → Ctx) (h : c < s.host.ctxs.length) :
    ctxAt (modCtx s c f) c = f (ctxAt s c) := modAt_same f _ h

@[simp] theorem modCtx_ne {s : State} {c d : Nat} (f : Ctx → Ctx) (h : c ≠ d) :
    ctxAt (modCtx s c f) d = ctxAt s d := modAt_ne f _ h

@[simp] theorem modRing_same {s : State} {q : Nat} (f : Ring → Ring) (h : q < s.host.rings.length) :
    ringAt (modRing s q f) q = f (ringAt s q) := modAt_same f _ h

@[simp] theorem modRing_ne {s : State} {q p : Nat} (f : Ring → Ring) (h : q ≠ p) :
    ringAt (modRing s q f) p = ringAt s p := modAt_ne f _ h

@[simp] theorem modCage_same {s : State} {c : Nat} (f : Cage → Cage) (h : c < s.net.cages.length) :
    cageAt (modCage s c f) c = f (cageAt s c) := modAt_same f _ h

@[simp] theorem modCage_ne {s : State} {c d : Nat} (f : Cage → Cage) (h : c ≠ d) :
    cageAt (modCage s c f) d = cageAt s d := modAt_ne f _ h

@[simp] theorem modChan_same (s : State) (pc : Nat) (f : PseudoChan → PseudoChan) :
    chanAt (modChan s pc f) pc = f (chanAt s pc) := look_put_same _ _ _ _

@[simp] theorem modChan_ne (s : State) {pc j : Nat} (f : PseudoChan → PseudoChan) (h : j ≠ pc) :
    chanAt (modChan s pc f) j = chanAt s j := look_put_ne _ _ _ h

end Sys2Proof.Machine
end

