-- ==== Sys2Proof/Laws/Cores.lean ====
section
/-!
SUPPORT. What the shared operations of a core do, each said once: the error log leaves the cores alone, a step of a core
changes that core and no other, and when a core's event takes place.
-/

namespace Sys2Proof.Machine

set_option linter.all false

/-- The log touches no core. -/
@[simp] theorem logPut_cores (s : State) (e : LogEntry) : (logPut s e).1.cores = s.cores := by
  unfold logPut
  split
  · rfl
  · dsimp only
    split <;> rfl

@[simp] theorem logAdd_cores (s : State) (e : LogEntry) : (logAdd s e).cores = s.cores := logPut_cores s e

@[simp] theorem logCtx_cores (s : State) (i : Nat) (e : LogEntry) : (logCtx s i e).cores = s.cores := by
  unfold logCtx noteBatch modBatch
  dsimp only
  split <;> simp

/-- What a core reported is handed over: the core stays as it is but for its reports. -/
theorem settle_cores {s : State} {k : Nat} (h : k < s.cores.length) :
    (settle s k).cores = s.cores.set k { coreAt s k with reports := [] } := by
  have e : coreAt s k = s.cores[k] := by simp [coreAt, h]
  unfold settle
  dsimp only
  split
  · rename_i r
    have : ({ coreAt s k with reports := [] } : Core) = coreAt s k := by rw [← r]
    rw [this, e]
    simp
  · have : ∀ (l : List Report) (t : State), (l.foldl (fun x r =>
        logCtx x ((coreAt s k).ctx.getD 0xFF) { logEntry r.cls r.unit r.code 0 with
          core := k, inst := r.inst, bundle := r.bundle, address := r.address, detail := r.detail }) t).cores = t.cores := by
      intro l
      induction l with
      | nil => simp
      | cons a l ih => exact fun t => by simp [ih]
    rw [this]
    rfl

/-- Nothing reported, nothing handed over. -/
theorem settle_of_reports {s : State} {k : Nat} (h : (coreAt s k).reports = []) : settle s k = s := by
  unfold settle
  dsimp only
  split
  · rfl
  · simp_all

theorem coreAt_of_lt {s : State} {k : Nat} (h : k < s.cores.length) : coreAt s k = s.cores[k] := by simp [coreAt, h]

theorem modCore_eq {s : State} {k : Nat} (f : Core → Core) (h : k < s.cores.length) :
    modCore s k f = setCore s k (f (coreAt s k)) := by
  simp [modCore, setCore, modAt, coreAt, h]

/-- A step of core `k` changes core `k` and no other. -/
theorem onCore_cores {s : State} {k : Nat} (f : Core → Core) (h : k < s.cores.length) :
    (onCore s k f).cores = s.cores.set k { f (coreAt s k) with reports := [] } := by
  have h' : k < (modCore s k f).cores.length := by simpa using h
  rw [onCore, settle_cores h', modCore_same _ h, modCore_eq _ h]
  simp [setCore]

/-- A step of a core that reports nothing changes nothing outside the core. -/
theorem onCore_of_reports {s : State} {k : Nat} {f : Core → Core} (h : k < s.cores.length)
    (r : (f (coreAt s k)).reports = []) : onCore s k f = setCore s k (f (coreAt s k)) := by
  have : (coreAt (modCore s k f) k).reports = [] := by rw [modCore_same _ h, r]
  rw [onCore, settle_of_reports this, modCore_eq _ h]

@[simp] theorem logPut_ctxs (s : State) (e : LogEntry) : (logPut s e).1.host.ctxs = s.host.ctxs := by
  unfold logPut
  split
  · rfl
  · dsimp only
    split <;> rfl

theorem modCtx_of_le {s : State} {i : Nat} (f : Ctx → Ctx) (h : s.host.ctxs.length ≤ i) : modCtx s i f = s := by
  simp [modCtx, modAt_of_le _ h]

/-- Logging for a context may mark its batch; what the context is and where it runs stays. -/
theorem logCtx_ctx (s : State) (i : Nat) (e : LogEntry) (j : Nat) :
    ∃ b, ctxAt (logCtx s i e) j = { ctxAt s j with batch := b } := by
  unfold logCtx noteBatch modBatch
  dsimp only
  split
  · exact ⟨(ctxAt s j).batch, by simp only [ctxAt, logPut_ctxs]⟩
  · by_cases h : i = j
    · subst h
      by_cases l : i < s.host.ctxs.length
      · rw [modCtx_same _ (by simpa using l)]
        simp only [ctxAt, logPut_ctxs]
        exact ⟨_, rfl⟩
      · rw [modCtx_of_le _ (by simp; omega)]
        exact ⟨(ctxAt s i).batch, by simp only [ctxAt, logPut_ctxs]⟩
    · rw [modCtx_ne _ h]
      exact ⟨(ctxAt s j).batch, by simp only [ctxAt, logPut_ctxs]⟩

/-- A step of a core may mark a batch of a context; what the context is and where it runs stays. -/
theorem onCore_ctx (s : State) (k : Nat) (f : Core → Core) (j : Nat) :
    ∃ b, ctxAt (onCore s k f) j = { ctxAt s j with batch := b } := by
  have step : ∀ (i : Nat) (g : Report → LogEntry) (l : List Report) (t : State),
      ∃ b, ctxAt (l.foldl (fun x r => logCtx x i (g r)) t) j = { ctxAt t j with batch := b } := by
    intro i g l
    induction l with
    | nil => exact fun t => ⟨_, rfl⟩
    | cons a l ih =>
      intro t
      obtain ⟨b, e⟩ := ih (logCtx t i (g a))
      obtain ⟨d, h⟩ := logCtx_ctx t i (g a) j
      exact ⟨b, by rw [List.foldl_cons, e, h]⟩
  unfold onCore settle
  dsimp only
  split
  · exact ⟨_, rfl⟩
  · exact step _ _ _ _

theorem onCore_coreOf (s : State) (k : Nat) (f : Core → Core) (j lane : Nat) :
    coreOf (ctxAt (onCore s k f) j) lane = coreOf (ctxAt s j) lane := by
  obtain ⟨b, e⟩ := onCore_ctx s k f j
  rw [e]
  rfl

/-- With no lane of the batch halted at a stop, nothing ends it (R299). -/
theorem stopCheckCtx_of_none {s : State} {i : Nat} (h : ∀ b, (ctxAt s i).batch = some b → b.lanesHalted = []) :
    stopCheckCtx s i = s := by
  unfold stopCheckCtx
  split
  · rfl
  · rename_i b e
    simp [h b e]

/-- A context's batch mapped, read back. -/
theorem modBatch_batch {s : State} {i : Nat} (f : Batch → Batch) (h : i < s.host.ctxs.length) :
    (ctxAt (modBatch s i f) i).batch = (ctxAt s i).batch.map f := by
  rw [modBatch, modCtx_same _ h]

/-- No core has this number: nothing happens. -/
theorem modCore_of_le {s : State} {k : Nat} (f : Core → Core) (h : s.cores.length ≤ k) : modCore s k f = s := by
  simp [modCore, modAt_of_le _ h]

/-- A step that gives core `k` a value. -/
theorem becomes_eq {s : State} {k : Nat} {c : Core} (h : k < s.cores.length) (r : c.reports = []) :
    onCore s k (fun _ => c) = setCore s k c := onCore_of_reports (f := fun _ => c) h r

/-- The same, whatever the step is called. -/
theorem onCore_eq {s : State} {k : Nat} {f g : Core → Core} (h : f (coreAt s k) = g (coreAt s k)) :
    onCore s k f = onCore s k g := by
  by_cases l : k < s.cores.length
  · rw [onCore, onCore, modCore_eq _ l, modCore_eq _ l, h]
  · rw [onCore, onCore, modCore_of_le _ (by omega), modCore_of_le _ (by omega)]

/-! ### The counter of a core -/

theorem atCycle_half (t : Nat) : atCycle t / 2 = t := by simp [atCycle]

theorem atEnd_half (t : Nat) : atEnd t / 2 = t := by
  unfold atEnd
  omega

/-- A core already in a cycle, or past it, stays. -/
theorem advanceTo_of_le {c : Core} {t : Nat} (h : t ≤ c.ctl.cycle) : advanceTo c t = c := by
  unfold advanceTo
  rw [if_pos h]

@[simp] theorem advanceTo_cycle (c : Core) (t : Nat) : (advanceTo c t).ctl.cycle = max c.ctl.cycle t := by
  unfold advanceTo
  split
  · omega
  · show t = max c.ctl.cycle t
    omega

/-- The counter moved changes nothing else of the control core, no queue, no tile, no result and no register. -/
theorem advanceTo_rest (c : Core) (t : Nat) :
    (advanceTo c t).regs = c.regs ∧ (advanceTo c t).hold = c.hold ∧ (advanceTo c t).mq = c.mq ∧ (advanceTo c t).vq = c.vq ∧
      (advanceTo c t).movq = c.movq ∧ (advanceTo c t).mv = c.mv ∧ (advanceTo c t).seq = c.seq ∧
      (advanceTo c t).reports = c.reports := by
  unfold advanceTo endCycle
  split
  · simp
  · simp

/-! ### The events of a core -/

/-- What an event that may take place comes to in core `d`, which has arrived at it (R195, R199, R200). -/
theorem coreEvent_at {c d : Core} {key : Nat} (f : Core → Try) (may : mayGo c key = true) (arr : d = arrive c key)
    (ok : arrived d key = true) :
    coreEvent c key f = finishCycle (doInner { settleTry d (f d) with workEnd := d.ctl.cycle + 1 }) := by
  subst arr
  simp [coreEvent, may, ok]

/-- It takes place. -/
theorem coreEvent_go {c d x : Core} {key : Nat} {f : Core → Try} (may : mayGo c key = true) (arr : d = arrive c key)
    (ok : arrived d key = true) (go : f d = .go x) :
    coreEvent c key f = finishCycle (doInner { x with workEnd := d.ctl.cycle + 1 }) := by
  rw [coreEvent_at f may arr ok, go]
  rfl

/-- A core whose cycle holds or stops it does nothing else of the event. -/
theorem coreEvent_stays {c d : Core} {key : Nat} (f : Core → Try) (may : mayGo c key = true) (arr : d = arrive c key)
    (no : arrived d key = false) : coreEvent c key f = d := by
  subst arr
  simp [coreEvent, may, no]

/-- A core that may not go on to a key stays as it is. -/
theorem coreEvent_kept {c : Core} {key : Nat} (f : Core → Try) (no : mayGo c key = false) : coreEvent c key f = c := by
  simp [coreEvent, no]

/-- A core that does not run, or has stopped, does nothing. -/
theorem coreEvent_off {c : Core} (key : Nat) (f : Core → Try) (h : c.started = false ∨ c.regs.stopped = true) :
    coreEvent c key f = c := coreEvent_kept f (by rcases h with h | h <;> simp [mayGo, h])

/-- A core that a waiting cause holds does nothing (R200, R202). -/
theorem coreEvent_held {c : Core} (key : Nat) (f : Core → Try) (h : waitHeld c = true) : coreEvent c key f = c :=
  coreEvent_kept f (by simp [mayGo, h])

/-- Events tried in order. -/
@[simp] theorem tryAll_nil (o : Outlook) : tryAll [] o = o := rfl

theorem tryAll_append (fs gs : List (Core → Try)) (o : Outlook) : tryAll (fs ++ gs) o = tryAll gs (tryAll fs o) := by
  induction fs generalizing o with
  | nil => rfl
  | cons f fs ih =>
    simp only [List.cons_append, tryAll]
    cases f o.core <;> simp [ih]

/-- Events that leave the core as it is leave the outlook as it is. -/
theorem tryAll_idle {fs : List (Core → Try)} {o : Outlook} (h : ∀ g ∈ fs, g o.core = .go o.core) : tryAll fs o = o := by
  induction fs with
  | nil => rfl
  | cons f fs ih =>
    rw [tryAll, h f (by simp)]
    exact ih fun g m => h g (by simp [m])

/-! ### Bundles -/

/-- A bundle whose slot-0 operation has still to be executed is taken (R198, R238). -/
theorem takeBundle_first {c : Core} {op : Nat} {b : BitVec 256} (f : W64 → Core → Core) (can : canProcess c = true)
    (here : bundleAt c.ctl c.ctl.pc = some b) (is : opOf (slotOf b 0) = op) (fresh : c.ctl.pushed = 0) :
    takeBundle c op f = goOn (f (slotOf b 0) c) b := by
  unfold takeBundle
  simp [can, here, is, fresh]

/-- A bundle that waits at a full queue goes on from there, and its slot-0 operation is not executed again (R198). -/
theorem takeBundle_again {c : Core} {op : Nat} {b : BitVec 256} (f : W64 → Core → Core) (can : canProcess c = true)
    (here : bundleAt c.ctl c.ctl.pc = some b) (is : opOf (slotOf b 0) = op) (part : c.ctl.pushed ≠ 0) :
    takeBundle c op f = goOn c b := by
  unfold takeBundle
  simp [can, here, is, part]

/-! ### Tokens and scheduled accesses -/

/-- A word without a token issues at once; one with a token takes it, or waits for it (R207). -/
theorem popToken_none {c : Core} {q : QWord} (f : Core → Try) (h : tokenOf q.word = none) : popToken c q f = f c := by
  simp [popToken, h]

theorem popToken_some {c : Core} {q : QWord} (f : Core → Try) {tk : Nat} (h : tokenOf q.word = some tk)
    (k : c.ctl.tokens.getD tk 0 ≠ 0) :
    popToken c q f = f { c with ctl := { c.ctl with tokens := modAt c.ctl.tokens tk (· - 1) } } := by
  rw [List.getD_eq_getElem?_getD] at k
  simp [popToken, h, k]

theorem popToken_wait {c : Core} {q : QWord} (f : Core → Try) {tk : Nat} (h : tokenOf q.word = some tk)
    (k : c.ctl.tokens.getD tk 0 = 0) : popToken c q f = .wait [] [tk] q.bundle := by
  rw [List.getD_eq_getElem?_getD] at k
  simp [popToken, h, k]

/-- No error is found where no row has a wrong bit. -/
theorem checkRows_clean {sp : Sp} {rows : List (Nat × Nat)} (h : ∀ r ∈ rows, rowCheckOf sp r.1 r.2 = (0, false)) :
    checkRows sp rows = ([], []) := by
  have z : ∀ r ∈ rows.eraseDups, rowCheck sp r.1 r.2 = 0 := fun r m => by
    rw [rowCheck, h r (List.mem_eraseDups.mp m)]
  unfold checkRows
  rw [Prod.mk.injEq]
  constructor <;> exact List.filter_eq_nil_iff.mpr fun r m => by simp [z r m]

/-- Rows with no wrong bit change nothing when they are checked. -/
theorem noteChecks_clean {c : Core} {rows : List (Nat × Nat)} (bundle : Nat) (scrub : Bool)
    (h : ∀ r ∈ rows, rowCheckOf c.sp r.1 r.2 = (0, false)) : noteChecks c rows bundle scrub = c := by
  have keep : ∀ l : List (Nat × Nat), (∀ r ∈ l, rowCheckOf c.sp r.1 r.2 = (0, false)) →
      l.foldl (fun s r => scramble s r.1 r.2) c.sp = c.sp := by
    intro l
    induction l with
    | nil => exact fun _ => rfl
    | cons r l ih =>
      intro g
      have e : scramble c.sp r.1 r.2 = c.sp := by simp [scramble, g r (by simp)]
      rw [List.foldl_cons, e]
      exact ih fun x m => g x (by simp [m])
  unfold noteChecks
  simp only [checkRows_clean h, List.foldl_nil, keep _ fun r m => h r (List.mem_eraseDups.mp m)]

/-- No bank meets an access of the cycle when all of them are free and apart. -/
theorem findConflict_none {busy : List SchedAcc} {accs : List Acc}
    (free : ∀ a ∈ accs, ∀ r ∈ a.rows, ∀ b ∈ busy, b.bank ≠ r.2) (apart : ((accs.flatMap (·.rows)).map (·.2)).Nodup) :
    findConflict busy accs = none := by
  induction accs generalizing busy with
  | nil => rfl
  | cons a as ih =>
    have none : busy.find? (fun b => (a.rows.map (·.2)).contains b.bank) = none := by
      rw [List.find?_eq_none]
      intro b m
      have := fun r hr => free a (by simp) r hr b m
      simp only [List.contains_eq_mem, List.mem_map, decide_eq_true_eq, not_exists, not_and]
      exact fun r hr e => this r hr e.symm
    have split := apart
    simp only [List.flatMap_cons, List.map_append, List.nodup_append] at split
    simp only [findConflict, none]
    refine ih ?_ split.2.1
    intro x hx r hr b m
    rcases List.mem_append.mp m with m | m
    · exact free x (by simp [hx]) r hr b m
    · obtain ⟨y, hy, rfl⟩ := List.mem_map.mp m
      exact split.2.2 y.2 (List.mem_map_of_mem hy) r.2 (List.mem_map_of_mem (List.mem_flatMap.mpr ⟨x, hx, hr⟩))

/-- Accesses that may take place do, and the event goes on from the core in whose cycle they have (R145, R152 to R154). -/
theorem schedAccess_permitted {d : Core} {write merge : Bool} {accs : List Acc} (f : Core → Core)
    (p : Permitted d write merge accs) : schedAccess d write merge accs f = .go (f (accessed d write accs)) := by
  have mem : ∀ r ∈ accs.flatMap (fun a => a.rows.zipIdx.map fun r => (a.port, r.1, a.first + r.2)), r.2.1 ∈ rowsOf accs := by
    intro r m
    obtain ⟨a, ha, m⟩ := List.mem_flatMap.mp m
    obtain ⟨x, hx, rfl⟩ := List.mem_map.mp m
    have inside : x.1 ∈ a.rows := List.fst_mem_of_mem_zipIdx hx
    exact List.mem_flatMap.mpr ⟨a, ha, inside⟩
  have rows : (accs.flatMap (fun a => a.rows.zipIdx.map fun r => (a.port, r.1, a.first + r.2))).map (·.2.1) = rowsOf accs := by
    simp [rowsOf, List.map_flatMap, Function.comp_def]
  have owned : (accs.flatMap (fun a => a.rows.zipIdx.map fun r => (a.port, r.1, a.first + r.2))).find?
      (fun r => !ownsPage d.pagesLow d.pagesHigh r.2.1.1) = none := by
    rw [List.find?_eq_none]
    intro r m
    simp [p.owned _ (mem r m)]
  have sound : (accs.flatMap (fun a => a.rows.zipIdx.map fun r => (a.port, r.1, a.first + r.2))).find?
      (fun r => tagState (tagOf d.sp r.2.1.1) == 3) = none := by
    rw [List.find?_eq_none]
    intro r m
    have := p.tags _ (mem r m)
    rw [tagState, this]
    cases write <;> simp
  have allowed : accRefused d write (accPages (rowsOf accs)) = [] := by
    unfold accRefused accPages
    rw [List.filter_eq_nil_iff]
    intro x m
    obtain ⟨r, hr, rfl⟩ := List.mem_map.mp (List.mem_eraseDups.mp m)
    simp [tagPermits, tagState, p.tags r hr]
  have apart : findConflict d.sp.busy accs = none :=
    findConflict_none (fun a ha r hr b m => p.free r (List.mem_flatMap.mpr ⟨a, ha, hr⟩) b m) p.apart
  unfold schedAccess
  simp only [owned, sound, rows, allowed, apart, ite_self]
  by_cases w : write = true ∧ merge = false
  · have : (write && !merge) = true := by simp [w]
    simp [this, w, noteChecks, checkRows, eccHold, accessed, dropCorr, rowsOf]
  · have c : ∀ r ∈ rowsOf accs, rowCheckOf d.sp r.1 r.2 = (0, false) := fun r m => p.clean r m (by
      cases write <;> cases merge <;> simp_all)
    have n : (write && !merge) = false := by
      cases write <;> cases merge <;> simp_all
    have fine : (accs.flatMap (fun a => a.rows.zipIdx.map fun r => (a.port, r.1, a.first + r.2))).find?
        (fun r => rowCheck d.sp r.2.1.1 r.2.1.2 == 2) = none := by
      rw [List.find?_eq_none]
      intro r m
      simp [rowCheck, c _ (mem r m)]
    have still : accs.filter (fun a => !(checkRows d.sp a.rows).1.isEmpty) = [] := by
      rw [List.filter_eq_nil_iff]
      intro a ha
      rw [checkRows_clean fun r hr => c r (List.mem_flatMap.mpr ⟨a, ha, hr⟩)]
      simp
    simp only [n, Bool.not_false, Bool.true_and, Bool.false_eq_true, ↓reduceIte, rows, fine, noteChecks_clean _ _ c, still]
    simp only [List.length_nil, eccHold, accessed]
    split <;> simp_all [dropCorr, rowsOf]

end Sys2Proof.Machine
end

