-- ==== Sys2Proof/Laws/FrameCores.lean ====
section
/-!
SUPPORT. What the meanings and their operations keep, said once for each (the error log, the cores and their engines, and memory): see `Kept` and `Sized`.
-/

namespace Sys2Proof.Machine

set_option linter.all false

/-- What a step outside the one-way state keeps: the queue, the numbers of cores, rings, contexts, flags, ports and cages
(R6), and the fuses with the end of life (R392, R572, R575). -/
abbrev Kept (t s : State) : Prop :=
  t.pending = s.pending ∧ t.cores.length = s.cores.length ∧ t.host.rings.length = s.host.rings.length ∧
    t.host.ctxs.length = s.host.ctxs.length ∧ t.host.flags.length = s.host.flags.length ∧
    t.net.ports.length = s.net.ports.length ∧ t.net.cages.length = s.net.cages.length ∧
    t.sc.revoked = s.sc.revoked ∧ t.sc.rollback = s.sc.rollback ∧ t.sc.lifecycle = s.sc.lifecycle ∧
    t.sc.udsErased = s.sc.udsErased ∧ t.sc.decomDone = s.sc.decomDone

/-- The same without the one-way state: what every step keeps. -/
abbrev Sized (t s : State) : Prop :=
  t.pending = s.pending ∧ t.cores.length = s.cores.length ∧ t.host.rings.length = s.host.rings.length ∧
    t.host.ctxs.length = s.host.ctxs.length ∧ t.host.flags.length = s.host.flags.length ∧
    t.net.ports.length = s.net.ports.length ∧ t.net.cages.length = s.net.cages.length

@[simp] theorem foldl_kept {β : Type} (f : State → β → State) (h : ∀ s x, Kept (f s x) s) (l : List β) (s : State) :
    Kept (l.foldl f s) s := by
  induction l generalizing s with
  | nil => simp [Kept]
  | cons x l ih =>
    have a := ih (f s x)
    have b := h s x
    simp_all [Kept]

theorem kept_self (s : State) : Kept s s := ⟨rfl, rfl, rfl, rfl, rfl, rfl, rfl, rfl, rfl, rfl, rfl, rfl⟩

theorem kept_ite {p : Prop} [Decidable p] {a b s : State} (ha : Kept a s) (hb : Kept b s) : Kept (if p then a else b) s := by
  split
  · exact ha
  · exact hb

theorem foldl_fst_kept {α β : Type} (f : State × α → β → State × α) (h : ∀ p x, Kept (f p x).1 p.1) (l : List β)
    (p : State × α) : Kept (l.foldl f p).1 p.1 := by
  induction l generalizing p with
  | nil => simp [Kept]
  | cons x l ih =>
    have a := ih (f p x)
    have b := h p x
    simp_all [Kept]

/-! ### Machine/Ops.lean -/

@[simp] theorem sendMsix_frame (s : State) (fn vector : Nat) :
    Kept (sendMsix s fn vector) s := by
  unfold sendMsix
  simp [Kept]

@[simp] theorem eventMsix_frame (s : State) :
    Kept (eventMsix s) s := by
  unfold eventMsix
  simp [Kept]

@[simp] theorem setAlert_frame (s : State) (alert en : Byte) :
    Kept (setAlert s alert en) s := by
  unfold setAlert
  simp [Kept]

@[simp] theorem raiseAlert_frame (s : State) (bits : Byte) :
    Kept (raiseAlert s bits) s := by
  unfold raiseAlert
  simp [Kept]

@[simp] theorem logPut_frame (s : State) (e : LogEntry) :
    Kept ((logPut s e).1) s := by
  unfold logPut
  repeat' split
  all_goals simp [Kept]

theorem logPut_pair {s : State} {e : LogEntry} {u : State} {vr} (h : logPut s e = (u, vr)) :
    Kept u s := by
  have := logPut_frame s e
  rwa [h] at this

@[simp] theorem logAdd_frame (s : State) (e : LogEntry) :
    Kept (logAdd s e) s := by
  unfold logAdd
  simp [Kept]

/-! ### Machine/Cores.lean -/

@[simp] theorem setCore_frame (s : State) (k : Nat) (c : Core) :
    Kept (setCore s k c) s := by
  unfold setCore
  simp [Kept]

@[simp] theorem modCore_frame (s : State) (k : Nat) (f : Core → Core) :
    Kept (modCore s k f) s := by
  unfold modCore
  simp [Kept]

@[simp] theorem modCtx_frame (s : State) (i : Nat) (f : Ctx → Ctx) :
    Kept (modCtx s i f) s := by
  unfold modCtx
  simp [Kept]

@[simp] theorem modBatch_frame (s : State) (i : Nat) (f : Batch → Batch) :
    Kept (modBatch s i f) s := by
  unfold modBatch
  simp [Kept]

@[simp] theorem nextEpoch_frame (s : State) :
    Kept (nextEpoch s) s := by
  unfold nextEpoch
  simp [Kept]

@[simp] theorem noteBatch_frame (s : State) (i seq : Nat) :
    Kept (noteBatch s i seq) s := by
  unfold noteBatch
  simp [Kept]

@[simp] theorem logCtx_frame (s : State) (i : Nat) (e : LogEntry) :
    Kept (logCtx s i e) s := by
  unfold logCtx
  split <;> simp [Kept]

@[simp] theorem settle_frame (s : State) (k : Nat) :
    Kept (settle s k) s := by
  unfold settle
  dsimp only
  split <;> simp [Kept]

@[simp] theorem onCore_frame (s : State) (k : Nat) (f : Core → Core) :
    Kept (onCore s k f) s := by
  unfold onCore
  simp [Kept]

@[simp] theorem finishEntry_frame (s : State) (q idx status value : Nat) :
    Kept (finishEntry s q idx status value) s := by
  unfold finishEntry
  simp [Kept]

@[simp] theorem deviceFatal_frame (s : State) (e : LogEntry) :
    Kept (deviceFatal s e) s := by
  unfold deviceFatal
  dsimp only
  split <;> simp [Kept]

@[simp] theorem endStopped_frame (s : State) (i : Nat) :
    Kept (endStopped s i) s := by
  unfold endStopped
  split <;> simp [Kept]

@[simp] theorem stopCheckCtx_frame (s : State) (i : Nat) :
    Kept (stopCheckCtx s i) s := by
  unfold stopCheckCtx
  repeat' split
  all_goals simp [Kept]

@[simp] theorem stopChecks_frame (s : State) :
    Kept (stopChecks s) s := by
  unfold stopChecks
  simp [Kept]

@[simp] theorem logPoison_frame (s : State) (i k page bank : Nat) :
    Kept (logPoison s i k page bank) s := by
  unfold logPoison
  simp [Kept]

theorem outsideAccess_some {s : State} {k i a n : Nat} {write : Bool} {data : Bytes} {r : State × Option Bytes}
    (h : outsideAccess s k i a n write data = some r) : Kept r.1 s := by
  unfold outsideAccess at h
  dsimp only at h
  repeat' split at h
  all_goals cases h
  all_goals simp [Kept]

/-! ### Machine/Memory.lean -/

@[simp] theorem hbmWrite_frame (s : State) (a : Nat) (bs : Bytes) :
    Kept (hbmWrite s a bs) s := by
  unfold hbmWrite
  simp [Kept]

@[simp] theorem hostWrite_frame (s : State) (a : Nat) (bs : Bytes) :
    Kept (hostWrite s a bs) s := by
  unfold hostWrite
  split <;> simp [Kept]

theorem sideWrite_some {s : State} {i kind index : Nat} {off : Int} {bs : Bytes} {t : State} (h : sideWrite s i kind index off bs = some t) :
    Kept (t) s := by
  unfold sideWrite at h
  try dsimp only at h
  repeat' split at h
  all_goals first | (cases h; done) | (cases h; simp [Kept, Sized]; done) | (cases h; simp_all [Kept, Sized]; done)

/-! ### Machine/Moves.lean -/

@[simp] theorem putXfer_frame (s : State) (k : Nat) (x : Xfer) :
    Kept (putXfer s k x) s := by
  unfold putXfer
  simp [Kept]

@[simp] theorem failXfer_frame (s : State) (k : Nat) (x : Xfer) (errCode detail : Nat) :
    Kept (failXfer s k x errCode detail) s := by
  unfold failXfer
  simp [Kept]

@[simp] theorem issueAccess_frame (s : State) (k : Nat) (x : Xfer) (lane addr len : Nat) (write : Bool) (data : Bytes)
    (mark tagOp : Bool) :
    Kept (issueAccess s k x lane addr len write data mark tagOp) s := by
  unfold issueAccess
  repeat' split
  all_goals simp [Kept]

@[simp] theorem failSide_frame (s : State) (k : Nat) (x : Xfer) (kind index : Nat) (off : Int) (n : Nat) :
    Kept (failSide s k x kind index off n) s := by
  unfold failSide
  split <;> simp [Kept]

@[simp] theorem readPiece_frame (s : State) (k : Nat) (x : Xfer) (left : Nat) :
    Kept ((readPiece s k x left).1) s := by
  unfold readPiece
  dsimp only
  repeat' split
  all_goals simp [Kept]

theorem readPiece_pair {s : State} {k : Nat} {x : Xfer} {left : Nat} {u : State} {vr} (h : readPiece s k x left = (u, vr)) :
    Kept u s := by
  have := readPiece_frame s k x left
  rwa [h] at this

@[simp] theorem writePiece_frame (s : State) (k : Nat) (x : Xfer) (n total : Nat) :
    Kept ((writePiece s k x n total).1) s := by
  unfold writePiece
  dsimp only
  repeat' split
  all_goals first
    | (have hq1 := sideWrite_some (by assumption); simp_all [Kept]; done)
    | simp [Kept]

theorem writePiece_pair {s : State} {k : Nat} {x : Xfer} {n total : Nat} {u : State} {vr} (h : writePiece s k x n total = (u, vr)) :
    Kept u s := by
  have := writePiece_frame s k x n total
  rwa [h] at this

@[simp] theorem pumpStep_frame (s : State) (k : Nat) (x : Xfer) :
    Kept ((pumpStep s k x).1) s := by
  unfold pumpStep
  dsimp only
  repeat' split
  all_goals simp [Kept]

theorem pumpStep_pair {s : State} {k : Nat} {x : Xfer} {u : State} {vr} (h : pumpStep s k x = (u, vr)) :
    Kept u s := by
  have := pumpStep_frame s k x
  rwa [h] at this

@[simp] theorem pump_frame (n : Nat) (s : State) (k id : Nat) : Kept (pump n s k id) s := by
  induction n generalizing s with
  | zero => simp [Kept, pump]
  | succ n ih =>
    unfold pump
    dsimp only
    repeat' split
    all_goals first | (simp [Kept]; done) | (simp_all [Kept]; done)

@[simp] theorem pumpOne_frame (s : State) (k id : Nat) :
    Kept (pumpOne s k id) s := by
  unfold pumpOne
  split <;> simp [Kept]

@[simp] theorem pumpCore_frame (s : State) (k : Nat) :
    Kept (pumpCore s k) s := by
  unfold pumpCore
  try dsimp only
  repeat' split
  all_goals first
    | (simp [Kept, Sized]; done)
    | (simp_all [Kept, Sized]; done)
    | (refine foldl_kept _ (fun _ _ => ?_) _ _; (try dsimp only); (repeat' split); all_goals first | (simp [Kept, Sized]; done) | (simp_all [Kept, Sized]; done))
    | (simp (disch := first | (intros; simp [Kept, Sized]; done) | (intros; (try dsimp only); split <;> simp [Kept, Sized]; done) | (intros; (try dsimp only); (repeat' split) <;> simp [Kept, Sized]; done)) [Kept, Sized]; done)

@[simp] theorem replyXfer_frame (s : State) (k id : Nat) (write : Bool) (len : Nat) (data : Option Bytes) :
    Kept (replyXfer s k id write len data) s := by
  unfold replyXfer
  repeat' split
  all_goals simp [Kept]

@[simp] theorem sendToken_frame (s : State) (k i bundle : Nat) (tok : Option (Nat × Nat)) :
    Kept (sendToken s k i bundle tok) s := by
  unfold sendToken
  repeat' split
  all_goals simp [Kept]

@[simp] theorem completeXfer_frame (s : State) (k i : Nat) :
    Kept (completeXfer s k i) s := by
  unfold completeXfer
  repeat' split
  all_goals simp [Kept]

@[simp] theorem moveStep_frame (s : State) (k : Nat) (f : Core → Core) :
    Kept (moveStep s k f) s := by
  have all : ∀ (l : List (Xfer × Nat)) (u : State), Kept (l.foldr (fun x t => completeXfer t k x.2) u) u := by
    intro l u
    induction l with
    | nil => exact kept_self u
    | cons x l ih =>
      have a := completeXfer_frame (l.foldr (fun x t => completeXfer t k x.2) u) k x.2
      simp_all [Kept]
  unfold moveStep
  dsimp only
  have a := all ((coreAt (onCore s k f) k).mv.xfers.zipIdx.filter fun x =>
    x.1.reps == 0 && x.1.failed.isNone && decide ((coreAt s k).mv.nextId ≤ x.1.id)) (onCore s k f)
  simp_all [Kept]

@[simp] theorem failTransfer_frame (s : State) (k i : Nat) :
    Kept (failTransfer s k i) s := by
  unfold failTransfer
  repeat' split
  all_goals simp [Kept]

@[simp] theorem deliverFlag_frame (s : State) (k i : Nat) :
    Kept (deliverFlag s k i) s := by
  unfold deliverFlag
  dsimp only
  repeat' split
  all_goals simp [Kept]

@[simp] theorem execDma_frame (k : Nat) (s : State) :
    Kept (nextOf s (execDma k s)) s := by
  unfold execDma nextOf
  simp [Kept]

@[simp] theorem execSend_frame (k : Nat) (s : State) :
    Kept (nextOf s (execSend k s)) s := by
  unfold execSend nextOf
  simp [Kept]

@[simp] theorem execTag_frame (k : Nat) (s : State) :
    Kept (nextOf s (execTag k s)) s := by
  unfold execTag nextOf
  simp [Kept]

@[simp] theorem execFlagWord_frame (k : Nat) (s : State) :
    Kept (nextOf s (execFlagWord k s)) s := by
  unfold execFlagWord nextOf
  simp [Kept]

@[simp] theorem execFlagDelivery_frame (k i : Nat) (s : State) :
    Kept (nextOf s (execFlagDelivery k i s)) s := by
  unfold execFlagDelivery nextOf
  simp [Kept]

@[simp] theorem execTokenDelivery_frame (k tk : Nat) (s : State) :
    Kept (nextOf s (execTokenDelivery k tk s)) s := by
  unfold execTokenDelivery nextOf
  simp [Kept]

@[simp] theorem execTransferComplete_frame (k i : Nat) (s : State) :
    Kept (nextOf s (execTransferComplete k i s)) s := by
  unfold execTransferComplete nextOf
  simp [Kept]

@[simp] theorem execTransferFail_frame (k i : Nat) (s : State) :
    Kept (nextOf s (execTransferFail k i s)) s := by
  unfold execTransferFail nextOf
  simp [Kept]

/-! ### Machine/Scratch.lean -/

@[simp] theorem poisonReply_frame (s : State) (k : Nat) (r : Req) :
    Kept (poisonReply s k r) s := by
  unfold poisonReply
  simp [Kept]

@[simp] theorem performReq_frame (s : State) (k : Nat) (r : Req) :
    Kept (performReq s k r) s := by
  unfold performReq
  simp [Kept]

@[simp] theorem serveReq_frame (s : State) (k i : Nat) :
    Kept (serveReq s k i) s := by
  unfold serveReq
  dsimp only
  repeat' split
  all_goals simp [Kept]

@[simp] theorem serveJob_frame (s : State) (k b : Nat) (job : BankJob) :
    Kept (serveJob s k b job) s := by
  unfold serveJob
  split <;> simp [Kept]

theorem freeState_some {s t : State} {k : Nat} {banks : List Nat} (h : freeState s k banks = some t) : Kept t s := by
  obtain ⟨c, _, rfl⟩ := Option.map_eq_some_iff.mp h
  simp [Kept]

@[simp] theorem serveNext_frame (s : State) (k b : Nat) (want : BankJob → Bool) :
    Kept (serveNext s k b want) s := by
  unfold serveNext
  split
  · rename_i t _ h
    have a := freeState_some h
    split
    · have b := serveJob_frame
      simp_all [Kept]
    · exact a
  · exact kept_self s

@[simp] theorem execUnscheduledAccess_frame (k b : Nat) (flips : Flips) (s : State) :
    Kept (nextOf s (execUnscheduledAccess k b flips s)) s := by
  unfold execUnscheduledAccess nextOf
  simp [Kept]

@[simp] theorem execMeshInboundAccess_frame (k i : Nat) (s : State) :
    Kept (nextOf s (execMeshInboundAccess k i s)) s := by
  unfold execMeshInboundAccess nextOf
  dsimp only
  repeat' split
  all_goals simp [Kept]

@[simp] theorem execCorrectionWriteBack_frame (k b : Nat) (s : State) :
    Kept (nextOf s (execCorrectionWriteBack k b s)) s := by
  unfold execCorrectionWriteBack nextOf
  simp [Kept]

@[simp] theorem serveStarved_frame (s : State) (k b : Nat) :
    Kept (serveStarved s k b) s := by
  unfold serveStarved
  dsimp only
  split <;> simp [Kept]

@[simp] theorem execStarvationBreaker_frame (k : Nat) (s : State) :
    Kept (nextOf s (execStarvationBreaker k s)) s := by
  unfold execStarvationBreaker nextOf
  dsimp only
  split <;> simp [Kept]

@[simp] theorem scrubOnce_frame (s : State) (k b : Nat) :
    Kept (scrubOnce s k b) s := by
  unfold scrubOnce
  dsimp only
  repeat' split
  all_goals first
    | exact kept_self s
    | (have h := freeState_some (by assumption); simp_all [Kept]; done)
    | simp [Kept]

@[simp] theorem execScrubStep_frame (k b : Nat) (flips : Flips) (s : State) :
    Kept (nextOf s (execScrubStep k b flips s)) s := by
  unfold execScrubStep nextOf
  dsimp only
  split <;> simp [Kept]

@[simp] theorem execPageZero_frame (k page : Nat) (s : State) :
    Kept (nextOf s (execPageZero k page s)) s := by
  unfold execPageZero nextOf
  dsimp only
  repeat' split
  · exact kept_self s
  · exact kept_self s
  · rename_i h
    split at h
    · cases h
    · have a := freeState_some h
      simp_all [Kept]

@[simp] theorem execSpTagDataWrite_frame (k : Nat) (path : RegPath) (v : W32) (s : State) :
    Kept (nextOf s (execSpTagDataWrite k path v s)) s := by
  unfold execSpTagDataWrite nextOf
  dsimp only
  split <;> simp [Kept]

@[simp] theorem execSpTagDataRead_frame (k : Nat) (s : State) :
    Kept (nextOf s (execSpTagDataRead k s)) s := by
  unfold execSpTagDataRead nextOf
  simp [Kept]

/-! ### Machine/Sequencer.lean -/

@[simp] theorem execSeqStart_frame (k waited : Nat) (s : State) :
    Kept (nextOf s (execSeqStart k waited s)) s := by
  unfold execSeqStart nextOf
  simp [Kept]

@[simp] theorem execSeqComplete_frame (k ran : Nat) (s : State) :
    Kept (nextOf s (execSeqComplete k ran s)) s := by
  unfold execSeqComplete nextOf
  dsimp only
  repeat' split
  all_goals simp [Kept]

/-! ### Machine/Lane.lean -/

@[simp] theorem execNop_frame (k : Nat) (s : State) :
    Kept (nextOf s (execNop k s)) s := by
  unfold execNop nextOf
  simp [Kept]

@[simp] theorem execSeta_frame (k : Nat) (s : State) :
    Kept (nextOf s (execSeta k s)) s := by
  unfold execSeta nextOf
  simp [Kept]

@[simp] theorem execSeti_frame (k : Nat) (s : State) :
    Kept (nextOf s (execSeti k s)) s := by
  unfold execSeti nextOf
  simp [Kept]

@[simp] theorem execSetc_frame (k : Nat) (s : State) :
    Kept (nextOf s (execSetc k s)) s := by
  unfold execSetc nextOf
  simp [Kept]

@[simp] theorem execSets_frame (k : Nat) (s : State) :
    Kept (nextOf s (execSets k s)) s := by
  unfold execSets nextOf
  simp [Kept]

@[simp] theorem execAdda_frame (k : Nat) (s : State) :
    Kept (nextOf s (execAdda k s)) s := by
  unfold execAdda nextOf
  simp [Kept]

@[simp] theorem execStepa_frame (k : Nat) (s : State) :
    Kept (nextOf s (execStepa k s)) s := by
  unfold execStepa nextOf
  simp [Kept]

@[simp] theorem execAlu_frame (k : Nat) (s : State) :
    Kept (nextOf s (execAlu k s)) s := by
  unfold execAlu nextOf
  simp [Kept]

@[simp] theorem execMovx_frame (k : Nat) (s : State) :
    Kept (nextOf s (execMovx k s)) s := by
  unfold execMovx nextOf
  simp [Kept]

@[simp] theorem execCmp_frame (k : Nat) (s : State) :
    Kept (nextOf s (execCmp k s)) s := by
  unfold execCmp nextOf
  simp [Kept]

@[simp] theorem execFlagOp_frame (k : Nat) (s : State) :
    Kept (nextOf s (execFlagOp k s)) s := by
  unfold execFlagOp nextOf
  simp [Kept]

@[simp] theorem execLoop_frame (k : Nat) (s : State) :
    Kept (nextOf s (execLoop k s)) s := by
  unfold execLoop nextOf
  simp [Kept]

@[simp] theorem execBrk_frame (k : Nat) (s : State) :
    Kept (nextOf s (execBrk k s)) s := by
  unfold execBrk nextOf
  simp [Kept]

@[simp] theorem execSync_frame (k : Nat) (s : State) :
    Kept (nextOf s (execSync k s)) s := by
  unfold execSync nextOf
  simp [Kept]

@[simp] theorem execSyncRelease_frame (k waited : Nat) (s : State) :
    Kept (nextOf s (execSyncRelease k waited s)) s := by
  unfold execSyncRelease nextOf
  simp [Kept]

@[simp] theorem execSeqMacro_frame (k : Nat) (s : State) :
    Kept (nextOf s (execSeqMacro k s)) s := by
  unfold execSeqMacro nextOf
  simp [Kept]

@[simp] theorem execEndOp_frame (k : Nat) (s : State) :
    Kept (nextOf s (execEndOp k s)) s := by
  unfold execEndOp nextOf
  simp [Kept]

@[simp] theorem execLateWordHoldEnd_frame (k held : Nat) (s : State) :
    Kept (nextOf s (execLateWordHoldEnd k held s)) s := by
  unfold execLateWordHoldEnd nextOf
  simp [Kept]

@[simp] theorem execTokenWaitEnd_frame (k held : Nat) (s : State) :
    Kept (nextOf s (execTokenWaitEnd k held s)) s := by
  unfold execTokenWaitEnd nextOf
  simp [Kept]

@[simp] theorem execEccHoldEnd_frame (k : Nat) (s : State) :
    Kept (nextOf s (execEccHoldEnd k s)) s := by
  unfold execEccHoldEnd nextOf
  simp [Kept]

@[simp] theorem execTagWaitEnd_frame (k held : Nat) (flips : Flips) (s : State) :
    Kept (nextOf s (execTagWaitEnd k held flips s)) s := by
  unfold execTagWaitEnd nextOf
  simp [Kept]

@[simp] theorem execHoldTimeout_frame (k : Nat) (s : State) :
    Kept (nextOf s (execHoldTimeout k s)) s := by
  unfold execHoldTimeout nextOf
  dsimp only
  split <;> simp [Kept]

/-! ### Machine/Engine.lean -/

@[simp] theorem flipStep_frame (s : State) (k : Nat) (flips : Flips) (f : Core → Core) :
    Kept (flipStep s k flips f) s := by
  unfold flipStep
  simp [Kept]

@[simp] theorem execLoad_frame (k : Nat) (flips : Flips) (s : State) :
    Kept (nextOf s (execLoad k flips s)) s := by
  unfold execLoad nextOf
  simp [Kept]

@[simp] theorem execTileLoadComplete_frame (k : Nat) (flips : Flips) (s : State) :
    Kept (nextOf s (execTileLoadComplete k flips s)) s := by
  unfold execTileLoadComplete nextOf
  simp [Kept]

@[simp] theorem execRun_frame (k : Nat) (s : State) :
    Kept (nextOf s (execRun k s)) s := by
  unfold execRun nextOf
  simp [Kept]

@[simp] theorem execPassOpen_frame (k : Nat) (flips : Flips) (s : State) :
    Kept (nextOf s (execPassOpen k flips s)) s := by
  unfold execPassOpen nextOf
  simp [Kept]

@[simp] theorem execRowIssue_frame (k : Nat) (flips : Flips) (s : State) :
    Kept (nextOf s (execRowIssue k flips s)) s := by
  unfold execRowIssue nextOf
  simp [Kept]

@[simp] theorem execRowCommit_frame (k : Nat) (s : State) :
    Kept (nextOf s (execRowCommit k s)) s := by
  unfold execRowCommit nextOf
  simp [Kept]

@[simp] theorem execFma_frame (k j : Nat) (flips : Flips) (s : State) :
    Kept (nextOf s (execFma k j flips s)) s := by
  unfold execFma nextOf
  simp [Kept]

@[simp] theorem execFunc_frame (k j : Nat) (flips : Flips) (s : State) :
    Kept (nextOf s (execFunc k j flips s)) s := by
  unfold execFunc nextOf
  simp [Kept]

@[simp] theorem execReduce_frame (k j : Nat) (flips : Flips) (s : State) :
    Kept (nextOf s (execReduce k j flips s)) s := by
  unfold execReduce nextOf
  simp [Kept]

@[simp] theorem execTfill_frame (k j : Nat) (flips : Flips) (s : State) :
    Kept (nextOf s (execTfill k j flips s)) s := by
  unfold execTfill nextOf
  simp [Kept]

@[simp] theorem execTread_frame (k j : Nat) (s : State) :
    Kept (nextOf s (execTread k j s)) s := by
  unfold execTread nextOf
  simp [Kept]

@[simp] theorem execPload_frame (k : Nat) (flips : Flips) (s : State) :
    Kept (nextOf s (execPload k flips s)) s := by
  unfold execPload nextOf
  simp [Kept]

@[simp] theorem execDrain_frame (k : Nat) (flips : Flips) (s : State) :
    Kept (nextOf s (execDrain k flips s)) s := by
  unfold execDrain nextOf
  simp [Kept]

@[simp] theorem execBind_frame (k : Nat) (s : State) :
    Kept (nextOf s (execBind k s)) s := by
  unfold execBind nextOf
  simp [Kept]

@[simp] theorem execVectorResult_frame (k : Nat) (flips : Flips) (s : State) :
    Kept (nextOf s (execVectorResult k flips s)) s := by
  unfold execVectorResult nextOf
  simp [Kept]

@[simp] theorem execDrainEntryOutput_frame (k : Nat) (flips : Flips) (s : State) :
    Kept (nextOf s (execDrainEntryOutput k flips s)) s := by
  unfold execDrainEntryOutput nextOf
  simp [Kept]

@[simp] theorem execVxStatClose_frame (k : Nat) (s : State) :
    Kept (nextOf s (execVxStatClose k s)) s := by
  unfold execVxStatClose nextOf
  simp [Kept]

end Sys2Proof.Machine
end

