-- ==== Sys2Proof/Laws/FrameStreams.lean ====
section
/-!
SUPPORT. What the meanings and their operations keep, said once for each (streams, HBM, placement and batches): see `Kept` and `Sized`.
-/

namespace Sys2Proof.Machine

set_option linter.all false

/-! ### Machine/Streams.lean -/

@[simp] theorem putStream_frame (s : State) (st : Stream) :
    Kept (putStream s st) s := by
  unfold putStream
  simp [Kept]

@[simp] theorem countDrop_frame (s : State) (i : Nat) :
    Kept (countDrop s i) s := by
  unfold countDrop
  simp [Kept]

@[simp] theorem sendFrame_frame (s : State) (port : Nat) (f : OutFrame) :
    Kept (sendFrame s port f) s := by
  unfold sendFrame
  dsimp only
  repeat' split
  all_goals simp [Kept]

@[simp] theorem sendCredit_frame (s : State) (sid : Nat) :
    Kept (sendCredit s sid) s := by
  unfold sendCredit
  repeat' split
  all_goals simp [Kept]

@[simp] theorem setLevel_frame (s : State) (n : Nat) :
    Kept (setLevel s n) s := by
  unfold setLevel
  dsimp only
  repeat' split
  all_goals simp [Kept]

@[simp] theorem setIngest_frame (s : State) (l : List Ingest) :
    Kept (setIngest s l) s := by
  unfold setIngest
  simp [Kept]

@[simp] theorem closeIfDue_frame (s : State) (c : Nat) :
    Kept (closeIfDue s c) s := by
  unfold closeIfDue
  dsimp only
  split <;> simp [Kept]

theorem admitOne_some {s : State} {c : Nat} {t : State} (h : admitOne s c = some t) :
    Kept (t) s := by
  unfold admitOne at h
  simp only [Option.map_eq_some_iff] at h
  obtain ⟨p, -, rfl⟩ := h
  simp [Kept]

@[simp] theorem dispatchFuel_frame (n : Nat) (s : State) (c : Nat) : Kept (dispatchFuel n s c) s := by
  induction n generalizing s with
  | zero => simp [Kept, dispatchFuel]
  | succ n ih =>
    unfold dispatchFuel
    dsimp only
    split
    · have h := admitOne_some (by assumption)
      have h2 := ih
      simp_all [Kept]
    · simp [Kept]

@[simp] theorem dispatch_frame (s : State) (c : Nat) :
    Kept (dispatch s c) s := by
  unfold dispatch
  simp [Kept]

@[simp] theorem afterRelease_frame (s0 s : State) (sid : Nat) :
    Kept (afterRelease s0 s sid) s := by
  unfold afterRelease
  repeat' split
  all_goals simp [Kept]

@[simp] theorem gapFrame_frame (s : State) (sid : Nat) (q : W32) :
    Kept (gapFrame s sid q) s := by
  unfold gapFrame
  repeat' split
  all_goals simp [Kept]

@[simp] theorem damageFrame_frame (s : State) (sid : Nat) (q : W32) :
    Kept (damageFrame s sid q) s := by
  unfold damageFrame
  dsimp only
  repeat' split
  all_goals simp [Kept]

@[simp] theorem setOccupancy_frame (s : State) (port prio occ : Nat) :
    Kept (setOccupancy s port prio occ) s := by
  unfold setOccupancy
  dsimp only
  repeat' split
  all_goals simp [Kept]

@[simp] theorem takeFragment_frame (s : State) (st : Stream) (p : SspPacket) :
    Kept (takeFragment s st p) s := by
  unfold takeFragment
  dsimp only
  repeat' split
  all_goals simp [Kept]

@[simp] theorem controlPacket_frame (s : State) (st : Stream) (p : SspPacket) :
    Kept (controlPacket s st p) s := by
  unfold controlPacket
  split <;> simp [Kept]

@[simp] theorem dataPacket_frame (s : State) (st : Stream) (p : SspPacket) :
    Kept (dataPacket s st p) s := by
  unfold dataPacket
  repeat' split
  all_goals simp [Kept]

@[simp] theorem streamPacket_frame (s : State) (p : SspPacket) :
    Kept (streamPacket s p) s := by
  unfold streamPacket
  dsimp only
  repeat' split
  all_goals simp [Kept]

@[simp] theorem releaseFrames_frame (s : State) (c : Nat) (frames : List BatchFrame) :
    Kept (releaseFrames s c frames) s := by
  unfold releaseFrames
  dsimp only
  repeat' split
  all_goals simp (disch := (intros; (repeat' split) <;> simp [Kept]; done)) [Kept]

@[simp] theorem sendResult_frame (s : State) (f : BatchFrame) (path : NetPath) (format : Nat) (payload : Bytes) :
    Kept (sendResult s f path format payload) s := by
  unfold sendResult
  dsimp only
  split <;> simp [Kept]

@[simp] theorem writeCq_frame (s : State) (q : Nat) (tag status sqHead value info : Nat) :
    Kept (writeCq s q tag status sqHead value info) s := by
  unfold writeCq
  simp [Kept]

@[simp] theorem ringResult_frame (s : State) (f : BatchFrame) (payload : Bytes) :
    Kept (ringResult s f payload) s := by
  unfold ringResult
  dsimp only
  split <;> simp [Kept]

@[simp] theorem frameResult_frame (s : State) (c : Nat) (b : Batch) (f : BatchFrame) :
    Kept (frameResult s c b f) s := by
  unfold frameResult
  dsimp only
  repeat' split
  all_goals simp [Kept]

@[simp] theorem sendResults_frame (s : State) (c : Nat) (b : Batch) :
    Kept (sendResults s c b) s := by
  unfold sendResults
  simp [Kept]

@[simp] theorem execStreamPacket_frame (p : SspPacket) (s : State) :
    Kept (nextOf s (execStreamPacket p s)) s := by
  unfold execStreamPacket nextOf
  simp [Kept]

@[simp] theorem execCreditProbe_frame (p : SspPacket) (s : State) :
    Kept (nextOf s (execCreditProbe p s)) s := by
  unfold execCreditProbe nextOf
  dsimp only
  split <;> simp [Kept]

@[simp] theorem execResetSequence_frame (p : SspPacket) (s : State) :
    Kept (nextOf s (execResetSequence p s)) s := by
  unfold execResetSequence nextOf
  dsimp only
  split <;> simp [Kept]

@[simp] theorem execReassemblyTimeout_frame (sid : Nat) (seq : W32) (s : State) :
    Kept (nextOf s (execReassemblyTimeout sid seq s)) s := by
  unfold execReassemblyTimeout nextOf
  dsimp only
  repeat' split
  all_goals simp [Kept]

@[simp] theorem execBatchDeadline_frame (c : Nat) (s : State) :
    Kept (nextOf s (execBatchDeadline c s)) s := by
  unfold execBatchDeadline nextOf
  dsimp only
  split <;> simp [Kept]

/-! ### Machine/Hbm.lean -/

@[simp] theorem modChan_frame (s : State) (pc : Nat) (f : PseudoChan → PseudoChan) :
    Kept (modChan s pc f) s := by
  unfold modChan
  simp [Kept]

@[simp] theorem unitDone_frame (s : State) (requester tag u : Nat) (error : Bool) (data : Bytes) :
    Kept (unitDone s requester tag u error data) s := by
  unfold unitDone
  dsimp only
  repeat' split
  all_goals simp [Kept]

@[simp] theorem ownersDone_frame (s : State) (u : Nat) (owners : List (Nat × Nat)) (error : Bool) :
    Kept (ownersDone s u owners error) s :=
  foldl_kept _ (fun t _ => kept_ite (kept_ite (damageFrame_frame ..) (kept_self t)) (unitDone_frame ..)) _ _

@[simp] theorem hbmCorrected_frame (s : State) (u : Nat) :
    Kept (hbmCorrected s u) s := by
  unfold hbmCorrected
  simp [Kept]

@[simp] theorem hbmUncorrected_frame (s : State) (u : Nat) (realtime : Bool) :
    Kept (hbmUncorrected s u realtime) s := by
  unfold hbmUncorrected
  simp [Kept]

@[simp] theorem acceptWrite_frame (s : State) (a : Nat) (bs : Bytes) (requester tag : Nat) (realtime : Bool) (u : Nat) :
    Kept (acceptWrite s a bs requester tag realtime u) s := by
  unfold acceptWrite
  simp [Kept]

@[simp] theorem acceptRead_frame (s : State) (requester tag u : Nat) :
    Kept (acceptRead s requester tag u) s := by
  unfold acceptRead
  dsimp only
  repeat' split
  all_goals simp [Kept]

@[simp] theorem refuseBulk_frame (s : State) (r : HbmReq) (len : Nat) :
    Kept (refuseBulk s r len) s := by
  unfold refuseBulk
  try dsimp only
  repeat' split
  all_goals simp [Kept]

@[simp] theorem bulkRequest_frame (s : State) (r : HbmReq) :
    Kept (bulkRequest s r) s := by
  unfold bulkRequest
  dsimp only
  repeat' split
  all_goals simp [Kept]

@[simp] theorem realtimeRequest_frame (s : State) :
    Kept (realtimeRequest s) s := by
  unfold realtimeRequest
  dsimp only
  repeat' split
  all_goals simp [Kept]

@[simp] theorem readReturn_frame (s : State) (pc i : Nat) (ecc : Ecc) :
    Kept (readReturn s pc i ecc) s := by
  unfold readReturn
  dsimp only
  repeat' split
  all_goals simp [Kept]

@[simp] theorem storeUnit_frame (s : State) (w : WriteUnit) :
    Kept (storeUnit s w) s := by
  unfold storeUnit
  simp [Kept]

@[simp] theorem writeDrain_frame (s : State) (pc i : Nat) (ecc : Ecc) :
    Kept (writeDrain s pc i ecc) s := by
  unfold writeDrain
  dsimp only
  repeat' split
  all_goals simp [Kept]

@[simp] theorem setStack_frame (s : State) (stack v : Nat) :
    Kept (setStack s stack v) s := by
  unfold setStack
  simp [Kept]

@[simp] theorem failChan_frame (s : State) (pc : Nat) :
    Kept (failChan s pc) s := by
  unfold failChan
  simp [Kept]

@[simp] theorem undoCmds_frame (s : State) (cmds : List RetryCmd) :
    Kept (undoCmds s cmds) s := by
  unfold undoCmds
  refine foldl_kept _ (fun _ _ => ?_) _ _
  simp [Kept]

@[simp] theorem replayCmds_frame (s : State) (cmds : List RetryCmd) :
    Kept (replayCmds s cmds) s := by
  unfold replayCmds
  dsimp only
  refine foldl_kept _ (fun _ _ => ?_) _ _
  repeat' split
  all_goals simp [Kept]

@[simp] theorem parityAlert_frame (s : State) (pc n m : Nat) :
    Kept (parityAlert s pc n m) s := by
  unfold parityAlert
  dsimp only
  repeat' split
  all_goals simp [Kept]

@[simp] theorem refreshBank_frame (s : State) (pc b : Nat) :
    Kept (refreshBank s pc b) s := by
  unfold refreshBank
  split <;> simp [Kept]

@[simp] theorem train_frame (s : State) (known : Bool) (windows : List Nat) :
    Kept (train s known windows) s := by
  unfold train
  dsimp only
  repeat' split
  all_goals simp [Kept]

@[simp] theorem execHbmRequest_frame (r : HbmReq) (s : State) :
    Kept (nextOf s (execHbmRequest r s)) s := by
  unfold execHbmRequest nextOf
  dsimp only
  split <;> simp [Kept]

@[simp] theorem execHbmReadComplete_frame (pc i : Nat) (ecc : Ecc) (s : State) :
    Kept (nextOf s (execHbmReadComplete pc i ecc s)) s := by
  unfold execHbmReadComplete nextOf
  simp [Kept]

@[simp] theorem execHbmWriteDrain_frame (pc i : Nat) (ecc : Ecc) (s : State) :
    Kept (nextOf s (execHbmWriteDrain pc i ecc s)) s := by
  unfold execHbmWriteDrain nextOf
  simp [Kept]

@[simp] theorem execRefresh_frame (pc b : Nat) (s : State) :
    Kept (nextOf s (execRefresh pc b s)) s := by
  unfold execRefresh nextOf
  simp [Kept]

@[simp] theorem execSelfRefreshEntry_frame (stack : Nat) (s : State) :
    Kept (nextOf s (execSelfRefreshEntry stack s)) s := by
  unfold execSelfRefreshEntry nextOf
  dsimp only
  split <;> simp [Kept]

@[simp] theorem execSelfRefreshExit_frame (stack : Nat) (s : State) :
    Kept (nextOf s (execSelfRefreshExit stack s)) s := by
  unfold execSelfRefreshExit nextOf
  dsimp only
  split <;> simp [Kept]

@[simp] theorem execSelfRefreshExitComplete_frame (stack : Nat) (s : State) :
    Kept (nextOf s (execSelfRefreshExitComplete stack s)) s := by
  unfold execSelfRefreshExitComplete nextOf
  dsimp only
  split <;> simp [Kept]

@[simp] theorem execCaParityAlert_frame (pc writes reads : Nat) (s : State) :
    Kept (nextOf s (execCaParityAlert pc writes reads s)) s := by
  unfold execCaParityAlert nextOf
  simp [Kept]

@[simp] theorem execHbmTraining_frame (known : Bool) (windows : List Nat) (s : State) :
    Kept (nextOf s (execHbmTraining known windows s)) s := by
  unfold execHbmTraining nextOf
  simp [Kept]

/-! ### Machine/Placement.lean -/

@[simp] theorem lockPages_frame (s : State) (k : Nat) (pages : List Nat) :
    Kept (lockPages s k pages) s := by
  unfold lockPages
  simp [Kept]

@[simp] theorem writePinned_frame (s : State) (k a : Nat) (bs : Bytes) :
    Kept (writePinned s k a bs) s := by
  unfold writePinned
  split <;> simp [Kept]

@[simp] theorem modSlot_frame (s : State) (c i : Nat) (f : Slot → Slot) :
    Kept (modSlot s c i f) s := by
  unfold modSlot
  simp [Kept]

@[simp] theorem freePinned_frame (s : State) (c : Nat) (only : Option Nat) :
    Kept (freePinned s c only) s := by
  unfold freePinned
  try dsimp only
  repeat' split
  all_goals first
    | (simp [Kept, Sized]; done)
    | (simp_all [Kept, Sized]; done)
    | (refine foldl_kept _ (fun _ _ => ?_) _ _; (try dsimp only); (repeat' split); all_goals first | (simp [Kept, Sized]; done) | (simp_all [Kept, Sized]; done))
    | (simp (disch := first | (intros; simp [Kept, Sized]; done) | (intros; (try dsimp only); split <;> simp [Kept, Sized]; done) | (intros; (try dsimp only); (repeat' split) <;> simp [Kept, Sized]; done)) [Kept, Sized]; done)

@[simp] theorem freeSlot_frame (s : State) (c i : Nat) (pages : Bool) :
    Kept (freeSlot s c i pages) s := by
  unfold freeSlot
  dsimp only
  split <;> simp [Kept]

@[simp] theorem retireNow_frame (s : State) (c i : Nat) :
    Kept (retireNow s c i) s := by
  unfold retireNow
  dsimp only
  split <;> simp [Kept]

@[simp] theorem dropRef_frame (s : State) (c i : Nat) :
    Kept (dropRef s c i) s := by
  unfold dropRef
  simp [Kept]

@[simp] theorem refetchFor_frame (s : State) (c i : Nat) (ts : List Nat) :
    Kept (refetchFor s c i ts) s := by
  unfold refetchFor
  simp [Kept]

@[simp] theorem fillPinned_frame (s : State) (c i : Nat) (only : Option Nat) :
    Kept (fillPinned s c i only) s := by
  unfold fillPinned
  try dsimp only
  repeat' split
  all_goals first
    | (simp [Kept, Sized]; done)
    | (simp_all [Kept, Sized]; done)
    | (refine foldl_kept _ (fun _ _ => ?_) _ _; (try dsimp only); (repeat' split); all_goals first | (simp [Kept, Sized]; done) | (simp_all [Kept, Sized]; done))
    | (simp (disch := first | (intros; simp [Kept, Sized]; done) | (intros; (try dsimp only); split <;> simp [Kept, Sized]; done) | (intros; (try dsimp only); (repeat' split) <;> simp [Kept, Sized]; done)) [Kept, Sized]; done)

@[simp] theorem fillPool_frame (s : State) (c k : Nat) :
    Kept (fillPool s c k) s := by
  unfold fillPool
  simp [Kept]

@[simp] theorem unplace_frame (s : State) (c : Nat) :
    Kept (unplace s c) s := by
  unfold unplace
  simp [Kept]

@[simp] theorem loadBank_frame (s : State) (c k l : Nat) :
    Kept (loadBank s c k l) s := by
  unfold loadBank
  split <;> simp [Kept]

@[simp] theorem place_frame (s : State) (c : Nat) (cores : List Nat) :
    Kept ((place s c cores).1) s := by
  unfold place
  dsimp only
  repeat' split
  all_goals simp [Kept]

theorem place_pair {s : State} {c : Nat} {cores : List Nat} {u : State} {vr} (h : place s c cores = (u, vr)) :
    Kept u s := by
  have := place_frame s c cores
  rwa [h] at this

@[simp] theorem startBatch_frame (s : State) (c : Nat) (b : Batch) :
    Kept (startBatch s c b) s := by
  unfold startBatch
  dsimp only
  split <;> simp [Kept]

@[simp] theorem batchStart_frame (s : State) (k : Nat) :
    Kept (batchStart s k) s := by
  unfold batchStart
  dsimp only
  repeat' split
  all_goals simp [Kept]

@[simp] theorem laneFetch_frame (s : State) (k : Nat) (ok : Bool) :
    Kept (laneFetch s k ok) s := by
  unfold laneFetch
  dsimp only
  repeat' split
  all_goals simp [Kept]

@[simp] theorem laneStart_frame (s : State) (k : Nat) :
    Kept (laneStart s k) s := by
  unfold laneStart
  dsimp only
  repeat' split
  all_goals simp [Kept]

@[simp] theorem laneEnd_frame (s : State) (k waited : Nat) :
    Kept (laneEnd s k waited) s := by
  unfold laneEnd
  dsimp only
  repeat' split
  all_goals simp [Kept]

@[simp] theorem coreHalt_frame (s : State) (k waited : Nat) :
    Kept (coreHalt s k waited) s := by
  unfold coreHalt
  dsimp only
  repeat' split
  all_goals simp [Kept]

@[simp] theorem raiseFlag_frame (s : State) (f : Nat) :
    Kept (raiseFlag s f) s := by
  unfold raiseFlag
  simp [Kept]

@[simp] theorem endBatch_frame (s : State) (c : Nat) (b : Batch) (status value : Nat) :
    Kept (endBatch s c b status value) s := by
  unfold endBatch
  repeat' split
  all_goals simp [Kept]

@[simp] theorem endCores_frame (s : State) (c : Nat) :
    Kept (endCores s c) s := by
  unfold endCores
  simp [Kept]

@[simp] theorem batchComplete_frame (s : State) (c : Nat) :
    Kept (batchComplete s c) s := by
  unfold batchComplete
  repeat' split
  all_goals simp [Kept]

@[simp] theorem batchFail_frame (s : State) (c : Nat) :
    Kept (batchFail s c) s := by
  unfold batchFail
  repeat' split
  all_goals simp [Kept]

@[simp] theorem makeResident_frame (s : State) (c : Nat) :
    Kept (makeResident s c) s := by
  unfold makeResident
  dsimp only
  repeat' split
  all_goals simp [Kept]

@[simp] theorem pinnedReload_frame (s : State) (c k : Nat) :
    Kept (pinnedReload s c k) s := by
  unfold pinnedReload
  dsimp only
  repeat' split
  all_goals simp [Kept]

/-! ### Machine/Batches.lean -/

@[simp] theorem execBatchStart_frame (k : Nat) (s : State) :
    Kept (nextOf s (execBatchStart k s)) s := by
  unfold execBatchStart nextOf
  simp [Kept]

@[simp] theorem execLaneFetch_frame (k : Nat) (ok : Bool) (s : State) :
    Kept (nextOf s (execLaneFetch k ok s)) s := by
  unfold execLaneFetch nextOf
  simp [Kept]

@[simp] theorem execLaneStart_frame (k : Nat) (s : State) :
    Kept (nextOf s (execLaneStart k s)) s := by
  unfold execLaneStart nextOf
  simp [Kept]

@[simp] theorem execLaneEnd_frame (w : WaitedCore) (s : State) :
    Kept (nextOf s (execLaneEnd w s)) s := by
  unfold execLaneEnd nextOf
  simp [Kept]

@[simp] theorem execBatchFail_frame (c : Nat) (s : State) :
    Kept (nextOf s (execBatchFail c s)) s := by
  unfold execBatchFail nextOf
  simp [Kept]

@[simp] theorem execBatchComplete_frame (c : Nat) (s : State) :
    Kept (nextOf s (execBatchComplete c s)) s := by
  unfold execBatchComplete nextOf
  simp [Kept]

@[simp] theorem execCoreHalt_frame (k waited : Nat) (s : State) :
    Kept (nextOf s (execCoreHalt k waited s)) s := by
  unfold execCoreHalt nextOf
  simp [Kept]

@[simp] theorem execMakeResident_frame (c : Nat) (s : State) :
    Kept (nextOf s (execMakeResident c s)) s := by
  unfold execMakeResident nextOf
  simp [Kept]

@[simp] theorem execSlotRetire_frame (c slot : Nat) (s : State) :
    Kept (nextOf s (execSlotRetire c slot s)) s := by
  unfold execSlotRetire nextOf
  simp [Kept]

@[simp] theorem execPinnedReload_frame (c k : Nat) (s : State) :
    Kept (nextOf s (execPinnedReload c k s)) s := by
  unfold execPinnedReload nextOf
  simp [Kept]

@[simp] theorem writeDbgCtrl_frame (s : State) (v : W32) :
    Kept (writeDbgCtrl s v) s := by
  unfold writeDbgCtrl
  dsimp only
  repeat' split
  all_goals simp [Kept]

@[simp] theorem execDbgEnd_frame (v : W32) (s : State) :
    Kept (nextOf s (execDbgEnd v s)) s := by
  unfold execDbgEnd nextOf
  dsimp only
  split <;> simp [Kept]

@[simp] theorem refuseSel_frame (s : State) :
    Kept (refuseSel s) s := by
  unfold refuseSel
  simp [Kept]

@[simp] theorem execDbgSel_frame (v : W32) (s : State) :
    Kept (nextOf s (execDbgSel v s)) s := by
  unfold execDbgSel nextOf
  dsimp only
  split <;> simp [Kept]

@[simp] theorem fillSel_frame (s : State) (bs : Bytes) :
    Kept (fillSel s bs) s := by
  unfold fillSel
  simp [Kept]

@[simp] theorem windowPage_frame (s : State) (i k page : Nat) :
    Kept (windowPage s i k page) s := by
  unfold windowPage
  repeat' split
  all_goals first
    | (have h := outsideAccess_some (by assumption); simp_all [Kept]; done)
    | simp [Kept]

@[simp] theorem execDbgFetchDone_frame (s : State) :
    Kept (nextOf s (execDbgFetchDone s)) s := by
  unfold execDbgFetchDone nextOf
  dsimp only
  repeat' split
  all_goals simp [Kept]

end Sys2Proof.Machine
end

