-- ==== Sys2Proof/Laws/FrameHost.lean ====
section
/-!
SUPPORT. What the meanings and their operations keep, said once for each (rings and their commands, flash, RDMA, ports, weights and the loader): see `Kept` and `Sized`.
-/

namespace Sys2Proof.Machine

set_option linter.all false

/-! ### Machine/Rings.lean -/

@[simp] theorem modRing_frame (s : State) (q : Nat) (f : Ring → Ring) :
    Kept (modRing s q f) s := by
  unfold modRing
  simp [Kept]

@[simp] theorem setRunning_frame (s : State) (q : Nat) (e : RingEntry) :
    Kept (setRunning s q e) s := by
  unfold setRunning
  simp [Kept]

@[simp] theorem unbindStream_frame (s : State) (sid : Nat) :
    Kept (unbindStream s sid) s := by
  unfold unbindStream
  split <;> simp [Kept]

@[simp] theorem unloadCtx_frame (s : State) (c : Nat) :
    Kept (unloadCtx s c) s := by
  unfold unloadCtx
  dsimp only
  split <;> simp [Kept]

@[simp] theorem takeOver_frame (s : State) (c : Nat) :
    Kept (takeOver s c) s := by
  unfold takeOver
  dsimp only
  repeat' split
  all_goals simp [Kept]

@[simp] theorem named_frame (s : State) (q op : Nat) (f : State → RingEntry → Nat → State) (hf : ∀ (x0 : State) (x1 : RingEntry) (x2 : Nat), Kept (f x0 x1 x2) x0) :
    Kept (named s q op f) s := by
  unfold named
  dsimp only
  repeat' split
  all_goals simp_all [Kept]

@[simp] theorem execSqDoorbell_frame (q : Nat) (v : W32) (s : State) :
    Kept (nextOf s (execSqDoorbell q v s)) s := by
  unfold execSqDoorbell nextOf
  simp [Kept]

@[simp] theorem execCqHeadWrite_frame (q : Nat) (v : W32) (s : State) :
    Kept (nextOf s (execCqHeadWrite q v s)) s := by
  unfold execCqHeadWrite nextOf
  simp [Kept]

@[simp] theorem entryBegin_frame (s : State) (q : Nat) :
    Kept (entryBegin s q) s := by
  unfold entryBegin
  dsimp only
  split <;> simp [Kept]

@[simp] theorem execEntryBegin_frame (q : Nat) (s : State) :
    Kept (nextOf s (execEntryBegin q s)) s := by
  unfold execEntryBegin nextOf
  simp [Kept]

@[simp] theorem flushEnd_frame (s : State) :
    Kept (flushEnd s) s := by
  unfold flushEnd
  split <;> simp [Kept]

@[simp] theorem completionWrite_frame (s : State) (q : Nat) :
    Kept (completionWrite s q) s := by
  unfold completionWrite
  dsimp only
  repeat' split
  all_goals simp [Kept]

@[simp] theorem execCompletionWrite_frame (q : Nat) (s : State) :
    Kept (nextOf s (execCompletionWrite q s)) s := by
  unfold execCompletionWrite nextOf
  simp [Kept]

@[simp] theorem signalRing_frame (s : State) (q : Nat) :
    Kept (signalRing s q) s := by
  unfold signalRing
  dsimp only
  split <;> simp [Kept]

@[simp] theorem execMsixSignal_frame (q : Nat) (s : State) :
    Kept (nextOf s (execMsixSignal q s)) s := by
  unfold execMsixSignal nextOf
  dsimp only
  split <;> simp [Kept]

@[simp] theorem execCoalesceExpire_frame (q : Nat) (s : State) :
    Kept (nextOf s (execCoalesceExpire q s)) s := by
  unfold execCoalesceExpire nextOf
  dsimp only
  split <;> simp [Kept]

@[simp] theorem execNopEntry_frame (q : Nat) (s : State) :
    Kept (nextOf s (execNopEntry q s)) s := by
  unfold execNopEntry nextOf
  dsimp only
  split <;> simp [Kept]

@[simp] theorem execSetFlag_frame (q : Nat) (s : State) :
    Kept (nextOf s (execSetFlag q s)) s := by
  unfold execSetFlag nextOf
  dsimp only
  split <;> simp [Kept]

@[simp] theorem execWaitFlag_frame (q : Nat) (s : State) :
    Kept (nextOf s (execWaitFlag q s)) s := by
  unfold execWaitFlag nextOf
  dsimp only
  repeat' split
  all_goals simp [Kept]

@[simp] theorem execWaitFlagSatisfied_frame (q : Nat) (s : State) :
    Kept (nextOf s (execWaitFlagSatisfied q s)) s := by
  unfold execWaitFlagSatisfied nextOf
  dsimp only
  repeat' split
  all_goals simp [Kept]

@[simp] theorem failWait_frame (s : State) (q : Nat) (e : RingEntry) (status : Nat) :
    Kept (failWait s q e status) s := by
  unfold failWait
  simp [Kept]

@[simp] theorem execWaitTimeout_frame (q : Nat) (s : State) :
    Kept (nextOf s (execWaitTimeout q s)) s := by
  unfold execWaitTimeout nextOf
  dsimp only
  repeat' split
  all_goals simp [Kept]

@[simp] theorem execWaitCycleScan_frame (s : State) :
    Kept (nextOf s (execWaitCycleScan s)) s := by
  unfold execWaitCycleScan nextOf
  dsimp only
  split <;> simp [Kept]

@[simp] theorem resetRing_frame (s : State) (q : Nat) :
    Kept (resetRing s q) s := by
  unfold resetRing
  simp [Kept]

@[simp] theorem resumeRing_frame (s : State) (q : Nat) :
    Kept (resumeRing s q) s := by
  unfold resumeRing
  simp [Kept]

@[simp] theorem reattachRing_frame (s : State) (q : Nat) :
    Kept (reattachRing s q) s := by
  unfold reattachRing
  dsimp only
  repeat' split
  all_goals simp [Kept]

@[simp] theorem writeQCtrl_frame (s : State) (q : Nat) (v : W32) :
    Kept (writeQCtrl s q v) s := by
  unfold writeQCtrl
  dsimp only
  split <;> simp [Kept]

@[simp] theorem execQEnable_frame (q : Nat) (v : W32) (s : State) :
    Kept (nextOf s (execQEnable q v s)) s := by
  unfold execQEnable nextOf
  simp [Kept]

@[simp] theorem execResume_frame (q : Nat) (s : State) :
    Kept (nextOf s (execResume q s)) s := by
  unfold execResume nextOf
  simp [Kept]

@[simp] theorem execReattach_frame (q : Nat) (s : State) :
    Kept (nextOf s (execReattach q s)) s := by
  unfold execReattach nextOf
  simp [Kept]

@[simp] theorem execRingReset_frame (q : Nat) (s : State) :
    Kept (nextOf s (execRingReset q s)) s := by
  unfold execRingReset nextOf
  simp [Kept]

@[simp] theorem writeDriverCfg_frame (s : State) (v : W32) :
    Kept (writeDriverCfg s v) s := by
  unfold writeDriverCfg
  simp [Kept]

@[simp] theorem execAttach_frame (v : W32) (s : State) :
    Kept (nextOf s (execAttach v s)) s := by
  unfold execAttach nextOf
  simp [Kept]

@[simp] theorem execHeartbeat_frame (v : W32) (s : State) :
    Kept (nextOf s (execHeartbeat v s)) s := by
  unfold execHeartbeat nextOf
  simp [Kept]

@[simp] theorem loseDriver_frame (s : State) :
    Kept (loseDriver s) s := by
  unfold loseDriver
  split <;> simp [Kept]

@[simp] theorem execDriverLost_frame (s : State) :
    Kept (nextOf s (execDriverLost s)) s := by
  unfold execDriverLost nextOf
  dsimp only
  split <;> simp [Kept]

@[simp] theorem execBusMasterDisable_frame (s : State) :
    Kept (nextOf s (execBusMasterDisable s)) s := by
  unfold execBusMasterDisable nextOf
  dsimp only
  split <;> simp [Kept]

@[simp] theorem flrPf0_frame (s0 : State) :
    Kept (flrPf0 s0) s0 := by
  unfold flrPf0
  simp [Kept]

@[simp] theorem execFlrPf0_frame (s : State) :
    Kept (nextOf s (execFlrPf0 s)) s := by
  unfold execFlrPf0 nextOf
  dsimp only
  split <;> simp [Kept]

@[simp] theorem execFlrDrainEnd_frame (s : State) :
    Kept (nextOf s (execFlrDrainEnd s)) s := by
  unfold execFlrDrainEnd nextOf
  dsimp only
  split <;> simp [Kept]

@[simp] theorem execFlrPf1_frame (s : State) :
    Kept (nextOf s (execFlrPf1 s)) s := by
  unfold execFlrPf1 nextOf
  simp [Kept]

@[simp] theorem execBar2Access_frame (write : Bool) (off len : Nat) (data : Bytes) (s : State) :
    Kept (nextOf s (execBar2Access write off len data s)) s := by
  unfold execBar2Access nextOf
  dsimp only
  repeat' split
  all_goals simp [Kept]

/-! ### Machine/Commands.lean -/

@[simp] theorem evictSlot_frame (s : State) (c i : Nat) :
    Kept (evictSlot s c i) s := by
  unfold evictSlot
  dsimp only
  split <;> simp [Kept]

@[simp] theorem allocEvict_frame (s : State) (c n : Nat) :
    Kept ((allocEvict s c n).1) s := by
  unfold allocEvict
  dsimp only
  repeat' split
  all_goals simp [Kept]

theorem allocEvict_pair {s : State} {c n : Nat} {u : State} {vr} (h : allocEvict s c n = (u, vr)) :
    Kept u s := by
  have := allocEvict_frame s c n
  rwa [h] at this

@[simp] theorem execConfigContext_frame (q : Nat) (s : State) :
    Kept (nextOf s (execConfigContext q s)) s := by
  unfold execConfigContext nextOf
  dsimp only
  refine named_frame _ _ _ _ ?_
  all_goals
    intros
    repeat' split
    all_goals simp [Kept]

@[simp] theorem execUnloadContext_frame (q : Nat) (s : State) :
    Kept (nextOf s (execUnloadContext q s)) s := by
  unfold execUnloadContext nextOf
  refine named_frame _ _ _ _ ?_
  all_goals
    intros
    split <;> simp [Kept]

@[simp] theorem execRunBatch_frame (q : Nat) (s : State) :
    Kept (nextOf s (execRunBatch q s)) s := by
  unfold execRunBatch nextOf
  refine named_frame _ _ _ _ ?_
  all_goals
    intros
    repeat' split
    all_goals simp [Kept]

@[simp] theorem placedFor_frame (s : State) (c : Nat) (cores : List Nat) :
    Kept ((placedFor s c cores).1) s := by
  unfold placedFor
  dsimp only
  repeat' split
  all_goals simp [Kept]

theorem placedFor_pair {s : State} {c : Nat} {cores : List Nat} {u : State} {vr} (h : placedFor s c cores = (u, vr)) :
    Kept u s := by
  have := placedFor_frame s c cores
  rwa [h] at this

@[simp] theorem execHostBatchStart_frame (c : Nat) (cores : List Nat) (s : State) :
    Kept (nextOf s (execHostBatchStart c cores s)) s := by
  unfold execHostBatchStart nextOf
  dsimp only
  repeat' split
  all_goals simp [Kept]

@[simp] theorem execStreamBatchStart_frame (c : Nat) (cores : List Nat) (s : State) :
    Kept (nextOf s (execStreamBatchStart c cores s)) s := by
  unfold execStreamBatchStart nextOf
  dsimp only
  repeat' split
  all_goals simp [Kept]

@[simp] theorem keepPaths_frame (s : State) (sid : Nat) :
    Kept (keepPaths s sid) s := by
  unfold keepPaths
  split <;> simp [Kept]

@[simp] theorem bindSid_frame (s : State) (sid : Nat) (entry : Bytes) (calico : Bool) :
    Kept (bindSid s sid entry calico) s := by
  unfold bindSid
  simp [Kept]

@[simp] theorem execBindStream_frame (q : Nat) (s : State) :
    Kept (nextOf s (execBindStream q s)) s := by
  unfold execBindStream nextOf
  dsimp only
  repeat' split
  all_goals simp [Kept]

@[simp] theorem execConfigQp_frame (q : Nat) (s : State) :
    Kept (nextOf s (execConfigQp q s)) s := by
  unfold execConfigQp nextOf
  dsimp only
  repeat' split
  all_goals simp [Kept]

@[simp] theorem resetLink_frame (s : State) (n : Nat) :
    Kept (resetLink s n) s := by
  unfold resetLink
  repeat' split
  all_goals simp [Kept]

@[simp] theorem execConfigLink_frame (q : Nat) (s : State) :
    Kept (nextOf s (execConfigLink q s)) s := by
  unfold execConfigLink nextOf
  dsimp only
  repeat' split
  all_goals simp [Kept]

/-! ### Machine/Flash.lean -/

@[simp] theorem mailDone_frame (s : State) (result : Nat) :
    Kept (mailDone s result) s := by
  unfold mailDone
  simp [Kept]

@[simp] theorem mgShort_frame (s : State) (result : Nat) :
    Kept (mgShort s result) s := by
  unfold mgShort
  simp [Kept]

@[simp] theorem mgLong_frame (s : State) (result : Nat) :
    Kept (mgLong s result) s := by
  unfold mgLong
  simp [Kept]

@[simp] theorem modFlash_frame (s : State) (n : Nat) (g : FlashChan → FlashChan) :
    Kept (modFlash s n g) s := by
  unfold modFlash
  simp [Kept]

@[simp] theorem flashEcc_frame (s : State) (off : Nat) (bad : Bool) :
    Kept (flashEcc s off bad) s := by
  unfold flashEcc
  simp [Kept]

@[simp] theorem noteWorn_frame (s : State) (off : Nat) (ecc : Ecc) :
    Kept (noteWorn s off ecc) s := by
  unfold noteWorn
  split <;> simp [Kept]

@[simp] theorem readWord_frame (s : State) (off : Nat) (ecc : Ecc) :
    Kept ((readWord s off ecc).1) s := by
  unfold readWord
  dsimp only
  repeat' split
  all_goals simp [Kept]

theorem readWord_pair {s : State} {off : Nat} {ecc : Ecc} {u : State} {vr} (h : readWord s off ecc = (u, vr)) :
    Kept u s := by
  have := readWord_frame s off ecc
  rwa [h] at this

@[simp] theorem execFlashRead_frame (off : Nat) (ecc : Ecc) (s : State) :
    Kept (nextOf s (execFlashRead off ecc s)) s := by
  unfold execFlashRead nextOf
  dsimp only
  split <;> simp [Kept]

@[simp] theorem refuseWaiting_frame (s : State) (c i : Nat) :
    Kept (refuseWaiting s c i) s := by
  unfold refuseWaiting
  dsimp only
  split <;> simp [Kept]

@[simp] theorem sectorIncomplete_frame (s : State) (sector : Nat) :
    Kept (sectorIncomplete s sector) s := by
  unfold sectorIncomplete
  dsimp only
  split
  · simp [Kept]
  · have two := foldl_kept (fun t c => refuseWaiting (refuseWaiting t c 0) c 1) (fun t c => by simp [Kept]) (List.range 16)
    simp_all [Kept]

@[simp] theorem flashFinish_frame (s : State) (n code : Nat) :
    Kept (flashFinish s n code) s := by
  unfold flashFinish
  dsimp only
  repeat' split
  all_goals simp [Kept]

@[simp] theorem serveStepless_frame (s : State) (n : Nat) :
    Kept (serveStepless s n) s := by
  unfold serveStepless
  repeat' split
  all_goals simp [Kept]

@[simp] theorem startStep_frame (n : Nat) (s : State) : Kept (startStep n s) s := by
  induction n generalizing s with
  | zero => simp [Kept, startStep]
  | succ n ih =>
    unfold startStep
    dsimp only
    repeat' split
    all_goals first
      | (simp [Kept]; done)
      | (simp_all [Kept]; done)

@[simp] theorem betweenSteps_frame (s : State) :
    Kept (betweenSteps s) s := by
  unfold betweenSteps
  simp [Kept]

@[simp] theorem abortOp_frame (s : State) (n : Nat) :
    Kept (abortOp s n) s := by
  unfold abortOp
  dsimp only
  repeat' split
  all_goals simp [Kept]

@[simp] theorem programEnd_frame (s : State) (n : Nat) (op : FlashOp) (verify : Bool) :
    Kept (programEnd s n op verify) s := by
  unfold programEnd
  split <;> simp [Kept]

@[simp] theorem eraseEnd_frame (s : State) (n : Nat) (op : FlashOp) (verify : Bool) :
    Kept (eraseEnd s n op verify) s := by
  unfold eraseEnd
  dsimp only
  repeat' split
  all_goals simp [Kept]

@[simp] theorem stepEnd_frame (s : State) (verify : Bool) :
    Kept (stepEnd s verify) s := by
  unfold stepEnd
  dsimp only
  repeat' split
  all_goals simp [Kept]

@[simp] theorem execFlashStepEnd_frame (verify : Bool) (s : State) :
    Kept (nextOf s (execFlashStepEnd verify s)) s := by
  unfold execFlashStepEnd nextOf
  simp [Kept]

@[simp] theorem flashCommand_frame (s : State) (n opcode region : Nat) (regionOn : Bool) :
    Kept (flashCommand s n opcode region regionOn) s := by
  unfold flashCommand
  dsimp only
  repeat' split
  all_goals simp [Kept]

@[simp] theorem execProgramPage_frame (n : Nat) (s : State) :
    Kept (nextOf s (execProgramPage n s)) s := by
  unfold execProgramPage nextOf
  simp [Kept]

@[simp] theorem execEraseSector_frame (n : Nat) (s : State) :
    Kept (nextOf s (execEraseSector n s)) s := by
  unfold execEraseSector nextOf
  simp [Kept]

@[simp] theorem execReadInfo_frame (n : Nat) (s : State) :
    Kept (nextOf s (execReadInfo n s)) s := by
  unfold execReadInfo nextOf
  simp [Kept]

@[simp] theorem execUnlock_frame (n : Nat) (s : State) :
    Kept (nextOf s (execUnlock n s)) s := by
  unfold execUnlock nextOf
  simp [Kept]

@[simp] theorem execLock_frame (n : Nat) (s : State) :
    Kept (nextOf s (execLock n s)) s := by
  unfold execLock nextOf
  simp [Kept]

@[simp] theorem execSetPassword_frame (n : Nat) (s : State) :
    Kept (nextOf s (execSetPassword n s)) s := by
  unfold execSetPassword nextOf
  simp [Kept]

@[simp] theorem execSetRegion_frame (n region : Nat) (enable : Bool) (s : State) :
    Kept (nextOf s (execSetRegion n region enable s)) s := by
  unfold execSetRegion nextOf
  simp [Kept]

@[simp] theorem execFlashAbort_frame (n : Nat) (s : State) :
    Kept (nextOf s (execFlashAbort n s)) s := by
  unfold execFlashAbort nextOf
  simp [Kept]

@[simp] theorem execUnlockCompletion_frame (n : Nat) (s : State) :
    Kept (nextOf s (execUnlockCompletion n s)) s := by
  unfold execUnlockCompletion nextOf
  dsimp only
  repeat' split
  all_goals simp [Kept]

@[simp] theorem execFlashScan_frame (s : State) :
    Kept (nextOf s (execFlashScan s)) s := by
  unfold execFlashScan nextOf
  dsimp only
  split <;> simp [Kept]

@[simp] theorem execSupplyModeChange_frame (s : State) :
    Kept (nextOf s (execSupplyModeChange s)) s := by
  unfold execSupplyModeChange nextOf
  simp [Kept]

@[simp] theorem execFlEiDataRead_frame (s : State) :
    Kept (nextOf s (execFlEiDataRead s)) s := by
  unfold execFlEiDataRead nextOf
  simp [Kept]

/-! ### Machine/Rdma.lean -/

@[simp] theorem modQp_frame (s : State) (n : Nat) (f : Qp → Qp) :
    Kept (modQp s n f) s := by
  unfold modQp
  simp [Kept]

@[simp] theorem emitMsg_frame (s : State) (p : Qp) (m : QpMsg) :
    Kept (emitMsg s p m) s := by
  unfold emitMsg
  simp [Kept]

@[simp] theorem postMsg_frame (s : State) (p : Qp) (imm : Option W32) (link : Option (Nat × Nat)) (payload : Bytes) :
    Kept (postMsg s p imm link payload) s := by
  unfold postMsg
  simp [Kept]

@[simp] theorem postRead_frame (s : State) (p : Qp) (va rkey len : Nat) :
    Kept (postRead s p va rkey len) s := by
  unfold postRead
  refine foldl_kept _ (fun t i => ?_) _ _
  dsimp only
  split <;> simp [Kept]

@[simp] theorem resendAll_frame (s : State) (n : Nat) :
    Kept (resendAll s n) s := by
  unfold resendAll
  split <;> simp [Kept]

@[simp] theorem failQp_frame (s : State) (n : Nat) :
    Kept (failQp s n) s := by
  unfold failQp
  repeat' split
  all_goals simp [Kept]

@[simp] theorem ackUpTo_frame (s : State) (p : Qp) (psn : Nat) :
    Kept (ackUpTo s p psn) s := by
  unfold ackUpTo
  split <;> simp [Kept]

@[simp] theorem retryQp_frame (s : State) (n : Nat) :
    Kept (retryQp s n) s := by
  unfold retryQp
  repeat' split
  all_goals simp [Kept]

@[simp] theorem answerCe_frame (s : State) (p : Qp) :
    Kept (answerCe s p) s := by
  unfold answerCe
  repeat' split
  all_goals simp [Kept]

@[simp] theorem ackPacket_frame (s : State) (p : Qp) (psn count : Nat) :
    Kept (ackPacket s p psn count) s := by
  unfold ackPacket
  simp [Kept]

@[simp] theorem refusePeer_frame (s : State) (p : Qp) (f : OutFrame) :
    Kept (refusePeer s p f) s := by
  unfold refusePeer
  simp [Kept]

@[simp] theorem modLink_frame (s : State) (n : Nat) (f : Link → Link) :
    Kept (modLink s n f) s := by
  unfold modLink
  simp [Kept]

theorem linkArrive_some {s : State} {l : Link} {idx : Nat} {page : Bytes} {r : State × Bool}
    (h : linkArrive s l idx page = some r) : Kept r.1 s := by
  unfold linkArrive at h
  repeat' split at h
  all_goals first
    | (cases h; done)
    | (cases h; have k := outsideAccess_some (by assumption); simp_all [Kept]; done)

@[simp] theorem takeWrite_frame (s : State) (p : Qp) (r : RocePacket) (imm : Option W32) :
    Kept (takeWrite s p r imm) s := by
  unfold takeWrite
  dsimp only
  repeat' split
  all_goals first
    | (have hq10 := linkArrive_some (by assumption); (have hq11 := linkArrive_some (by assumption)); simp_all [Kept]; done)
    | simp [Kept]

@[simp] theorem takeRead_frame (s : State) (p : Qp) (r : RocePacket) :
    Kept (takeRead s p r) s := by
  unfold takeRead
  repeat' split
  all_goals simp [Kept]

@[simp] theorem takeSend_frame (s : State) (p : Qp) (r : RocePacket) :
    Kept (takeSend s p r) s := by
  unfold takeSend
  dsimp only
  repeat' split
  all_goals simp [Kept]

@[simp] theorem takeRequest_frame (s : State) (p : Qp) (r : RocePacket) (f : State → Qp → RocePacket → State) (hf : ∀ (x0 : State) (x1 : Qp) (x2 : RocePacket), Kept (f x0 x1 x2) x0) :
    Kept (takeRequest s p r f) s := by
  unfold takeRequest
  dsimp only
  split
  · exact hf _ _ _
  · repeat' split
    all_goals simp [Kept]

@[simp] theorem rocePacket_frame (s : State) (r : RocePacket) :
    Kept (rocePacket s r) s := by
  unfold rocePacket
  dsimp only
  repeat' split
  all_goals simp [Kept]

@[simp] theorem execRocePacket_frame (p : RocePacket) (s : State) :
    Kept (nextOf s (execRocePacket p s)) s := by
  unfold execRocePacket nextOf
  simp [Kept]

@[simp] theorem execCnpReceive_frame (qp : Nat) (s : State) :
    Kept (nextOf s (execCnpReceive qp s)) s := by
  unfold execCnpReceive nextOf
  simp [Kept]

@[simp] theorem execRateIncrease_frame (qp : Nat) (s : State) :
    Kept (nextOf s (execRateIncrease qp s)) s := by
  unfold execRateIncrease nextOf
  simp [Kept]

@[simp] theorem execAckTimeout_frame (qp : Nat) (s : State) :
    Kept (nextOf s (execAckTimeout qp s)) s := by
  unfold execAckTimeout nextOf
  simp [Kept]

@[simp] theorem execRnrTimerExpiry_frame (qp : Nat) (s : State) :
    Kept (nextOf s (execRnrTimerExpiry qp s)) s := by
  unfold execRnrTimerExpiry nextOf
  dsimp only
  repeat' split
  all_goals simp [Kept]

@[simp] theorem execLinkPageSend_frame (link : Nat) (s : State) :
    Kept (nextOf s (execLinkPageSend link s)) s := by
  unfold execLinkPageSend nextOf
  dsimp only
  repeat' split
  all_goals first
    | (simp [Kept]; done)
    | (have h := outsideAccess_some (by assumption); simp_all [Kept]; done)

theorem releasePage_getD {s t u : State} {i k g : Nat} (ht : Kept t u) (hs : Kept s u) :
    Kept ((releasePage t i k g).getD s) u := by
  unfold releasePage
  split <;> simp_all [Kept]

@[simp] theorem execLinkWriteAck_frame (link : Nat) (s : State) :
    Kept (nextOf s (execLinkWriteAck link s)) s := by
  unfold execLinkWriteAck nextOf
  dsimp only
  repeat' split
  all_goals first
    | (simp [Kept]; done)
    | exact releasePage_getD (by simp [Kept]) (kept_self s)

@[simp] theorem execLinkCreditReturn_frame (link idx : Nat) (s : State) :
    Kept (nextOf s (execLinkCreditReturn link idx s)) s := by
  unfold execLinkCreditReturn nextOf
  dsimp only
  repeat' split
  all_goals simp [Kept]

@[simp] theorem resumePrio_frame (s : State) (port prio : Nat) :
    Kept (resumePrio s port prio) s := by
  unfold resumePrio
  simp [Kept]

@[simp] theorem execPfcFrame_frame (port : Nat) (quanta : List (Nat × Nat)) (s : State) :
    Kept (nextOf s (execPfcFrame port quanta s)) s := by
  unfold execPfcFrame nextOf
  dsimp only
  repeat' split
  all_goals first
    | (simp [Kept]; done)
    | (refine foldl_kept _ (fun _ _ => ?_) _ _; (repeat' split) <;> simp [Kept])

@[simp] theorem execPfcPauseEnd_frame (port prio : Nat) (s : State) :
    Kept (nextOf s (execPfcPauseEnd port prio s)) s := by
  unfold execPfcPauseEnd nextOf
  dsimp only
  split <;> simp [Kept]

@[simp] theorem execXoffRefresh_frame (port prio occ : Nat) (s : State) :
    Kept (nextOf s (execXoffRefresh port prio occ s)) s := by
  unfold execXoffRefresh nextOf
  dsimp only
  repeat' split
  all_goals simp [Kept]

@[simp] theorem execReceivedFrame_frame (port prio occ : Nat) (kind : FrameKind) (s : State) :
    Kept (nextOf s (execReceivedFrame port prio occ kind s)) s := by
  unfold execReceivedFrame nextOf
  dsimp only
  repeat' split
  all_goals simp [Kept]

/-! ### Machine/Ports.lean -/

@[simp] theorem portDown_frame (s : State) (p : Nat) :
    Kept (portDown s p) s := by
  unfold portDown
  simp [Kept]

@[simp] theorem writePortReset_frame (s : State) (v : Byte) :
    Kept (writePortReset s v) s := by
  unfold writePortReset
  simp [Kept]

@[simp] theorem execPortReset_frame (reset : Byte) (s : State) :
    Kept (nextOf s (execPortReset reset s)) s := by
  unfold execPortReset nextOf
  simp [Kept]

@[simp] theorem execLinkUp_frame (port : Nat) (s : State) :
    Kept (nextOf s (execLinkUp port s)) s := by
  unfold execLinkUp nextOf
  dsimp only
  split <;> simp [Kept]

@[simp] theorem execLinkDown_frame (port : Nat) (s : State) :
    Kept (nextOf s (execLinkDown port s)) s := by
  unfold execLinkDown nextOf
  simp [Kept]

@[simp] theorem modCage_frame (s : State) (c : Nat) (f : Cage → Cage) :
    Kept (modCage s c f) s := by
  unfold modCage
  simp [Kept]

@[simp] theorem putLife_frame (s : State) (r : Bytes) :
    Kept (putLife s r) s := by
  unfold putLife
  simp [Kept]

@[simp] theorem writeLife_frame (s : State) (c : Nat) (day : Bool) :
    Kept (writeLife s c day) s := by
  unfold writeLife
  dsimp only
  split <;> simp [Kept]

@[simp] theorem execModuleInsert_frame (cage : Nat) (s : State) :
    Kept (nextOf s (execModuleInsert cage s)) s := by
  unfold execModuleInsert nextOf
  dsimp only
  split <;> simp [Kept]

@[simp] theorem moduleFail_frame (s : State) (cage step : Nat) :
    Kept (moduleFail s cage step) s := by
  unfold moduleFail
  simp [Kept]

@[simp] theorem execModuleReadyTimeout_frame (cage : Nat) (s : State) :
    Kept (nextOf s (execModuleReadyTimeout cage s)) s := by
  unfold execModuleReadyTimeout nextOf
  dsimp only
  split <;> simp [Kept]

@[simp] theorem execModuleReady_frame (cage : Nat) (serial vendor part : Bytes) (threshold : Nat) (rateOk : Bool) (failStep : Nat)
    (bias : List Nat) (s : State) :
    Kept (nextOf s (execModuleReady cage serial vendor part threshold rateOk failStep bias s)) s := by
  unfold execModuleReady nextOf
  dsimp only
  repeat' split
  all_goals simp [Kept]

@[simp] theorem execModuleRemove_frame (cage : Nat) (s : State) :
    Kept (nextOf s (execModuleRemove cage s)) s := by
  unfold execModuleRemove nextOf
  dsimp only
  split <;> simp [Kept]

@[simp] theorem execTxBiasSample_frame (cage : Nat) (bias : List Nat) (s : State) :
    Kept (nextOf s (execTxBiasSample cage bias s)) s := by
  unfold execTxBiasSample nextOf
  dsimp only
  repeat' split
  all_goals simp [Kept]

@[simp] theorem execLifeRecordWrite_frame (cage : Nat) (s : State) :
    Kept (nextOf s (execLifeRecordWrite cage s)) s := by
  unfold execLifeRecordWrite nextOf
  simp [Kept]

/-! ### Machine/Weights.lean -/

@[simp] theorem forward_frame (s : State) (c i t off : Nat) (bs : Bytes) :
    Kept (forward s c i t off bs) s := by
  unfold forward
  dsimp only
  repeat' split
  all_goals first
    | (simp [Kept]; done)
    | (refine foldl_kept _ (fun _ _ => ?_) _ _; (repeat' split) <;> simp [Kept])

@[simp] theorem readServer_frame (s : State) (e : Bytes) :
    Kept (readServer s e) s := by
  unfold readServer
  split <;> simp [Kept]

@[simp] theorem noteBadWord_frame (s : State) (e : Bytes) (t : Nat) (src : SourceResult) :
    Kept (noteBadWord s e t src) s := by
  unfold noteBadWord
  repeat' split
  all_goals simp [Kept]

theorem flashFetch_pair {s t : State} {off n : Nat} {x} (h : flashFetch s off n = (t, x)) : Kept t s := by
  have k : ∀ (p : State × Option (Option Bytes)) (w : Nat), Kept (match p.2 with
      | some (some bs) =>
        let q := readWord p.1 (32 * w) .clean
        (q.1, if q.2.status then (if statusReason p.1.flash (32 * w) = some 4 then some none else none)
          else if q.2.error then some none else some (some (bs ++ q.2.data)))
      | _ => p : State × Option (Option Bytes)).1 p.1 := by
    intro p w
    split <;> simp [Kept]
  have all := foldl_fst_kept _ k (if n = 0 then [] else (List.range ((off + n - 1) / 32 + 1 - off / 32)).map (off / 32 + ·))
    (s, some (some []))
  unfold flashFetch at h
  dsimp only at h
  cases h
  exact all

theorem sourceOf_pair {s t : State} {sl : Slot} {n : Nat} {src : SourceResult} {rdma : List Bytes} {x}
    (h : sourceOf s sl n src rdma = (t, x)) : Kept t s := by
  unfold sourceOf at h
  dsimp only at h
  split at h
  · cases h
    exact kept_self s
  · repeat' split at h
    all_goals
      cases h
      have k := flashFetch_pair (by assumption)
      simp_all [Kept]
  · repeat' split at h
    all_goals
      cases h
      simp [Kept]
  · cases h
    exact kept_self s

@[simp] theorem stageTensor_frame (s : State) (sl : Slot) (t : Nat) (again : Bool) (src : SourceResult) (rdma : List Bytes) :
    Kept ((stageTensor s sl t again src rdma).1) s := by
  unfold stageTensor
  dsimp only
  repeat' split
  all_goals first
    | (simp [Kept]; done)
    | (have k := sourceOf_pair (by assumption); simp_all [Kept]; done)

theorem stageTensor_pair {s : State} {sl : Slot} {t : Nat} {again : Bool} {src : SourceResult} {rdma : List Bytes} {u : State} {vr} (h : stageTensor s sl t again src rdma = (u, vr)) :
    Kept u s := by
  have := stageTensor_frame s sl t again src rdma
  rwa [h] at this

@[simp] theorem fetchSet_frame (c i : Nat) (again : Bool) (src : SourceResult) (rdma : List Bytes) (ts : List Nat)
    (s : State) : Kept (fetchSet c i again src rdma ts s).1 s := by
  induction ts generalizing s with
  | nil => simp [Kept, fetchSet]
  | cons t ts ih =>
    unfold fetchSet
    dsimp only
    repeat' split
    all_goals (try have hq := stageTensor_pair (by assumption))
    all_goals (try have hs := sourceOf_pair (by assumption))
    all_goals first
      | (simp [Kept]; done)
      | (simp_all [Kept]; done)

theorem fetchSet_pair {c i : Nat} {again : Bool} {src : SourceResult} {rdma : List Bytes} {ts : List Nat}
    {s t : State} {x} (h : fetchSet c i again src rdma ts s = (t, x)) : Kept t s := by
  have := fetchSet_frame c i again src rdma ts s
  rwa [h] at this

@[simp] theorem failLoad_frame (s : State) (c i status value tensor : Nat) :
    Kept (failLoad s c i status value tensor) s := by
  unfold failLoad
  dsimp only
  repeat' split
  all_goals simp [Kept]

@[simp] theorem formatLog_frame (s : State) (c i detail : Nat) :
    Kept (formatLog s c i detail) s := by
  unfold formatLog
  split <;> simp [Kept]

@[simp] theorem fetchEnd_frame (s : State) (c i : Nat) (again : Bool) (src : SourceResult) (rdma : List Bytes) (done : State → State) (hdone : ∀ (x0 : State), Kept (done x0) x0) :
    Kept (fetchEnd s c i again src rdma done) s := by
  unfold fetchEnd
  try dsimp only
  repeat' split
  all_goals (try have hq18 := fetchSet_pair (by assumption))
  all_goals first
    | (simp [Kept, Sized]; done)
    | (simp_all [Kept, Sized]; done)
    | (refine foldl_kept _ (fun _ _ => ?_) _ _; (try dsimp only); (repeat' split); all_goals first | (simp [Kept, Sized]; done) | (simp_all [Kept, Sized]; done))
    | (simp (disch := first | (intros; simp [Kept, Sized]; done) | (intros; (try dsimp only); split <;> simp [Kept, Sized]; done) | (intros; (try dsimp only); (repeat' split) <;> simp [Kept, Sized]; done)) [Kept, Sized]; done)

@[simp] theorem openSet_frame (s : State) (c : Nat) (a : Nat) :
    Kept ((openSet s c a).1) s := by
  unfold openSet
  dsimp only
  repeat' split
  all_goals first
    | (have hq7 := allocEvict_pair (by assumption); simp_all [Kept]; done)
    | simp [Kept]

theorem openSet_pair {s : State} {c : Nat} {a : Nat} {u : State} {vr} (h : openSet s c a = (u, vr)) :
    Kept u s := by
  have := openSet_frame s c a
  rwa [h] at this

@[simp] theorem loadWeights_frame (s : State) (q : Nat) (e : RingEntry) (c : Nat) :
    Kept (loadWeights s q e c) s := by
  unfold loadWeights
  dsimp only
  repeat' split
  all_goals first
    | (have hq12 := openSet_pair (by assumption); simp_all [Kept]; done)
    | simp [Kept]

@[simp] theorem execLoadWeights_frame (q : Nat) (s : State) :
    Kept (nextOf s (execLoadWeights q s)) s := by
  unfold execLoadWeights nextOf
  simp [Kept]

@[simp] theorem execWeightLoadComplete_frame (c slot : Nat) (src : SourceResult) (rdma : List Bytes) (s : State) :
    Kept (nextOf s (execWeightLoadComplete c slot src rdma s)) s := by
  unfold execWeightLoadComplete nextOf
  dsimp only
  repeat' split
  all_goals simp (disch := (intros; (repeat' split) <;> simp [Kept]; done)) [Kept]

@[simp] theorem restage_frame (s : State) (c i : Nat) :
    Kept ((restage s c i).1) s := by
  unfold restage
  dsimp only
  repeat' split
  all_goals first
    | (have h := allocEvict_pair (by assumption); simp_all [Kept]; done)
    | simp [Kept]

theorem restage_pair {s : State} {c i : Nat} {u : State} {vr} (h : restage s c i = (u, vr)) :
    Kept u s := by
  have := restage_frame s c i
  rwa [h] at this

@[simp] theorem execRefetch_frame (c slot : Nat) (src : SourceResult) (rdma : List Bytes) (s : State) :
    Kept (nextOf s (execRefetch c slot src rdma s)) s := by
  unfold execRefetch nextOf
  dsimp only
  repeat' split
  all_goals first
    | (have hq13 := restage_pair (by assumption); simp_all [Kept]; done)
    | simp [Kept]

@[simp] theorem leaveSlot_frame (s : State) (c i : Nat) :
    Kept (leaveSlot s c i) s := by
  unfold leaveSlot
  dsimp only
  split <;> simp [Kept]

@[simp] theorem execSwitchWeights_frame (q : Nat) (s : State) :
    Kept (nextOf s (execSwitchWeights q s)) s := by
  unfold execSwitchWeights nextOf
  dsimp only
  repeat' split
  all_goals simp (disch := (intros; (repeat' split) <;> simp [Kept]; done)) [Kept]

@[simp] theorem execEvict_frame (q : Nat) (s : State) :
    Kept (nextOf s (execEvict q s)) s := by
  unfold execEvict nextOf
  dsimp only
  repeat' split
  all_goals simp (disch := (intros; (repeat' split) <;> simp [Kept]; done)) [Kept]

@[simp] theorem execUseWindowEnd_frame (c : Nat) (s : State) :
    Kept (nextOf s (execUseWindowEnd c s)) s := by
  unfold execUseWindowEnd nextOf
  simp [Kept]

@[simp] theorem execRelayMessage_frame (c slot : Nat) (setId : W32) (tensor offset : Nat) (payload : Bytes) (s : State) :
    Kept (nextOf s (execRelayMessage c slot setId tensor offset payload s)) s := by
  unfold execRelayMessage nextOf
  dsimp only
  repeat' split
  all_goals simp [Kept]

@[simp] theorem execRelayTimeout_frame (c slot : Nat) (s : State) :
    Kept (nextOf s (execRelayTimeout c slot s)) s := by
  unfold execRelayTimeout nextOf
  dsimp only
  split <;> simp [Kept]

/-! ### Machine/Loader.lean -/

@[simp] theorem workFor_frame (s : State) (c : Nat) (img : Bytes) :
    Kept ((workFor s c img).1) s := by
  unfold workFor
  dsimp only
  repeat' split
  all_goals simp [Kept]

theorem workFor_pair {s : State} {c : Nat} {img : Bytes} {u : State} {vr} (h : workFor s c img = (u, vr)) :
    Kept u s := by
  have := workFor_frame s c img
  rwa [h] at this

@[simp] theorem loadImage_frame (s : State) (q idx c src report n told : Nat) :
    Kept (loadImage s q idx c src report n told) s := by
  unfold loadImage
  dsimp only
  repeat' split
  all_goals first
    | (have hq14 := workFor_pair (by assumption); simp_all [Kept]; done)
    | simp [Kept]

@[simp] theorem copyCorrected_frame (s : State) (src : Nat) (us : List Nat) : Kept (copyCorrected s src us) s := by
  unfold copyCorrected
  induction us generalizing s with
  | nil => exact kept_self s
  | cons u us ih =>
    have h := ih (hbmCorrected s (src / 32 + u))
    simp_all [Kept]

@[simp] theorem execLoadProgram_frame (q : Nat) (ecc : Ecc) (unproven : Nat) (s : State) :
    Kept (nextOf s (execLoadProgram q ecc unproven s)) s := by
  unfold execLoadProgram nextOf
  dsimp only
  refine named_frame _ _ _ _ ?_
  all_goals
    intros
    repeat' split
    all_goals simp [Kept]

@[simp] theorem repage_frame (s : State) (c k : Nat) (img : Bytes) (l : Nat) :
    Kept (repage s c k img l) s := by
  unfold repage
  simp [Kept]

@[simp] theorem execProgramInstall_frame (c : Nat) (s : State) :
    Kept (nextOf s (execProgramInstall c s)) s := by
  unfold execProgramInstall nextOf
  dsimp only
  repeat' split
  all_goals simp [Kept]

end Sys2Proof.Machine
end

