-- ==== Sys2Proof/Laws/FrameDevice.lean ====
section
/-!
SUPPORT. What the meanings and their operations keep, said once for each (security, power, resets and the service functions): see `Kept` and `Sized`.
-/

namespace Sys2Proof.Machine

set_option linter.all false

/-! ### Machine/Security.lean -/

@[simp] theorem openLevel_fuses (c : Sc) (l : BitVec 2) : (openLevel c l).revoked = c.revoked ∧
    (openLevel c l).rollback = c.rollback ∧ (openLevel c l).lifecycle = c.lifecycle ∧
    (openLevel c l).udsErased = c.udsErased ∧ (openLevel c l).decomDone = c.decomDone := by
  simp [openLevel]

@[simp] theorem fwErase_frame (s : State) (sector : Nat) :
    Kept (fwErase s sector) s := by
  unfold fwErase
  dsimp only
  split <;> simp [Kept]

@[simp] theorem writeBootRecord_frame (s : State) (copy : Bool) :
    Kept (writeBootRecord s copy) s := by
  unfold writeBootRecord
  dsimp only
  split <;> simp [Kept]

@[simp] theorem commitImage_frame (s : State) :
    Sized (commitImage s) s := by
  unfold commitImage
  simp [Sized]

@[simp] theorem writeDbgOpen_frame (s : State) (v : W32) :
    Kept (writeDbgOpen s v) s := by
  unfold writeDbgOpen
  repeat' split
  all_goals simp [Kept]

@[simp] theorem execDbgOpenOpen_frame (s : State) :
    Kept (nextOf s (execDbgOpenOpen s)) s := by
  unfold execDbgOpenOpen nextOf
  simp [Kept]

@[simp] theorem execDbgOpenClose_frame (s : State) :
    Kept (nextOf s (execDbgOpenClose s)) s := by
  unfold execDbgOpenClose nextOf
  simp [Kept]

@[simp] theorem jtag_frame (s : State) (ir : Nat) (out : Bytes) :
    Kept (jtag s ir out) s := by
  unfold jtag
  split <;> simp [Kept]

@[simp] theorem jtagBypass_frame (s : State) (ir : Nat) :
    Kept (jtagBypass s ir) s := by
  unfold jtagBypass
  simp [Kept]

@[simp] theorem execExtest_frame (s : State) :
    Kept (nextOf s (execExtest s)) s := by
  unfold execExtest nextOf
  simp [Kept]

@[simp] theorem execSamplePreload_frame (s : State) :
    Kept (nextOf s (execSamplePreload s)) s := by
  unfold execSamplePreload nextOf
  dsimp only
  split <;> simp [Kept]

@[simp] theorem execIdcode_frame (s : State) :
    Kept (nextOf s (execIdcode s)) s := by
  unfold execIdcode nextOf
  simp [Kept]

@[simp] theorem execClamp_frame (s : State) :
    Kept (nextOf s (execClamp s)) s := by
  unfold execClamp nextOf
  simp [Kept]

@[simp] theorem execHighz_frame (s : State) :
    Kept (nextOf s (execHighz s)) s := by
  unfold execHighz nextOf
  simp [Kept]

@[simp] theorem execBypass_frame (s : State) :
    Kept (nextOf s (execBypass s)) s := by
  unfold execBypass nextOf
  simp [Kept]

@[simp] theorem execTapReset_frame (s : State) :
    Kept (nextOf s (execTapReset s)) s := by
  unfold execTapReset nextOf
  dsimp only
  split <;> simp [Kept]

@[simp] theorem execDbgStatus_frame (s : State) :
    Kept (nextOf s (execDbgStatus s)) s := by
  unfold execDbgStatus nextOf
  simp [Kept]

@[simp] theorem execDbgChallenge_frame (level : BitVec 2) (random : Bytes) (s : State) :
    Kept (nextOf s (execDbgChallenge level random s)) s := by
  unfold execDbgChallenge nextOf
  dsimp only
  repeat' split
  all_goals simp [Kept]

@[simp] theorem execDbgResponse_frame (key sig : Bytes) (inTime : Bool) (s : State) :
    Kept (nextOf s (execDbgResponse key sig inTime s)) s := by
  unfold execDbgResponse nextOf
  dsimp only
  repeat' split
  all_goals simp [Kept]

@[simp] theorem execDbgClose_frame (s : State) :
    Kept (nextOf s (execDbgClose s)) s := by
  unfold execDbgClose nextOf
  dsimp only
  split <;> simp [Kept]

@[simp] theorem execFwAccess_frame (halt : Bool) (s : State) :
    Kept (nextOf s (execFwAccess halt s)) s := by
  unfold execFwAccess nextOf
  dsimp only
  repeat' split
  all_goals simp [Kept]

@[simp] theorem execScan_frame (s : State) :
    Kept (nextOf s (execScan s)) s := by
  unfold execScan nextOf
  dsimp only
  split <;> simp [Kept]

/-! ### Machine/Power.lean -/

@[simp] theorem execPwDvfsWrite_frame (v : W32) (s : State) :
    Kept (nextOf s (execPwDvfsWrite v s)) s := by
  unfold execPwDvfsWrite nextOf
  dsimp only
  split <;> simp [Kept]

@[simp] theorem execRailSettled_frame (s : State) :
    Kept (nextOf s (execRailSettled s)) s := by
  unfold execRailSettled nextOf
  dsimp only
  split <;> simp [Kept]

@[simp] theorem execPowerSample_frame (s : State) :
    Kept (nextOf s (execPowerSample s)) s := by
  unfold execPowerSample nextOf
  dsimp only
  repeat' split
  all_goals simp [Kept]

@[simp] theorem execThermalStep_frame (s : State) :
    Kept (nextOf s (execThermalStep s)) s := by
  unfold execThermalStep nextOf
  dsimp only
  repeat' split
  all_goals simp [Kept]

@[simp] theorem execTelemetrySample_frame (temps : List Byte) (total core hbm : W16) (s : State) :
    Kept (nextOf s (execTelemetrySample temps total core hbm s)) s := by
  unfold execTelemetrySample nextOf
  dsimp only
  repeat' split
  all_goals simp [Kept]

@[simp] theorem resumeDispatch_frame (s : State) :
    Kept (resumeDispatch s) s := by
  unfold resumeDispatch
  simp [Kept]

@[simp] theorem powerResult_frame (s : State) (r : Nat) :
    Kept (powerResult s r) s := by
  unfold powerResult
  simp [Kept]

@[simp] theorem powerDone_frame (s : State) :
    Kept (powerDone s) s := by
  unfold powerDone
  split <;> simp [Kept]

@[simp] theorem endAborted_frame (s : State) :
    Kept (endAborted s) s := by
  unfold endAborted
  dsimp only
  refine foldl_kept _ (fun _ _ => ?_) _ _
  repeat' split
  all_goals simp [Kept]

@[simp] theorem acceptFrames_frame (s : State) :
    Kept (acceptFrames s) s := by
  unfold acceptFrames
  simp [Kept]

@[simp] theorem setLpModes_frame (s : State) (felt : Bool) :
    Kept (setLpModes s felt) s := by
  unfold setLpModes
  simp [Kept]

@[simp] theorem abandonEntry_frame (s : State) (felt : Bool) (ap : Nat) :
    Kept (abandonEntry s felt ap) s := by
  unfold abandonEntry
  repeat' split
  all_goals simp [Kept]

@[simp] theorem reachAp_frame (s : State) (felt : Bool) (ap : Nat) :
    Kept (reachAp s felt ap) s := by
  unfold reachAp
  split <;> simp [Kept]

@[simp] theorem wakeBy_frame (s : State) (sources port : Nat) :
    Kept (wakeBy s sources port) s := by
  unfold wakeBy
  dsimp only
  repeat' split
  all_goals simp [Kept]

@[simp] theorem powerAsk_frame (s : State) (who target mask : Nat) :
    Kept (powerAsk s who target mask) s := by
  unfold powerAsk
  dsimp only
  repeat' with_reducible apply kept_ite
  all_goals first | with_reducible exact kept_self _ | simp [Kept]

@[simp] theorem stopDispatch_frame (s : State) (felt : Bool) :
    Kept (stopDispatch s felt) s := by
  unfold stopDispatch
  simp [Kept]

@[simp] theorem execVoileEntry_frame (s : State) :
    Kept (nextOf s (execVoileEntry s)) s := by
  unfold execVoileEntry nextOf
  dsimp only
  split <;> simp [Kept]

@[simp] theorem execFeltEntry_frame (s : State) :
    Kept (nextOf s (execFeltEntry s)) s := by
  unfold execFeltEntry nextOf
  dsimp only
  split <;> simp [Kept]

@[simp] theorem armTimer_frame (s : State) :
    Kept (armTimer s) s := by
  unfold armTimer
  simp [Kept]

@[simp] theorem execAp2CoresQuiesced_frame (s : State) :
    Kept (nextOf s (execAp2CoresQuiesced s)) s := by
  unfold execAp2CoresQuiesced nextOf
  dsimp only
  repeat' split
  all_goals simp [Kept]

@[simp] theorem execAp3StateSaved_frame (s : State) :
    Kept (nextOf s (execAp3StateSaved s)) s := by
  unfold execAp3StateSaved nextOf
  dsimp only
  split <;> simp [Kept]

@[simp] theorem execAp4HbmInSelfRefresh_frame (s : State) :
    Kept (nextOf s (execAp4HbmInSelfRefresh s)) s := by
  unfold execAp4HbmInSelfRefresh nextOf
  dsimp only
  split <;> simp [Kept]

@[simp] theorem enterFelt_frame (s : State) :
    Kept (enterFelt s) s := by
  unfold enterFelt
  simp [Kept]

@[simp] theorem execAp5GatesCommanded_frame (s : State) :
    Kept (nextOf s (execAp5GatesCommanded s)) s := by
  unfold execAp5GatesCommanded nextOf
  dsimp only
  repeat' split
  all_goals simp [Kept]

@[simp] theorem execWake_frame (sources : BitVec 7) (port : Nat) (s : State) :
    Kept (nextOf s (execWake sources port s)) s := by
  unfold execWake nextOf
  simp [Kept]

@[simp] theorem execThermalAlarm_frame (sensor : Nat) (s : State) :
    Kept (nextOf s (execThermalAlarm sensor s)) s := by
  unfold execThermalAlarm nextOf
  dsimp only
  split <;> simp [Kept]

@[simp] theorem execWakeTimer_frame (s : State) :
    Kept (nextOf s (execWakeTimer s)) s := by
  unfold execWakeTimer nextOf
  dsimp only
  split <;> simp [Kept]

@[simp] theorem execWakeFrame_frame (port dstMac : Nat) (frame : Bytes) (s : State) :
    Kept (nextOf s (execWakeFrame port dstMac frame s)) s := by
  unfold execWakeFrame nextOf
  dsimp only
  repeat' split
  all_goals simp [Kept]

@[simp] theorem execVoileExit_frame (s : State) :
    Kept (nextOf s (execVoileExit s)) s := by
  unfold execVoileExit nextOf
  dsimp only
  split <;> simp [Kept]

@[simp] theorem execFeltExit_frame (s : State) :
    Kept (nextOf s (execFeltExit s)) s := by
  unfold execFeltExit nextOf
  dsimp only
  split <;> simp [Kept]

@[simp] theorem fatalNoFw_frame (s : State) (e : LogEntry) :
    Kept (fatalNoFw s e) s := by
  unfold fatalNoFw
  simp [Kept]

@[simp] theorem execThermalTrip_frame (s : State) :
    Kept (nextOf s (execThermalTrip s)) s := by
  unfold execThermalTrip nextOf
  dsimp only
  split <;> simp [Kept]

@[simp] theorem kickWdt_frame (s : State) :
    Kept (kickWdt s) s := by
  unfold kickWdt
  simp [Kept]

@[simp] theorem execFwWatchdogKick_frame (s : State) :
    Kept (nextOf s (execFwWatchdogKick s)) s := by
  unfold execFwWatchdogKick nextOf
  dsimp only
  split <;> simp [Kept]

@[simp] theorem execFwWatchdogExpire_frame (s : State) :
    Kept (nextOf s (execFwWatchdogExpire s)) s := by
  unfold execFwWatchdogExpire nextOf
  dsimp only
  split <;> simp [Kept]

@[simp] theorem idle_frame (s : State) :
    Kept (idle s) s := by
  unfold idle
  split <;> simp [Kept]

/-! ### Machine/Resets.lean -/

@[simp] theorem resetCore_frame (s : State) (k : Nat) :
    Kept (resetCore s k) s := by
  unfold resetCore
  repeat' split
  all_goals simp [Kept]

@[simp] theorem execCoreReset_frame (k : Nat) (s : State) :
    Kept (nextOf s (execCoreReset k s)) s := by
  unfold execCoreReset nextOf
  dsimp only
  repeat' split
  all_goals simp [Kept]

@[simp] theorem execCoreOutOfService_frame (k : Nat) (s : State) :
    Kept (nextOf s (execCoreOutOfService k s)) s := by
  unfold execCoreOutOfService nextOf
  dsimp only
  split <;> simp [Kept]

@[simp] theorem reloadPinned_frame (s : State) (c k : Nat) :
    Kept (reloadPinned s c k) s := by
  unfold reloadPinned
  repeat' split
  all_goals simp [Kept]

@[simp] theorem unbindOn_frame (s : State) (k : Nat) :
    Kept (unbindOn s k) s := by
  unfold unbindOn
  simp [Kept]

@[simp] theorem execCoreCheck_frame (k : Nat) (pass : Bool) (s : State) :
    Kept (nextOf s (execCoreCheck k pass s)) s := by
  unfold execCoreCheck nextOf
  dsimp only
  repeat' split
  all_goals simp [Kept]

@[simp] theorem warmReset_frame (s : State) (pin : Bool) :
    Kept (warmReset s pin) s := by
  unfold warmReset
  dsimp only
  repeat' split
  all_goals simp [Kept, hostAfterReset, netAfterWarm, softRegs]

@[simp] theorem execWarmReset_frame (pin : Bool) (s : State) :
    Kept (nextOf s (execWarmReset pin s)) s := by
  unfold execWarmReset nextOf
  dsimp only
  split <;> simp [Kept]

@[simp] theorem powerLost_frame (s : State) :
    Kept (powerLost s) s := by
  unfold powerLost
  simp [Kept, hostAfterReset, netAfterWarm, softRegs]

@[simp] theorem execColdReset_frame (maddr : Nat) (s : State) :
    Kept (nextOf s (execColdReset maddr s)) s := by
  unfold execColdReset nextOf
  simp [Kept]

@[simp] theorem execRailFault_frame (s : State) :
    Kept (nextOf s (execRailFault s)) s := by
  unfold execRailFault nextOf
  simp [Kept]

@[simp] theorem execPllLock_frame (s : State) :
    Kept (nextOf s (execPllLock s)) s := by
  unfold execPllLock nextOf
  dsimp only
  split <;> simp [Kept]

@[simp] theorem decommissionEnd_frame (s : State) :
    Sized (decommissionEnd s) s := by
  unfold decommissionEnd
  try dsimp only
  repeat' split
  all_goals first
    | (simp [Kept, Sized]; done)
    | (simp_all [Kept, Sized]; done)
    | (refine foldl_kept _ (fun _ _ => ?_) _ _; (try dsimp only); (repeat' split); all_goals first | (simp [Kept, Sized]; done) | (simp_all [Kept, Sized]; done))
    | (simp (disch := first | (intros; simp [Kept, Sized]; done) | (intros; (try dsimp only); split <;> simp [Kept, Sized]; done) | (intros; (try dsimp only); (repeat' split) <;> simp [Kept, Sized]; done) | fail) [Kept, Sized]; done)

@[simp] theorem execDecommission_frame (v : W32) (s : State) :
    Sized (nextOf s (execDecommission v s)) s := by
  unfold execDecommission nextOf
  dsimp only
  repeat' split
  all_goals simp [Sized]

@[simp] theorem execDecommissionCancel_frame (s : State) :
    Kept (nextOf s (execDecommissionCancel s)) s := by
  unfold execDecommissionCancel nextOf
  simp [Kept]

@[simp] theorem startCopy_frame (s : State) (copy : Bool) :
    Kept (startCopy s copy) s := by
  unfold startCopy
  simp [Kept]

@[simp] theorem recordCheck_frame (s : State) (copy : Bool) (r : Nat) :
    Kept (recordCheck s copy r) s := by
  unfold recordCheck
  split <;> simp [Kept]

@[simp] theorem execBoot_frame (s : State) :
    Sized (nextOf s (execBoot s)) s := by
  unfold execBoot nextOf
  dsimp only
  repeat' split
  all_goals simp [Sized]

@[simp] theorem execFwReady_frame (s : State) :
    Kept (nextOf s (execFwReady s)) s := by
  unfold execFwReady nextOf
  dsimp only
  split <;> simp [Kept]

/-! ### Machine/Service.lean -/

@[simp] theorem mailCmd_frame (s : State) (op : Nat) (f : State → State) (hf : ∀ (x0 : State), Kept (f x0) x0) :
    Kept (mailCmd s op f) s := by
  unfold mailCmd
  dsimp only
  repeat' split
  all_goals simp_all [Kept]

@[simp] theorem mailBuf_frame (s : State) (bs : Bytes) :
    Kept (mailBuf s bs) s := by
  unfold mailBuf
  simp [Kept]

@[simp] theorem execGetInfo_frame (s : State) :
    Kept (nextOf s (execGetInfo s)) s := by
  unfold execGetInfo nextOf
  simp [Kept]

@[simp] theorem execReadTelemetry_frame (s : State) :
    Kept (nextOf s (execReadTelemetry s)) s := by
  unfold execReadTelemetry nextOf
  simp [Kept]

@[simp] theorem execReadLog_frame (s : State) :
    Kept (nextOf s (execReadLog s)) s := by
  unfold execReadLog nextOf
  simp [Kept]

@[simp] theorem flashReadBytes_frame (s : State) (off n : Nat) :
    Kept ((flashReadBytes s off n).1) s := by
  unfold flashReadBytes
  exact foldl_fst_kept _ (fun p w => by dsimp only; split <;> simp [Kept]) _ _

theorem flashReadBytes_pair {s : State} {off n : Nat} {u : State} {vr} (h : flashReadBytes s off n = (u, vr)) :
    Kept u s := by
  have := flashReadBytes_frame s off n
  rwa [h] at this

@[simp] theorem execSvcFlashRead_frame (s : State) :
    Kept (nextOf s (execSvcFlashRead s)) s := by
  unfold execSvcFlashRead nextOf
  dsimp only
  refine mailCmd_frame _ _ _ ?_
  all_goals
    intros
    repeat' split
    all_goals simp [Kept]

@[simp] theorem mailFlash_frame (s : State) (opcode off : Nat) (arg : W64) (data : Bytes) :
    Kept (mailFlash s opcode off arg data) s := by
  unfold mailFlash
  repeat' split
  all_goals simp [Kept]

@[simp] theorem execSvcFlashProgram_frame (s : State) :
    Kept (nextOf s (execSvcFlashProgram s)) s := by
  unfold execSvcFlashProgram nextOf
  refine mailCmd_frame _ _ _ ?_
  all_goals
    intros
    repeat' split
    all_goals simp [Kept]

@[simp] theorem execSvcFlashErase_frame (s : State) :
    Kept (nextOf s (execSvcFlashErase s)) s := by
  unfold execSvcFlashErase nextOf
  refine mailCmd_frame _ _ _ ?_
  all_goals
    intros
    repeat' split
    all_goals simp [Kept]

@[simp] theorem execSvcFlashUnlock_frame (s : State) :
    Kept (nextOf s (execSvcFlashUnlock s)) s := by
  unfold execSvcFlashUnlock nextOf
  simp [Kept]

@[simp] theorem modUpd_frame (s : State) (f : Update → Update) :
    Kept (modUpd s f) s := by
  unfold modUpd
  simp [Kept]

@[simp] theorem execUpdateBegin_frame (s : State) :
    Kept (nextOf s (execUpdateBegin s)) s := by
  unfold execUpdateBegin nextOf
  dsimp only
  refine mailCmd_frame _ _ _ ?_
  all_goals
    intros
    repeat' split
    all_goals simp [Kept]

@[simp] theorem execUpdateWrite_frame (s : State) :
    Kept (nextOf s (execUpdateWrite s)) s := by
  unfold execUpdateWrite nextOf
  dsimp only
  refine mailCmd_frame _ _ _ ?_
  all_goals
    intros
    repeat' split
    all_goals simp [Kept]

@[simp] theorem execUpdateVerify_frame (s : State) :
    Kept (nextOf s (execUpdateVerify s)) s := by
  unfold execUpdateVerify nextOf
  refine mailCmd_frame _ _ _ ?_
  all_goals
    intros
    split <;> simp [Kept]

@[simp] theorem execUpdateActivate_frame (s : State) :
    Kept (nextOf s (execUpdateActivate s)) s := by
  unfold execUpdateActivate nextOf
  refine mailCmd_frame _ _ _ ?_
  all_goals
    intros
    split <;> simp [Kept]

@[simp] theorem afterHandover_frame (s : State) :
    Kept (afterHandover s) s := by
  unfold afterHandover
  dsimp only
  repeat' split
  all_goals simp [Kept]

@[simp] theorem execHandover_frame (accept : Bool) (s : State) :
    Kept (nextOf s (execHandover accept s)) s := by
  unfold execHandover nextOf
  dsimp only
  repeat' split
  all_goals simp [Kept]

@[simp] theorem execUpdateCommit_frame (s : State) :
    Sized (nextOf s (execUpdateCommit s)) s := by
  unfold execUpdateCommit nextOf mailCmd
  dsimp only
  repeat' split
  all_goals simp [Kept, Sized]

@[simp] theorem execTrialEnd_frame (s : State) :
    Sized (nextOf s (execTrialEnd s)) s := by
  unfold execTrialEnd nextOf
  dsimp only
  split <;> simp [Sized]

@[simp] theorem execSvcAttest_frame (s : State) :
    Kept (nextOf s (execSvcAttest s)) s := by
  unfold execSvcAttest nextOf
  simp [Kept]

@[simp] theorem execPowerRequest_frame (s : State) :
    Kept (nextOf s (execPowerRequest s)) s := by
  unfold execPowerRequest nextOf
  dsimp only
  split <;> simp [Kept]

end Sys2Proof.Machine
end

