-- ==== Sys2Proof/Laws/FrameRegisters.lean ====
section
/-!
SUPPORT. What the meanings and their operations keep, said once for each (register accesses, the management port and Calico): see `Kept` and `Sized`.
-/

namespace Sys2Proof.Machine

set_option linter.all false

/-! ### Machine/Registers.lean -/

theorem sized_ite {p : Prop} [Decidable p] {a b s : State} (ha : Sized a s) (hb : Sized b s) :
    Sized (if p then a else b) s := by
  split
  · exact ha
  · exact hb

theorem nextOf_ite {p : Prop} [Decidable p] (a b : Res) (s : State) :
    nextOf s (if p then a else b) = if p then nextOf s a else nextOf s b := by
  split <;> rfl

theorem sized_host (s : State) (h : HostIf) (a : h.rings.length = s.host.rings.length)
    (b : h.ctxs.length = s.host.ctxs.length) (c : h.flags.length = s.host.flags.length) :
    Sized { s with host := h } s := by simp [Sized, a, b, c]

theorem kept_sized {t s : State} (h : Kept t s) : Sized t s := by simp_all [Kept, Sized]

theorem sized_refl (s : State) : Sized s s := by simp [Sized]

@[simp] theorem blockTouch_frame (s : State) (blk off : Nat) :
    Kept (blockTouch s blk off) s := by
  unfold blockTouch
  repeat' split
  all_goals simp [Kept]

@[simp] theorem mailboxCmd_frame (s : State) (op : Nat) :
    Sized (mailboxCmd s op) s := by
  unfold mailboxCmd
  split
  all_goals first
    | (simp [Sized]; done)
    | (simp only [nextOf]; have h := mailCmd_frame s op (fun t => mailDone t 0x0204) (fun t => by simp [Kept]); simp_all [Kept, Sized])

@[simp] theorem ringWrite_frame (s : State) (q off v : Nat) :
    Kept (ringWrite s q off v) s := by
  unfold ringWrite
  split <;> simp [Kept]

@[simp] theorem hiWrite_frame (s : State) (pf0 : Bool) (off v : Nat) :
    Sized (hiWrite s pf0 off v) s := by
  unfold hiWrite
  dsimp only
  simp only [nextOf_ite]
  repeat' with_reducible apply sized_ite
  all_goals with_reducible first
    | exact sized_host _ _ rfl rfl rfl
    | exact kept_sized (ringWrite_frame _ _ _ _)
    | exact mailboxCmd_frame _ _
    | exact kept_sized (writeDbgCtrl_frame _ _)
    | exact kept_sized (writeDbgOpen_frame _ _)
    | exact kept_sized (execDbgSel_frame _ _)
    | exact kept_sized (execHeartbeat_frame _ _)
    | exact kept_sized (writeDriverCfg_frame _ _)
    | exact kept_sized (execSqDoorbell_frame _ _ _)
    | exact kept_sized (execCqHeadWrite_frame _ _ _)
    | exact sized_refl s

@[simp] theorem flWrite_frame (s : State) (off v : Nat) :
    Kept (flWrite s off v) s := by
  unfold flWrite
  dsimp only
  repeat' split
  all_goals first
    | exact flashCommand_frame _ _ _ _ _
    | exact modFlash_frame _ _ _
    | simp [Kept]

@[simp] theorem nwWrite_frame (s : State) (off v : Nat) :
    Kept (nwWrite s off v) s := by
  unfold nwWrite
  repeat' split
  all_goals simp [Kept]

@[simp] theorem stWrite_frame (s : State) (off v : Nat) :
    Kept (stWrite s off v) s := by
  unfold stWrite
  repeat' split
  all_goals simp [Kept]

@[simp] theorem pwWrite_frame (s : State) (firmware : Bool) (off v : Nat) :
    Kept (pwWrite s firmware off v) s := by
  unfold pwWrite
  dsimp only
  repeat' split
  all_goals simp [Kept]

@[simp] theorem coreWrite_frame (s : State) (path : RegPath) (k off v : Nat) :
    Kept (coreWrite s path k off v) s := by
  unfold coreWrite
  repeat' split
  all_goals simp [Kept]

@[simp] theorem blockWrite_frame (s : State) (path : RegPath) (blk off v : Nat) :
    Sized (blockWrite s path blk off v) s := by
  unfold blockWrite
  repeat' split
  all_goals simp [Sized]

/-! ### Machine/Management.lean -/

@[simp] theorem modMg_frame (s : State) (f : Mg → Mg) :
    Kept (modMg s f) s := by
  unfold modMg
  simp [Kept]

@[simp] theorem mgLongCmd_frame (s : State) (f : State → State) (hf : ∀ (x0 : State), Kept (f x0) x0) :
    Kept (mgLongCmd s f) s := by
  unfold mgLongCmd
  repeat' split
  all_goals simp_all [Kept]

@[simp] theorem mgShortCmd_frame (s : State) (buffer : Bool) (f : State → State) (hf : ∀ (x0 : State), Kept (f x0) x0) :
    Kept (mgShortCmd s buffer f) s := by
  unfold mgShortCmd
  repeat' split
  all_goals simp_all [Kept]

@[simp] theorem mgBuf_frame (s : State) (bs : Bytes) :
    Kept (mgBuf s bs) s := by
  unfold mgBuf
  simp [Kept]

@[simp] theorem mgFlash_frame (s : State) (opcode : Nat) (refuse : State → Nat → State) (hrefuse : ∀ (x0 : State) (x1 : Nat), Kept (refuse x0 x1) x0) :
    Kept (mgFlash s opcode refuse) s := by
  unfold mgFlash
  repeat' split
  all_goals simp_all [Kept]

@[simp] theorem mgShortFlash_frame (s : State) (buffer : Bool) (opcode : Nat) :
    Kept (mgShortFlash s buffer opcode) s := by
  unfold mgShortFlash
  simp [Kept]

@[simp] theorem execMgFlashRead_frame (s : State) :
    Kept (nextOf s (execMgFlashRead s)) s := by
  unfold execMgFlashRead nextOf
  dsimp only
  refine mgShortCmd_frame _ _ _ ?_
  all_goals
    intros
    repeat' split
    all_goals simp [Kept]

@[simp] theorem execMgFlashProgram_frame (s : State) :
    Kept (nextOf s (execMgFlashProgram s)) s := by
  unfold execMgFlashProgram nextOf
  refine mgLongCmd_frame _ _ ?_
  all_goals
    intros
    split <;> simp [Kept]

@[simp] theorem execMgFlashErase_frame (s : State) :
    Kept (nextOf s (execMgFlashErase s)) s := by
  unfold execMgFlashErase nextOf
  simp [Kept]

@[simp] theorem execMgFlashReadInfo_frame (s : State) :
    Kept (nextOf s (execMgFlashReadInfo s)) s := by
  unfold execMgFlashReadInfo nextOf
  simp [Kept]

@[simp] theorem execMgFlashUnlock_frame (s : State) :
    Kept (nextOf s (execMgFlashUnlock s)) s := by
  unfold execMgFlashUnlock nextOf
  simp [Kept]

@[simp] theorem execMgFlashLock_frame (s : State) :
    Kept (nextOf s (execMgFlashLock s)) s := by
  unfold execMgFlashLock nextOf
  simp [Kept]

@[simp] theorem execLogRead_frame (s : State) :
    Kept (nextOf s (execLogRead s)) s := by
  unfold execLogRead nextOf
  simp [Kept]

@[simp] theorem dumpStep_frame (s : State) (first left : Nat) :
    Kept (dumpStep s first left) s := by
  unfold dumpStep
  split <;> simp [Kept]

@[simp] theorem execLogDump_frame (s : State) :
    Kept (nextOf s (execLogDump s)) s := by
  unfold execLogDump nextOf
  dsimp only
  refine mgLongCmd_frame _ _ ?_
  all_goals
    intros
    repeat' split
    all_goals simp [Kept]

@[simp] theorem execMgContinue_frame (s : State) :
    Kept (nextOf s (execMgContinue s)) s := by
  unfold execMgContinue nextOf
  refine mgShortCmd_frame _ _ _ ?_
  all_goals
    intros
    split <;> simp [Kept]

@[simp] theorem execMgAbort_frame (s : State) :
    Kept (nextOf s (execMgAbort s)) s := by
  unfold execMgAbort nextOf
  refine mgShortCmd_frame _ _ _ ?_
  all_goals
    intros
    split <;> simp [Kept]

@[simp] theorem fwInfo_frame (s : State) :
    Kept (fwInfo s) s := by
  unfold fwInfo
  simp [Kept]

@[simp] theorem mgAttest_frame (s : State) :
    Kept (mgAttest s) s := by
  unfold mgAttest
  simp [Kept]

@[simp] theorem mgMail_frame (s : State) (buffer : Bool) (op : Nat) (f : State → State) (hf : ∀ (x0 : State), Kept (f x0) x0) :
    Kept (mgMail s buffer op f) s := by
  unfold mgMail
  try dsimp only
  repeat' split
  all_goals first
    | (refine mgShortCmd_frame _ _ _ ?_; all_goals (intros; (try dsimp only); (repeat' split); all_goals first | (simp [Kept, Sized]; done) | (simp_all [Kept, Sized]; done) | (simp (disch := first | (intros; simp [Kept, Sized]; done) | (intros; (try dsimp only); split <;> simp [Kept, Sized]; done) | (intros; (try dsimp only); (repeat' split) <;> simp [Kept, Sized]; done) | fail) [Kept, Sized]; done)))
    | (simp [Kept, Sized]; done)
    | (simp_all [Kept, Sized]; done)
    | (refine foldl_kept _ (fun _ _ => ?_) _ _; (try dsimp only); (repeat' split); all_goals first | (simp [Kept, Sized]; done) | (simp_all [Kept, Sized]; done))
    | (simp (disch := first | (intros; simp [Kept, Sized]; done) | (intros; (try dsimp only); split <;> simp [Kept, Sized]; done) | (intros; (try dsimp only); (repeat' split) <;> simp [Kept, Sized]; done) | fail) [Kept, Sized]; done)

@[simp] theorem execFwInfo_frame (s : State) :
    Kept (nextOf s (execFwInfo s)) s := by
  unfold execFwInfo nextOf
  simp [Kept]

@[simp] theorem execMgAttest_frame (s : State) :
    Kept (nextOf s (execMgAttest s)) s := by
  unfold execMgAttest nextOf
  simp [Kept]

@[simp] theorem execMailboxTimeout_frame (s : State) :
    Kept (nextOf s (execMailboxTimeout s)) s := by
  unfold execMailboxTimeout nextOf
  dsimp only
  split <;> simp [Kept]

@[simp] theorem softReset_frame (s : State) :
    Kept (softReset s) s := by
  unfold softReset
  split <;> simp [Kept]

@[simp] theorem execMgSoftReset_frame (s : State) :
    Kept (nextOf s (execMgSoftReset s)) s := by
  unfold execMgSoftReset nextOf
  dsimp only
  split <;> simp [Kept]

@[simp] theorem bufAccess_frame (s : State) (write : Bool) (v : Byte) :
    Kept (bufAccess s write v) s := by
  unfold bufAccess
  split <;> simp [Kept]

@[simp] theorem execMgBufDataAccess_frame (write : Bool) (v : Byte) (s : State) :
    Kept (nextOf s (execMgBufDataAccess write v s)) s := by
  unfold execMgBufDataAccess nextOf
  simp [Kept]

@[simp] theorem execMultibyteLatchRead_frame (off : Nat) (s : State) :
    Kept (nextOf s (execMultibyteLatchRead off s)) s := by
  unfold execMultibyteLatchRead nextOf
  dsimp only
  repeat' split
  all_goals simp [Kept]

@[simp] theorem execMgPwrReq_frame (v : Byte) (s : State) :
    Kept (nextOf s (execMgPwrReq v s)) s := by
  unfold execMgPwrReq nextOf
  dsimp only
  split <;> simp [Kept]

@[simp] theorem execMgAddressMatch_frame (addr : Nat) (s : State) :
    Kept (nextOf s (execMgAddressMatch addr s)) s := by
  unfold execMgAddressMatch nextOf
  dsimp only
  split <;> simp [Kept]

@[simp] theorem ccc_frame (s : State) (f : Mg → Mg) :
    Kept (ccc s f) s := by
  unfold ccc
  split <;> simp [Kept]

@[simp] theorem cccAnswer_frame (s : State) (code n : Nat) :
    Kept (cccAnswer s code n) s := by
  unfold cccAnswer
  simp [Kept]

@[simp] theorem execEntdaa_frame (addr : Nat) (s : State) :
    Kept (nextOf s (execEntdaa addr s)) s := by
  unfold execEntdaa nextOf
  simp [Kept]

@[simp] theorem execSetdasa_frame (statAddr addr : Nat) (s : State) :
    Kept (nextOf s (execSetdasa statAddr addr s)) s := by
  unfold execSetdasa nextOf
  simp [Kept]

@[simp] theorem execSetnewda_frame (addr : Nat) (s : State) :
    Kept (nextOf s (execSetnewda addr s)) s := by
  unfold execSetnewda nextOf
  simp [Kept]

@[simp] theorem execRstdaa_frame (s : State) :
    Kept (nextOf s (execRstdaa s)) s := by
  unfold execRstdaa nextOf
  simp [Kept]

@[simp] theorem execEnec_frame (ev : Byte) (s : State) :
    Kept (nextOf s (execEnec ev s)) s := by
  unfold execEnec nextOf
  simp [Kept]

@[simp] theorem execDisec_frame (ev : Byte) (s : State) :
    Kept (nextOf s (execDisec ev s)) s := by
  unfold execDisec nextOf
  simp [Kept]

@[simp] theorem execGetpid_frame (s : State) :
    Kept (nextOf s (execGetpid s)) s := by
  unfold execGetpid nextOf
  simp [Kept]

@[simp] theorem execGetbcr_frame (s : State) :
    Kept (nextOf s (execGetbcr s)) s := by
  unfold execGetbcr nextOf
  simp [Kept]

@[simp] theorem execGetdcr_frame (s : State) :
    Kept (nextOf s (execGetdcr s)) s := by
  unfold execGetdcr nextOf
  simp [Kept]

@[simp] theorem execGetstatus_frame (s : State) :
    Kept (nextOf s (execGetstatus s)) s := by
  unfold execGetstatus nextOf
  dsimp only
  split <;> simp [Kept]

@[simp] theorem execGetmwl_frame (s : State) :
    Kept (nextOf s (execGetmwl s)) s := by
  unfold execGetmwl nextOf
  simp [Kept]

@[simp] theorem execGetmrl_frame (s : State) :
    Kept (nextOf s (execGetmrl s)) s := by
  unfold execGetmrl nextOf
  simp [Kept]

@[simp] theorem winDone_frame (s : State) (error : Bool) (v : W32) :
    Kept (winDone s error v) s := by
  unfold winDone
  simp [Kept]

@[simp] theorem windowRead_frame (s : State) :
    Kept (windowRead s) s := by
  unfold windowRead
  dsimp only
  repeat' split
  all_goals simp [Kept]

@[simp] theorem execWindowRead_frame (s : State) :
    Kept (nextOf s (execWindowRead s)) s := by
  unfold execWindowRead nextOf
  dsimp only
  split <;> simp [Kept]

@[simp] theorem windowWrite_frame (s : State) :
    Sized (windowWrite s) s := by
  unfold windowWrite
  dsimp only
  repeat' split
  all_goals simp [Sized]

@[simp] theorem execWindowWrite_frame (s : State) :
    Sized (nextOf s (execWindowWrite s)) s := by
  unfold execWindowWrite nextOf
  dsimp only
  split <;> simp [Sized]

/-! ### Machine/Calico.lean -/

@[simp] theorem writeRecord_frame (s : State) :
    Kept (writeRecord s) s := by
  unfold writeRecord
  dsimp only
  split <;> simp [Kept]

@[simp] theorem writeEntry_frame (s : State) :
    Kept (writeEntry s) s := by
  unfold writeEntry
  dsimp only
  split <;> simp [Kept]

@[simp] theorem setNetwork_frame (s : State) (r : Bytes) :
    Kept (setNetwork s r) s := by
  unfold setNetwork
  dsimp only
  split <;> simp [Kept]

theorem startImage_some {s : State} {c : Nat} {e : Bytes} {t : State} (h : startImage s c e = some t) :
    Kept (t) s := by
  unfold startImage at h
  dsimp only at h
  split at h
  · cases h
  · generalize allocCtx s c (max 256 (rdLe (flashData s (caImage e) 256) 24 8)) = r at h
    cases r with
    | none => cases h
    | some copy =>
      dsimp only at h
      split at h
      · cases h
      · simp only [Option.map_eq_some_iff] at h
        obtain ⟨w, -, rfl⟩ := h
        simp [Kept]

theorem startSet_some {s : State} {c : Nat} {e : Bytes} {t : State} (h : startSet s c e = some t) :
    Kept (t) s := by
  unfold startSet at h
  dsimp only at h
  split at h
  · cases h
  · split at h
    · cases h
    · split at h
      · have hq := fetchSet_pair (by assumption)
        cases h
        simp_all [Kept]
      · cases h

@[simp] theorem startEntry_frame (s : State) (i : Nat) :
    Kept (startEntry s i) s := by
  unfold startEntry
  dsimp only
  split
  · rename_i t h
    simp only [Option.bind_eq_bind, Option.bind_eq_some_iff] at h
    obtain ⟨c, -, base, -, s2, h2, s3, h3, h4⟩ := h
    have k2 := startImage_some h2
    have k3 := startSet_some h3
    cases h4
    simp_all [Kept]
  · simp [Kept]

@[simp] theorem calicoState_frame (s : State) (v : Nat) :
    Kept (calicoState s v) s := by
  unfold calicoState
  simp [Kept]

@[simp] theorem calicoStart_frame (s : State) :
    Kept (calicoStart s) s := by
  unfold calicoStart
  dsimp only
  repeat' split
  all_goals simp [Kept]

@[simp] theorem execCalicoStart_frame (s : State) :
    Kept (nextOf s (execCalicoStart s)) s := by
  unfold execCalicoStart nextOf
  dsimp only
  split <;> simp [Kept]

@[simp] theorem takeOverAll_frame (s : State) :
    Kept (takeOverAll s) s := by
  unfold takeOverAll
  simp [Kept]

@[simp] theorem calicoStop_frame (s : State) :
    Kept (calicoStop s) s := by
  unfold calicoStop
  simp [Kept]

@[simp] theorem calicoRestart_frame (s : State) :
    Kept (calicoRestart s) s := by
  unfold calicoRestart
  simp [Kept]

@[simp] theorem execCalicoWriteConfig_frame (s : State) :
    Kept (nextOf s (execCalicoWriteConfig s)) s := by
  unfold execCalicoWriteConfig nextOf
  simp [Kept]

@[simp] theorem execCalicoWriteEntry_frame (s : State) :
    Kept (nextOf s (execCalicoWriteEntry s)) s := by
  unfold execCalicoWriteEntry nextOf
  simp [Kept]

@[simp] theorem execCalicoRestart_frame (s : State) :
    Kept (nextOf s (execCalicoRestart s)) s := by
  unfold execCalicoRestart nextOf
  simp [Kept]

@[simp] theorem execCalicoStop_frame (s : State) :
    Kept (nextOf s (execCalicoStop s)) s := by
  unfold execCalicoStop nextOf
  simp [Kept]

@[simp] theorem unboundReport_frame (s : State) (p : SspPacket) :
    Kept (unboundReport s p) s := by
  unfold unboundReport
  dsimp only
  repeat' split
  all_goals simp [Kept]

@[simp] theorem execUnboundReport_frame (p : SspPacket) (s : State) :
    Kept (nextOf s (execUnboundReport p s)) s := by
  unfold execUnboundReport nextOf
  simp [Kept]

@[simp] theorem execCalicoIdleUnbind_frame (sid : Nat) (s : State) :
    Kept (nextOf s (execCalicoIdleUnbind sid s)) s := by
  unfold execCalicoIdleUnbind nextOf
  dsimp only
  repeat' split
  all_goals simp [Kept]

/-! ### Machine/Access.lean -/

@[simp] theorem mgCommand_frame (s : State) (op : Nat) :
    Kept (mgCommand s op) s := by
  unfold mgCommand
  split
  all_goals first
    | (simp [Kept]; done)
    | (simp only [nextOf]; exact mgShortCmd_frame s false (fun t => mgShort t 0x41) (fun t => by simp [Kept]))

@[simp] theorem mgPart_frame (s : State) (off base n : Nat) (v : Byte) (f : Nat → Mg → Mg) :
    Kept (mgPart s off base n v f) s := by
  unfold mgPart
  split <;> simp [Kept]

@[simp] theorem mgWriteByte_frame (s : State) (off : Nat) (v : Byte) :
    Sized (mgWriteByte s off v) s := by
  unfold mgWriteByte
  simp only [nextOf_ite]
  repeat' with_reducible apply sized_ite
  all_goals with_reducible first
    | exact kept_sized (setAlert_frame _ _ _)
    | exact kept_sized (mgCommand_frame _ _)
    | exact kept_sized (softReset_frame _)
    | exact kept_sized (mgPart_frame _ _ _ _ _ _)
    | exact kept_sized (bufAccess_frame _ _ _)
    | exact kept_sized (execMgPwrReq_frame _ _)
    | exact kept_sized (execWindowRead_frame _)
    | exact execWindowWrite_frame _
    | exact kept_sized (modMg_frame _ _)
    | exact sized_refl s
    | (simp [nextOf, Sized]; done)

@[simp] theorem faultWrite_frame (s : State) (path : RegPath) (addr : Nat) :
    Kept (faultWrite s path addr) s := by
  unfold faultWrite
  split <;> simp [Kept]

@[simp] theorem writeReg_frame (s : State) (path : RegPath) (addr : Nat) (v : W64) :
    Sized (writeReg s path addr v) s := by
  unfold writeReg
  repeat' split
  all_goals simp [Sized]

@[simp] theorem execRegisterWrite_frame (path : RegPath) (addr : Nat) (v : W64) (s : State) :
    Sized (nextOf s (execRegisterWrite path addr v s)) s := by
  unfold execRegisterWrite nextOf
  simp [Sized]

@[simp] theorem serveMail_frame (s : State) :
    Kept (serveMail s) s := by
  unfold serveMail
  repeat' split
  all_goals simp [Kept]

@[simp] theorem finishStop_frame (s : State) :
    Kept (finishStop s) s := by
  unfold finishStop
  split <;> simp [Kept]

@[simp] theorem eraseLost_frame (s : State) :
    Kept (eraseLost s) s := by
  unfold eraseLost
  repeat' split
  all_goals simp [Kept]

@[simp] theorem tick_frame (s : State) :
    Kept (tick s) s := by
  unfold tick
  simp [Kept]

end Sys2Proof.Machine
end

