-- ==== Sys2Proof/Laws/Frame.lean ====
section
/-!
SUPPORT. What every command keeps: it answers a next state, the queue behind it stays as it was, the parts of the block keep
their numbers, and the one-way state goes only its one way.
-/

namespace Sys2Proof.Machine

set_option linter.all false

/-- The one-way state went only its one way. -/
def Fused (t s : State) : Prop :=
  t.sc.revoked ||| s.sc.revoked = t.sc.revoked ∧ s.sc.rollback ≤ t.sc.rollback ∧
    (t.sc.lifecycle = s.sc.lifecycle ∨ t.sc.lifecycle = 2) ∧
    (s.sc.udsErased = true → t.sc.udsErased = true) ∧ (s.sc.decomDone = true → t.sc.decomDone = true)

theorem Kept.fused {t s : State} (h : Kept t s) : Fused t s := by
  obtain ⟨-, -, -, -, -, -, -, h1, h2, h3, h4, h5⟩ := h
  simp [Fused, h1, h2, h3, h4, h5]

theorem Fused.refl (s : State) : Fused s s := by simp [Fused]

theorem Fused.trans {u t s : State} (h : Fused u t) (k : Fused t s) : Fused u s := by
  obtain ⟨h1, h2, h3, h4, h5⟩ := h
  obtain ⟨k1, k2, k3, k4, k5⟩ := k
  refine ⟨?_, by omega, ?_, fun x => h4 (k4 x), fun x => h5 (k5 x)⟩
  · rw [← h1, BitVec.or_assoc, k1]
  · rcases h3 with h | h
    · rcases k3 with k | k
      · exact .inl (h.trans k)
      · exact .inr (h.trans k)
    · exact .inr h

theorem fused_of_eq {t s : State} (h : t.sc = s.sc) : Fused t s := by simp [Fused, h]

theorem fused_ite {p : Prop} [Decidable p] {a b s : State} (ha : Fused a s) (hb : Fused b s) :
    Fused (if p then a else b) s := by
  split
  · exact ha
  · exact hb

theorem fused_burn (s : State) (n : Nat) (r : BitVec 4) (copy : Bool) :
    Fused (writeBootRecord { s with sc := { s.sc with
      rollback := max s.sc.rollback n
      revoked := s.sc.revoked ||| r } } copy) s := by
  refine Fused.trans (writeBootRecord_frame _ _).fused ⟨?_, Nat.le_max_left _ _, .inl rfl, id, id⟩
  show (_ ||| _) ||| _ = _
  rw [BitVec.or_assoc, BitVec.or_comm r, ← BitVec.or_assoc, BitVec.or_self]

theorem fused_host (t : State) (h : HostIf) : Fused { t with host := h } t := fused_of_eq rfl

theorem commitImage_fused (s : State) : Fused (commitImage s) s := by
  unfold commitImage
  dsimp only
  refine Fused.trans (fused_host _ _) ?_
  exact fused_burn s _ _ _

theorem warmReset_fused (s : State) (pin : Bool) : Fused (warmReset s pin) s := (warmReset_frame s pin).fused

theorem decommissionEnd_fused (s : State) : Fused (decommissionEnd s) s := by
  unfold decommissionEnd
  dsimp only
  refine Fused.trans (warmReset_fused _ _) ?_
  generalize List.filter _ _ = l
  have h : ∀ (l : List Nat) (t : State), Kept (l.foldl fwErase t) t := fun l t => foldl_kept _ (fun t x => fwErase_frame t x) l t
  refine Fused.trans (t := l.foldl fwErase { s with sc := { s.sc with udsErased := true } }) ?_ ?_
  · simp [Fused]
  · refine Fused.trans (h l _).fused ?_
    simp [Fused]

theorem execDecommission_fused (v : W32) (s : State) : Fused (nextOf s (execDecommission v s)) s := by
  simp only [execDecommission, nextOf]
  repeat' with_reducible apply fused_ite
  · exact Fused.refl s
  · simp [Fused]
  · exact Fused.trans (decommissionEnd_fused _) (by simp [Fused])
  · simp [Fused]

theorem mailCmd_fused (s : State) (op : Nat) (f : State → State) (h : ∀ t, Fused (f t) t) : Fused (mailCmd s op f) s := by
  unfold mailCmd
  repeat' with_reducible apply fused_ite
  · exact fused_of_eq rfl
  · exact Fused.refl s
  · exact Fused.trans (h _) (fused_of_eq rfl)

theorem execUpdateCommit_fused (s : State) : Fused (nextOf s (execUpdateCommit s)) s := by
  simp only [execUpdateCommit, nextOf]
  refine mailCmd_fused s _ _ fun t => fused_ite ?_ (mailDone_frame _ _).fused
  exact Fused.trans (mailDone_frame _ _).fused (commitImage_fused t)

theorem execTrialEnd_fused (s : State) : Fused (nextOf s (execTrialEnd s)) s := by
  simp only [execTrialEnd, nextOf]
  exact fused_ite (commitImage_fused s) (Fused.refl s)

theorem execBoot_fused (s : State) : Fused (nextOf s (execBoot s)) s := by
  simp only [execBoot, nextOf]
  repeat' with_reducible apply fused_ite
  · exact Fused.refl s
  · exact decommissionEnd_fused s
  · exact Kept.fused (by simp [Kept])
  · exact Kept.fused (by simp [Kept])
  · exact Kept.fused (by simp [Kept])

theorem mailboxCmd_fused (s : State) (op : Nat) : Fused (mailboxCmd s op) s := by
  unfold mailboxCmd
  split
  all_goals first
    | exact execUpdateCommit_fused s
    | (refine Kept.fused ?_; simp [Kept]; done)
    | (simp only [nextOf]; exact (mailCmd_frame s op (fun t => mailDone t 0x0204) (fun t => by simp [Kept])).fused)

theorem hiWrite_fused (s : State) (pf0 : Bool) (off v : Nat) : Fused (hiWrite s pf0 off v) s := by
  unfold hiWrite
  dsimp only
  simp only [nextOf_ite]
  repeat' with_reducible apply fused_ite
  all_goals with_reducible first
    | exact fused_of_eq rfl
    | exact (ringWrite_frame _ _ _ _).fused
    | exact mailboxCmd_fused _ _
    | exact (writeDbgCtrl_frame _ _).fused
    | exact (writeDbgOpen_frame _ _).fused
    | exact (execDbgSel_frame _ _).fused
    | exact (execHeartbeat_frame _ _).fused
    | exact (writeDriverCfg_frame _ _).fused
    | exact (execSqDoorbell_frame _ _ _).fused
    | exact (execCqHeadWrite_frame _ _ _).fused

theorem blockWrite_fused (s : State) (path : RegPath) (blk off v : Nat) : Fused (blockWrite s path blk off v) s := by
  unfold blockWrite
  split
  all_goals try with_reducible apply fused_ite
  all_goals with_reducible first
    | exact hiWrite_fused _ _ _ _
    | exact execDecommission_fused _ _
    | exact fused_of_eq rfl
    | exact (flWrite_frame _ _ _).fused
    | exact (nwWrite_frame _ _ _).fused
    | exact (stWrite_frame _ _ _).fused
    | exact (pwWrite_frame _ _ _ _).fused
    | exact (coreWrite_frame _ _ _ _ _).fused

theorem windowWrite_fused (s : State) : Fused (windowWrite s) s := by
  unfold windowWrite
  dsimp only
  split
  · exact (winDone_frame _ _ _).fused
  · repeat' with_reducible apply fused_ite
    · exact Fused.trans (winDone_frame _ _ _).fused (modMg_frame _ _).fused
    · exact Fused.trans (blockWrite_fused _ _ _ _ _) (Fused.trans (winDone_frame _ _ _).fused (modMg_frame _ _).fused)
    · exact Fused.trans (blockWrite_fused _ _ _ _ _) (winDone_frame _ _ _).fused

theorem execWindowWrite_fused (s : State) : Fused (nextOf s (execWindowWrite s)) s := by
  simp only [execWindowWrite, nextOf]
  exact fused_ite (windowWrite_fused s) (Fused.refl s)

theorem mgWriteByte_fused (s : State) (off : Nat) (v : Byte) : Fused (mgWriteByte s off v) s := by
  unfold mgWriteByte
  simp only [nextOf_ite]
  repeat' with_reducible apply fused_ite
  all_goals with_reducible first
    | exact (setAlert_frame _ _ _).fused
    | exact (mgCommand_frame _ _).fused
    | exact (softReset_frame _).fused
    | exact (mgPart_frame _ _ _ _ _ _).fused
    | exact (bufAccess_frame _ _ _).fused
    | exact (execMgPwrReq_frame _ _).fused
    | exact (execWindowRead_frame _).fused
    | exact execWindowWrite_fused _
    | exact (modMg_frame _ _).fused
    | exact Fused.refl s
    | exact fused_of_eq (by simp [nextOf])

theorem writeReg_fused (s : State) (path : RegPath) (addr : Nat) (v : W64) : Fused (writeReg s path addr v) s := by
  unfold writeReg
  split
  · with_reducible apply fused_ite
    · exact Fused.trans (modMg_frame _ _).fused (mgWriteByte_fused _ _ _)
    · exact Fused.refl s
  · with_reducible apply fused_ite
    · exact Fused.trans (windowWrite_fused _) (modMg_frame _ _).fused
    · exact Fused.refl s
  · split
    · exact (faultWrite_frame _ _ _).fused
    · with_reducible apply fused_ite
      · exact (faultWrite_frame _ _ _).fused
      · exact fused_ite (Fused.refl s) (blockWrite_fused _ _ _ _ _)

theorem execRegisterWrite_fused (path : RegPath) (addr : Nat) (v : W64) (s : State) :
    Fused (nextOf s (execRegisterWrite path addr v s)) s := writeReg_fused s path addr v

/-- A meaning keeps what the result it is known by keeps. -/
theorem sized_of {s : State} {r r' : Res} (h : Kept (nextOf s r') s) (e : r = r') : Sized (nextOf s r) s := e ▸ kept_sized h

theorem fused_of {s : State} {r r' : Res} (h : Kept (nextOf s r') s) (e : r = r') : Fused (nextOf s r) s := e ▸ h.fused

theorem exec_sized (i : Instr) (s : State) : Sized (nextOf s (exec i s)) s := by
  cases i
  · exact sized_of (execNop_frame _ s) rfl
  · exact sized_of (execSeta_frame _ s) rfl
  · exact sized_of (execSeti_frame _ s) rfl
  · exact sized_of (execSetc_frame _ s) rfl
  · exact sized_of (execSets_frame _ s) rfl
  · exact sized_of (execAdda_frame _ s) rfl
  · exact sized_of (execStepa_frame _ s) rfl
  · exact sized_of (execAlu_frame _ s) rfl
  · exact sized_of (execMovx_frame _ s) rfl
  · exact sized_of (execLoop_frame _ s) rfl
  · exact sized_of (execBrk_frame _ s) rfl
  · exact sized_of (execCmp_frame _ s) rfl
  · exact sized_of (execFlagOp_frame _ s) rfl
  · exact sized_of (execSync_frame _ s) rfl
  · exact sized_of (execSyncRelease_frame _ _ s) rfl
  · exact sized_of (execSeqMacro_frame _ s) rfl
  · exact sized_of (execSeqStart_frame _ _ s) rfl
  · exact sized_of (execSeqComplete_frame _ _ s) rfl
  · exact sized_of (execEndOp_frame _ s) rfl
  · exact sized_of (execLaneEnd_frame _ s) rfl
  · exact sized_of (execLateWordHoldEnd_frame _ _ s) rfl
  · exact sized_of (execLoad_frame _ _ s) rfl
  · exact sized_of (execTileLoadComplete_frame _ _ s) rfl
  · exact sized_of (execRun_frame _ s) rfl
  · exact sized_of (execPassOpen_frame _ _ s) rfl
  · exact sized_of (execRowIssue_frame _ _ s) rfl
  · exact sized_of (execRowCommit_frame _ s) rfl
  · exact sized_of (execFma_frame _ _ _ s) rfl
  · exact sized_of (execFunc_frame _ _ _ s) rfl
  · exact sized_of (execReduce_frame _ _ _ s) rfl
  · exact sized_of (execTfill_frame _ _ _ s) rfl
  · exact sized_of (execTread_frame _ _ s) rfl
  · exact sized_of (execPload_frame _ _ s) rfl
  · exact sized_of (execDrain_frame _ _ s) rfl
  · exact sized_of (execBind_frame _ s) rfl
  · exact sized_of (execVectorResult_frame _ _ s) rfl
  · exact sized_of (execDrainEntryOutput_frame _ _ s) rfl
  · exact sized_of (execVxStatClose_frame _ s) rfl
  · exact sized_of (execDma_frame _ s) rfl
  · exact sized_of (execSend_frame _ s) rfl
  · exact sized_of (execTag_frame _ s) rfl
  · exact sized_of (execFlagWord_frame _ s) rfl
  · exact sized_of (execFlagDelivery_frame _ _ s) rfl
  · exact sized_of (execTokenDelivery_frame _ _ s) rfl
  · exact sized_of (execTokenWaitEnd_frame _ _ s) rfl
  · exact sized_of (execTransferComplete_frame _ _ s) rfl
  · exact sized_of (execTransferFail_frame _ _ s) rfl
  · exact sized_of (execUnscheduledAccess_frame _ _ _ s) rfl
  · exact sized_of (execMeshInboundAccess_frame _ _ s) rfl
  · exact sized_of (execTagWaitEnd_frame _ _ _ s) rfl
  · exact sized_of (execEccHoldEnd_frame _ s) rfl
  · exact sized_of (execCorrectionWriteBack_frame _ _ s) rfl
  · exact sized_of (execStarvationBreaker_frame _ s) rfl
  · exact sized_of (execScrubStep_frame _ _ _ s) rfl
  · exact sized_of (execPageZero_frame _ _ s) rfl
  · exact sized_of (execSpTagDataWrite_frame _ _ _ s) rfl
  · exact sized_of (execSpTagDataRead_frame _ s) rfl
  · exact sized_of (execHoldTimeout_frame _ s) rfl
  · exact sized_of (execBatchStart_frame _ s) rfl
  · exact sized_of (execLaneStart_frame _ s) rfl
  · exact sized_of (execLaneFetch_frame _ _ s) rfl
  · exact sized_of (execBatchFail_frame _ s) rfl
  · exact sized_of (execBatchComplete_frame _ s) rfl
  · exact sized_of (execCoreHalt_frame _ _ s) rfl
  · exact sized_of (execDbgEnd_frame _ s) rfl
  · exact sized_of (execDbgSel_frame _ s) rfl
  · exact sized_of (execDbgFetchDone_frame s) rfl
  · exact sized_of (execDbgOpenOpen_frame s) rfl
  · exact sized_of (execDbgOpenClose_frame s) rfl
  · exact sized_of (execSqDoorbell_frame _ _ s) rfl
  · exact sized_of (execCqHeadWrite_frame _ _ s) rfl
  · exact sized_of (execEntryBegin_frame _ s) rfl
  · exact sized_of (execCompletionWrite_frame _ s) rfl
  · exact sized_of (execMsixSignal_frame _ s) rfl
  · exact sized_of (execCoalesceExpire_frame _ s) rfl
  · exact sized_of (execNopEntry_frame _ s) rfl
  · exact sized_of (execLoadProgram_frame _ _ _ s) rfl
  · exact sized_of (execProgramInstall_frame _ s) rfl
  · exact sized_of (execLoadWeights_frame _ s) rfl
  · exact sized_of (execWeightLoadComplete_frame _ _ _ _ s) rfl
  · exact sized_of (execSwitchWeights_frame _ s) rfl
  · exact sized_of (execEvict_frame _ s) rfl
  · exact sized_of (execMakeResident_frame _ s) rfl
  · exact sized_of (execSlotRetire_frame _ _ s) rfl
  · exact sized_of (execUseWindowEnd_frame _ s) rfl
  · exact sized_of (execRefetch_frame _ _ _ _ s) rfl
  · exact sized_of (execPinnedReload_frame _ _ s) rfl
  · exact sized_of (execRelayMessage_frame _ _ _ _ _ _ s) rfl
  · exact sized_of (execRelayTimeout_frame _ _ s) rfl
  · exact sized_of (execBindStream_frame _ s) rfl
  · exact sized_of (execSetFlag_frame _ s) rfl
  · exact sized_of (execWaitFlag_frame _ s) rfl
  · exact sized_of (execWaitFlagSatisfied_frame _ s) rfl
  · exact sized_of (execWaitCycleScan_frame s) rfl
  · exact sized_of (execWaitTimeout_frame _ s) rfl
  · exact sized_of (execRunBatch_frame _ s) rfl
  · exact sized_of (execHostBatchStart_frame _ _ s) rfl
  · exact sized_of (execConfigContext_frame _ s) rfl
  · exact sized_of (execUnloadContext_frame _ s) rfl
  · exact sized_of (execConfigQp_frame _ s) rfl
  · exact sized_of (execConfigLink_frame _ s) rfl
  · exact sized_of (execQEnable_frame _ _ s) rfl
  · exact sized_of (execResume_frame _ s) rfl
  · exact sized_of (execReattach_frame _ s) rfl
  · exact sized_of (execRingReset_frame _ s) rfl
  · exact sized_of (execAttach_frame _ s) rfl
  · exact sized_of (execHeartbeat_frame _ s) rfl
  · exact sized_of (execDriverLost_frame s) rfl
  · exact sized_of (execBusMasterDisable_frame s) rfl
  · exact sized_of (execFlrPf0_frame s) rfl
  · exact sized_of (execFlrDrainEnd_frame s) rfl
  · exact sized_of (execFlrPf1_frame s) rfl
  · exact sized_of (execBar2Access_frame _ _ _ _ s) rfl
  · exact sized_of (execGetInfo_frame s) rfl
  · exact sized_of (execReadTelemetry_frame s) rfl
  · exact sized_of (execReadLog_frame s) rfl
  · exact sized_of (execSvcFlashRead_frame s) rfl
  · exact sized_of (execSvcFlashProgram_frame s) rfl
  · exact sized_of (execSvcFlashErase_frame s) rfl
  · exact sized_of (execSvcFlashUnlock_frame s) rfl
  · exact sized_of (execUpdateBegin_frame s) rfl
  · exact sized_of (execUpdateWrite_frame s) rfl
  · exact sized_of (execUpdateVerify_frame s) rfl
  · exact sized_of (execUpdateActivate_frame s) rfl
  · exact sized_of (execHandover_frame _ s) rfl
  · exact execUpdateCommit_frame s
  · exact execTrialEnd_frame s
  · exact sized_of (execSvcAttest_frame s) rfl
  · exact sized_of (execPowerRequest_frame s) rfl
  · exact sized_of (execHbmRequest_frame _ s) rfl
  · exact sized_of (execHbmReadComplete_frame _ _ _ s) rfl
  · exact sized_of (execRefresh_frame _ _ s) rfl
  · exact sized_of (execSelfRefreshEntry_frame _ s) rfl
  · exact sized_of (execSelfRefreshExit_frame _ s) rfl
  · exact sized_of (execCaParityAlert_frame _ _ _ s) rfl
  · exact sized_of (execHbmTraining_frame _ _ s) rfl
  · exact sized_of (execFlashRead_frame _ _ s) rfl
  · exact sized_of (execProgramPage_frame _ s) rfl
  · exact sized_of (execEraseSector_frame _ s) rfl
  · exact sized_of (execReadInfo_frame _ s) rfl
  · exact sized_of (execUnlock_frame _ s) rfl
  · exact sized_of (execLock_frame _ s) rfl
  · exact sized_of (execSetPassword_frame _ s) rfl
  · exact sized_of (execSetRegion_frame _ _ _ s) rfl
  · exact sized_of (execFlashAbort_frame _ s) rfl
  · exact sized_of (execFlashStepEnd_frame _ s) rfl
  · exact sized_of (execFlashScan_frame s) rfl
  · exact sized_of (execSupplyModeChange_frame s) rfl
  · exact sized_of (execFlEiDataRead_frame s) rfl
  · exact sized_of (execStreamPacket_frame _ s) rfl
  · exact sized_of (execCreditProbe_frame _ s) rfl
  · exact sized_of (execResetSequence_frame _ s) rfl
  · exact sized_of (execReassemblyTimeout_frame _ _ s) rfl
  · exact sized_of (execBatchDeadline_frame _ s) rfl
  · exact sized_of (execStreamBatchStart_frame _ _ s) rfl
  · exact sized_of (execPfcFrame_frame _ _ s) rfl
  · exact sized_of (execPfcPauseEnd_frame _ _ s) rfl
  · exact sized_of (execXoffRefresh_frame _ _ _ s) rfl
  · exact sized_of (execRocePacket_frame _ s) rfl
  · exact sized_of (execCnpReceive_frame _ s) rfl
  · exact sized_of (execRateIncrease_frame _ s) rfl
  · exact sized_of (execAckTimeout_frame _ s) rfl
  · exact sized_of (execLinkPageSend_frame _ s) rfl
  · exact sized_of (execLinkWriteAck_frame _ s) rfl
  · exact sized_of (execLinkCreditReturn_frame _ _ s) rfl
  · exact sized_of (execWakeFrame_frame _ _ _ s) rfl
  · exact sized_of (execModuleInsert_frame _ s) rfl
  · exact sized_of (execModuleReadyTimeout_frame _ s) rfl
  · exact sized_of (execModuleRemove_frame _ s) rfl
  · exact sized_of (execTxBiasSample_frame _ _ s) rfl
  · exact sized_of (execLifeRecordWrite_frame _ s) rfl
  · exact sized_of (execPortReset_frame _ s) rfl
  · exact sized_of (execLinkUp_frame _ s) rfl
  · exact sized_of (execMgFlashRead_frame s) rfl
  · exact sized_of (execMgFlashProgram_frame s) rfl
  · exact sized_of (execMgFlashErase_frame s) rfl
  · exact sized_of (execMgFlashReadInfo_frame s) rfl
  · exact sized_of (execMgFlashUnlock_frame s) rfl
  · exact sized_of (execMgFlashLock_frame s) rfl
  · exact sized_of (execLogRead_frame s) rfl
  · exact sized_of (execLogDump_frame s) rfl
  · exact sized_of (execMgContinue_frame s) rfl
  · exact sized_of (execMgAbort_frame s) rfl
  · exact sized_of (execFwInfo_frame s) rfl
  · exact sized_of (execCalicoWriteConfig_frame s) rfl
  · exact sized_of (execCalicoWriteEntry_frame s) rfl
  · exact sized_of (execCalicoRestart_frame s) rfl
  · exact sized_of (execCalicoStop_frame s) rfl
  · exact sized_of (execMgAttest_frame s) rfl
  · exact sized_of (execMailboxTimeout_frame s) rfl
  · exact sized_of (execMgSoftReset_frame s) rfl
  · exact sized_of (execMgBufDataAccess_frame _ _ s) rfl
  · exact sized_of (execMultibyteLatchRead_frame _ s) rfl
  · exact sized_of (execMgPwrReq_frame _ s) rfl
  · exact sized_of (execWindowRead_frame s) rfl
  · exact execWindowWrite_frame s
  · exact sized_of (execEntdaa_frame _ s) rfl
  · exact sized_of (execSetdasa_frame _ _ s) rfl
  · exact sized_of (execSetnewda_frame _ s) rfl
  · exact sized_of (execRstdaa_frame s) rfl
  · exact sized_of (execEnec_frame _ s) rfl
  · exact sized_of (execDisec_frame _ s) rfl
  · exact sized_of (execGetpid_frame s) rfl
  · exact sized_of (execGetbcr_frame s) rfl
  · exact sized_of (execGetdcr_frame s) rfl
  · exact sized_of (execGetstatus_frame s) rfl
  · exact sized_of (execGetmwl_frame s) rfl
  · exact sized_of (execGetmrl_frame s) rfl
  · exact sized_of (execMgAddressMatch_frame _ s) rfl
  · exact sized_of (execTelemetrySample_frame _ _ _ _ s) rfl
  · exact sized_of (execCalicoStart_frame s) rfl
  · exact sized_of (execUnboundReport_frame _ s) rfl
  · exact sized_of (execCalicoIdleUnbind_frame _ s) rfl
  · exact sized_of (execPwDvfsWrite_frame _ s) rfl
  · exact sized_of (execRailSettled_frame s) rfl
  · exact sized_of (execPowerSample_frame s) rfl
  · exact sized_of (execThermalStep_frame s) rfl
  · exact sized_of (execThermalAlarm_frame _ s) rfl
  · exact sized_of (execThermalTrip_frame s) rfl
  · exact sized_of (execColdReset_frame _ s) rfl
  · exact sized_of (execWarmReset_frame _ s) rfl
  · exact sized_of (execPllLock_frame s) rfl
  · exact execBoot_frame s
  · exact sized_of (execFwReady_frame s) rfl
  · exact sized_of (execCoreReset_frame _ s) rfl
  · exact sized_of (execVoileEntry_frame s) rfl
  · exact sized_of (execFeltEntry_frame s) rfl
  · exact sized_of (execAp2CoresQuiesced_frame s) rfl
  · exact sized_of (execAp3StateSaved_frame s) rfl
  · exact sized_of (execAp5GatesCommanded_frame s) rfl
  · exact sized_of (execWake_frame _ _ s) rfl
  · exact sized_of (execVoileExit_frame s) rfl
  · exact sized_of (execFeltExit_frame s) rfl
  · exact sized_of (execWakeTimer_frame s) rfl
  · exact sized_of (execFwWatchdogKick_frame s) rfl
  · exact sized_of (execFwWatchdogExpire_frame s) rfl
  · exact sized_of (execRailFault_frame s) rfl
  · exact execDecommission_frame _ s
  · exact sized_of (execDecommissionCancel_frame s) rfl
  · exact sized_of (execExtest_frame s) rfl
  · exact sized_of (execSamplePreload_frame s) rfl
  · exact sized_of (execIdcode_frame s) rfl
  · exact sized_of (execClamp_frame s) rfl
  · exact sized_of (execHighz_frame s) rfl
  · exact sized_of (execDbgStatus_frame s) rfl
  · exact sized_of (execDbgChallenge_frame _ _ s) rfl
  · exact sized_of (execDbgResponse_frame _ _ _ s) rfl
  · exact sized_of (execDbgClose_frame s) rfl
  · exact sized_of (execFwAccess_frame _ s) rfl
  · exact sized_of (execScan_frame s) rfl
  · exact sized_of (execBypass_frame s) rfl
  · exact sized_of (execCoreOutOfService_frame _ s) rfl
  · exact sized_of (execCoreCheck_frame _ _ s) rfl
  · exact execRegisterWrite_frame _ _ _ s
  · exact sized_of (execAp4HbmInSelfRefresh_frame s) rfl
  · exact sized_of (execModuleReady_frame _ _ _ _ _ _ _ _ s) rfl
  · exact sized_of (execLinkDown_frame _ s) rfl
  · exact sized_of (execReceivedFrame_frame _ _ _ _ s) rfl
  · exact sized_of (execUnlockCompletion_frame _ s) rfl
  · exact sized_of (execSelfRefreshExitComplete_frame _ s) rfl
  · exact sized_of (execHbmWriteDrain_frame _ _ _ s) rfl
  · exact sized_of (execRnrTimerExpiry_frame _ s) rfl
  · exact sized_of (execTapReset_frame s) rfl

theorem exec_fused (i : Instr) (s : State) : Fused (nextOf s (exec i s)) s := by
  cases i
  · exact fused_of (execNop_frame _ s) rfl
  · exact fused_of (execSeta_frame _ s) rfl
  · exact fused_of (execSeti_frame _ s) rfl
  · exact fused_of (execSetc_frame _ s) rfl
  · exact fused_of (execSets_frame _ s) rfl
  · exact fused_of (execAdda_frame _ s) rfl
  · exact fused_of (execStepa_frame _ s) rfl
  · exact fused_of (execAlu_frame _ s) rfl
  · exact fused_of (execMovx_frame _ s) rfl
  · exact fused_of (execLoop_frame _ s) rfl
  · exact fused_of (execBrk_frame _ s) rfl
  · exact fused_of (execCmp_frame _ s) rfl
  · exact fused_of (execFlagOp_frame _ s) rfl
  · exact fused_of (execSync_frame _ s) rfl
  · exact fused_of (execSyncRelease_frame _ _ s) rfl
  · exact fused_of (execSeqMacro_frame _ s) rfl
  · exact fused_of (execSeqStart_frame _ _ s) rfl
  · exact fused_of (execSeqComplete_frame _ _ s) rfl
  · exact fused_of (execEndOp_frame _ s) rfl
  · exact fused_of (execLaneEnd_frame _ s) rfl
  · exact fused_of (execLateWordHoldEnd_frame _ _ s) rfl
  · exact fused_of (execLoad_frame _ _ s) rfl
  · exact fused_of (execTileLoadComplete_frame _ _ s) rfl
  · exact fused_of (execRun_frame _ s) rfl
  · exact fused_of (execPassOpen_frame _ _ s) rfl
  · exact fused_of (execRowIssue_frame _ _ s) rfl
  · exact fused_of (execRowCommit_frame _ s) rfl
  · exact fused_of (execFma_frame _ _ _ s) rfl
  · exact fused_of (execFunc_frame _ _ _ s) rfl
  · exact fused_of (execReduce_frame _ _ _ s) rfl
  · exact fused_of (execTfill_frame _ _ _ s) rfl
  · exact fused_of (execTread_frame _ _ s) rfl
  · exact fused_of (execPload_frame _ _ s) rfl
  · exact fused_of (execDrain_frame _ _ s) rfl
  · exact fused_of (execBind_frame _ s) rfl
  · exact fused_of (execVectorResult_frame _ _ s) rfl
  · exact fused_of (execDrainEntryOutput_frame _ _ s) rfl
  · exact fused_of (execVxStatClose_frame _ s) rfl
  · exact fused_of (execDma_frame _ s) rfl
  · exact fused_of (execSend_frame _ s) rfl
  · exact fused_of (execTag_frame _ s) rfl
  · exact fused_of (execFlagWord_frame _ s) rfl
  · exact fused_of (execFlagDelivery_frame _ _ s) rfl
  · exact fused_of (execTokenDelivery_frame _ _ s) rfl
  · exact fused_of (execTokenWaitEnd_frame _ _ s) rfl
  · exact fused_of (execTransferComplete_frame _ _ s) rfl
  · exact fused_of (execTransferFail_frame _ _ s) rfl
  · exact fused_of (execUnscheduledAccess_frame _ _ _ s) rfl
  · exact fused_of (execMeshInboundAccess_frame _ _ s) rfl
  · exact fused_of (execTagWaitEnd_frame _ _ _ s) rfl
  · exact fused_of (execEccHoldEnd_frame _ s) rfl
  · exact fused_of (execCorrectionWriteBack_frame _ _ s) rfl
  · exact fused_of (execStarvationBreaker_frame _ s) rfl
  · exact fused_of (execScrubStep_frame _ _ _ s) rfl
  · exact fused_of (execPageZero_frame _ _ s) rfl
  · exact fused_of (execSpTagDataWrite_frame _ _ _ s) rfl
  · exact fused_of (execSpTagDataRead_frame _ s) rfl
  · exact fused_of (execHoldTimeout_frame _ s) rfl
  · exact fused_of (execBatchStart_frame _ s) rfl
  · exact fused_of (execLaneStart_frame _ s) rfl
  · exact fused_of (execLaneFetch_frame _ _ s) rfl
  · exact fused_of (execBatchFail_frame _ s) rfl
  · exact fused_of (execBatchComplete_frame _ s) rfl
  · exact fused_of (execCoreHalt_frame _ _ s) rfl
  · exact fused_of (execDbgEnd_frame _ s) rfl
  · exact fused_of (execDbgSel_frame _ s) rfl
  · exact fused_of (execDbgFetchDone_frame s) rfl
  · exact fused_of (execDbgOpenOpen_frame s) rfl
  · exact fused_of (execDbgOpenClose_frame s) rfl
  · exact fused_of (execSqDoorbell_frame _ _ s) rfl
  · exact fused_of (execCqHeadWrite_frame _ _ s) rfl
  · exact fused_of (execEntryBegin_frame _ s) rfl
  · exact fused_of (execCompletionWrite_frame _ s) rfl
  · exact fused_of (execMsixSignal_frame _ s) rfl
  · exact fused_of (execCoalesceExpire_frame _ s) rfl
  · exact fused_of (execNopEntry_frame _ s) rfl
  · exact fused_of (execLoadProgram_frame _ _ _ s) rfl
  · exact fused_of (execProgramInstall_frame _ s) rfl
  · exact fused_of (execLoadWeights_frame _ s) rfl
  · exact fused_of (execWeightLoadComplete_frame _ _ _ _ s) rfl
  · exact fused_of (execSwitchWeights_frame _ s) rfl
  · exact fused_of (execEvict_frame _ s) rfl
  · exact fused_of (execMakeResident_frame _ s) rfl
  · exact fused_of (execSlotRetire_frame _ _ s) rfl
  · exact fused_of (execUseWindowEnd_frame _ s) rfl
  · exact fused_of (execRefetch_frame _ _ _ _ s) rfl
  · exact fused_of (execPinnedReload_frame _ _ s) rfl
  · exact fused_of (execRelayMessage_frame _ _ _ _ _ _ s) rfl
  · exact fused_of (execRelayTimeout_frame _ _ s) rfl
  · exact fused_of (execBindStream_frame _ s) rfl
  · exact fused_of (execSetFlag_frame _ s) rfl
  · exact fused_of (execWaitFlag_frame _ s) rfl
  · exact fused_of (execWaitFlagSatisfied_frame _ s) rfl
  · exact fused_of (execWaitCycleScan_frame s) rfl
  · exact fused_of (execWaitTimeout_frame _ s) rfl
  · exact fused_of (execRunBatch_frame _ s) rfl
  · exact fused_of (execHostBatchStart_frame _ _ s) rfl
  · exact fused_of (execConfigContext_frame _ s) rfl
  · exact fused_of (execUnloadContext_frame _ s) rfl
  · exact fused_of (execConfigQp_frame _ s) rfl
  · exact fused_of (execConfigLink_frame _ s) rfl
  · exact fused_of (execQEnable_frame _ _ s) rfl
  · exact fused_of (execResume_frame _ s) rfl
  · exact fused_of (execReattach_frame _ s) rfl
  · exact fused_of (execRingReset_frame _ s) rfl
  · exact fused_of (execAttach_frame _ s) rfl
  · exact fused_of (execHeartbeat_frame _ s) rfl
  · exact fused_of (execDriverLost_frame s) rfl
  · exact fused_of (execBusMasterDisable_frame s) rfl
  · exact fused_of (execFlrPf0_frame s) rfl
  · exact fused_of (execFlrDrainEnd_frame s) rfl
  · exact fused_of (execFlrPf1_frame s) rfl
  · exact fused_of (execBar2Access_frame _ _ _ _ s) rfl
  · exact fused_of (execGetInfo_frame s) rfl
  · exact fused_of (execReadTelemetry_frame s) rfl
  · exact fused_of (execReadLog_frame s) rfl
  · exact fused_of (execSvcFlashRead_frame s) rfl
  · exact fused_of (execSvcFlashProgram_frame s) rfl
  · exact fused_of (execSvcFlashErase_frame s) rfl
  · exact fused_of (execSvcFlashUnlock_frame s) rfl
  · exact fused_of (execUpdateBegin_frame s) rfl
  · exact fused_of (execUpdateWrite_frame s) rfl
  · exact fused_of (execUpdateVerify_frame s) rfl
  · exact fused_of (execUpdateActivate_frame s) rfl
  · exact fused_of (execHandover_frame _ s) rfl
  · exact execUpdateCommit_fused s
  · exact execTrialEnd_fused s
  · exact fused_of (execSvcAttest_frame s) rfl
  · exact fused_of (execPowerRequest_frame s) rfl
  · exact fused_of (execHbmRequest_frame _ s) rfl
  · exact fused_of (execHbmReadComplete_frame _ _ _ s) rfl
  · exact fused_of (execRefresh_frame _ _ s) rfl
  · exact fused_of (execSelfRefreshEntry_frame _ s) rfl
  · exact fused_of (execSelfRefreshExit_frame _ s) rfl
  · exact fused_of (execCaParityAlert_frame _ _ _ s) rfl
  · exact fused_of (execHbmTraining_frame _ _ s) rfl
  · exact fused_of (execFlashRead_frame _ _ s) rfl
  · exact fused_of (execProgramPage_frame _ s) rfl
  · exact fused_of (execEraseSector_frame _ s) rfl
  · exact fused_of (execReadInfo_frame _ s) rfl
  · exact fused_of (execUnlock_frame _ s) rfl
  · exact fused_of (execLock_frame _ s) rfl
  · exact fused_of (execSetPassword_frame _ s) rfl
  · exact fused_of (execSetRegion_frame _ _ _ s) rfl
  · exact fused_of (execFlashAbort_frame _ s) rfl
  · exact fused_of (execFlashStepEnd_frame _ s) rfl
  · exact fused_of (execFlashScan_frame s) rfl
  · exact fused_of (execSupplyModeChange_frame s) rfl
  · exact fused_of (execFlEiDataRead_frame s) rfl
  · exact fused_of (execStreamPacket_frame _ s) rfl
  · exact fused_of (execCreditProbe_frame _ s) rfl
  · exact fused_of (execResetSequence_frame _ s) rfl
  · exact fused_of (execReassemblyTimeout_frame _ _ s) rfl
  · exact fused_of (execBatchDeadline_frame _ s) rfl
  · exact fused_of (execStreamBatchStart_frame _ _ s) rfl
  · exact fused_of (execPfcFrame_frame _ _ s) rfl
  · exact fused_of (execPfcPauseEnd_frame _ _ s) rfl
  · exact fused_of (execXoffRefresh_frame _ _ _ s) rfl
  · exact fused_of (execRocePacket_frame _ s) rfl
  · exact fused_of (execCnpReceive_frame _ s) rfl
  · exact fused_of (execRateIncrease_frame _ s) rfl
  · exact fused_of (execAckTimeout_frame _ s) rfl
  · exact fused_of (execLinkPageSend_frame _ s) rfl
  · exact fused_of (execLinkWriteAck_frame _ s) rfl
  · exact fused_of (execLinkCreditReturn_frame _ _ s) rfl
  · exact fused_of (execWakeFrame_frame _ _ _ s) rfl
  · exact fused_of (execModuleInsert_frame _ s) rfl
  · exact fused_of (execModuleReadyTimeout_frame _ s) rfl
  · exact fused_of (execModuleRemove_frame _ s) rfl
  · exact fused_of (execTxBiasSample_frame _ _ s) rfl
  · exact fused_of (execLifeRecordWrite_frame _ s) rfl
  · exact fused_of (execPortReset_frame _ s) rfl
  · exact fused_of (execLinkUp_frame _ s) rfl
  · exact fused_of (execMgFlashRead_frame s) rfl
  · exact fused_of (execMgFlashProgram_frame s) rfl
  · exact fused_of (execMgFlashErase_frame s) rfl
  · exact fused_of (execMgFlashReadInfo_frame s) rfl
  · exact fused_of (execMgFlashUnlock_frame s) rfl
  · exact fused_of (execMgFlashLock_frame s) rfl
  · exact fused_of (execLogRead_frame s) rfl
  · exact fused_of (execLogDump_frame s) rfl
  · exact fused_of (execMgContinue_frame s) rfl
  · exact fused_of (execMgAbort_frame s) rfl
  · exact fused_of (execFwInfo_frame s) rfl
  · exact fused_of (execCalicoWriteConfig_frame s) rfl
  · exact fused_of (execCalicoWriteEntry_frame s) rfl
  · exact fused_of (execCalicoRestart_frame s) rfl
  · exact fused_of (execCalicoStop_frame s) rfl
  · exact fused_of (execMgAttest_frame s) rfl
  · exact fused_of (execMailboxTimeout_frame s) rfl
  · exact fused_of (execMgSoftReset_frame s) rfl
  · exact fused_of (execMgBufDataAccess_frame _ _ s) rfl
  · exact fused_of (execMultibyteLatchRead_frame _ s) rfl
  · exact fused_of (execMgPwrReq_frame _ s) rfl
  · exact fused_of (execWindowRead_frame s) rfl
  · exact execWindowWrite_fused s
  · exact fused_of (execEntdaa_frame _ s) rfl
  · exact fused_of (execSetdasa_frame _ _ s) rfl
  · exact fused_of (execSetnewda_frame _ s) rfl
  · exact fused_of (execRstdaa_frame s) rfl
  · exact fused_of (execEnec_frame _ s) rfl
  · exact fused_of (execDisec_frame _ s) rfl
  · exact fused_of (execGetpid_frame s) rfl
  · exact fused_of (execGetbcr_frame s) rfl
  · exact fused_of (execGetdcr_frame s) rfl
  · exact fused_of (execGetstatus_frame s) rfl
  · exact fused_of (execGetmwl_frame s) rfl
  · exact fused_of (execGetmrl_frame s) rfl
  · exact fused_of (execMgAddressMatch_frame _ s) rfl
  · exact fused_of (execTelemetrySample_frame _ _ _ _ s) rfl
  · exact fused_of (execCalicoStart_frame s) rfl
  · exact fused_of (execUnboundReport_frame _ s) rfl
  · exact fused_of (execCalicoIdleUnbind_frame _ s) rfl
  · exact fused_of (execPwDvfsWrite_frame _ s) rfl
  · exact fused_of (execRailSettled_frame s) rfl
  · exact fused_of (execPowerSample_frame s) rfl
  · exact fused_of (execThermalStep_frame s) rfl
  · exact fused_of (execThermalAlarm_frame _ s) rfl
  · exact fused_of (execThermalTrip_frame s) rfl
  · exact fused_of (execColdReset_frame _ s) rfl
  · exact fused_of (execWarmReset_frame _ s) rfl
  · exact fused_of (execPllLock_frame s) rfl
  · exact execBoot_fused s
  · exact fused_of (execFwReady_frame s) rfl
  · exact fused_of (execCoreReset_frame _ s) rfl
  · exact fused_of (execVoileEntry_frame s) rfl
  · exact fused_of (execFeltEntry_frame s) rfl
  · exact fused_of (execAp2CoresQuiesced_frame s) rfl
  · exact fused_of (execAp3StateSaved_frame s) rfl
  · exact fused_of (execAp5GatesCommanded_frame s) rfl
  · exact fused_of (execWake_frame _ _ s) rfl
  · exact fused_of (execVoileExit_frame s) rfl
  · exact fused_of (execFeltExit_frame s) rfl
  · exact fused_of (execWakeTimer_frame s) rfl
  · exact fused_of (execFwWatchdogKick_frame s) rfl
  · exact fused_of (execFwWatchdogExpire_frame s) rfl
  · exact fused_of (execRailFault_frame s) rfl
  · exact execDecommission_fused _ s
  · exact fused_of (execDecommissionCancel_frame s) rfl
  · exact fused_of (execExtest_frame s) rfl
  · exact fused_of (execSamplePreload_frame s) rfl
  · exact fused_of (execIdcode_frame s) rfl
  · exact fused_of (execClamp_frame s) rfl
  · exact fused_of (execHighz_frame s) rfl
  · exact fused_of (execDbgStatus_frame s) rfl
  · exact fused_of (execDbgChallenge_frame _ _ s) rfl
  · exact fused_of (execDbgResponse_frame _ _ _ s) rfl
  · exact fused_of (execDbgClose_frame s) rfl
  · exact fused_of (execFwAccess_frame _ s) rfl
  · exact fused_of (execScan_frame s) rfl
  · exact fused_of (execBypass_frame s) rfl
  · exact fused_of (execCoreOutOfService_frame _ s) rfl
  · exact fused_of (execCoreCheck_frame _ _ s) rfl
  · exact execRegisterWrite_fused _ _ _ s
  · exact fused_of (execAp4HbmInSelfRefresh_frame s) rfl
  · exact fused_of (execModuleReady_frame _ _ _ _ _ _ _ _ s) rfl
  · exact fused_of (execLinkDown_frame _ s) rfl
  · exact fused_of (execReceivedFrame_frame _ _ _ _ s) rfl
  · exact fused_of (execUnlockCompletion_frame _ s) rfl
  · exact fused_of (execSelfRefreshExitComplete_frame _ s) rfl
  · exact fused_of (execHbmWriteDrain_frame _ _ _ s) rfl
  · exact fused_of (execRnrTimerExpiry_frame _ s) rfl
  · exact fused_of (execTapReset_frame s) rfl


theorem exec_next (i : Instr) (s : State) : ∃ t, exec i s = .next t := by
  cases i
  · simp only [exec]; first | exact ⟨_, rfl⟩ | (unfold execNop; (repeat' split) <;> exact ⟨_, rfl⟩)
  · simp only [exec]; first | exact ⟨_, rfl⟩ | (unfold execSeta; (repeat' split) <;> exact ⟨_, rfl⟩)
  · simp only [exec]; first | exact ⟨_, rfl⟩ | (unfold execSeti; (repeat' split) <;> exact ⟨_, rfl⟩)
  · simp only [exec]; first | exact ⟨_, rfl⟩ | (unfold execSetc; (repeat' split) <;> exact ⟨_, rfl⟩)
  · simp only [exec]; first | exact ⟨_, rfl⟩ | (unfold execSets; (repeat' split) <;> exact ⟨_, rfl⟩)
  · simp only [exec]; first | exact ⟨_, rfl⟩ | (unfold execAdda; (repeat' split) <;> exact ⟨_, rfl⟩)
  · simp only [exec]; first | exact ⟨_, rfl⟩ | (unfold execStepa; (repeat' split) <;> exact ⟨_, rfl⟩)
  · simp only [exec]; first | exact ⟨_, rfl⟩ | (unfold execAlu; (repeat' split) <;> exact ⟨_, rfl⟩)
  · simp only [exec]; first | exact ⟨_, rfl⟩ | (unfold execMovx; (repeat' split) <;> exact ⟨_, rfl⟩)
  · simp only [exec]; first | exact ⟨_, rfl⟩ | (unfold execLoop; (repeat' split) <;> exact ⟨_, rfl⟩)
  · simp only [exec]; first | exact ⟨_, rfl⟩ | (unfold execBrk; (repeat' split) <;> exact ⟨_, rfl⟩)
  · simp only [exec]; first | exact ⟨_, rfl⟩ | (unfold execCmp; (repeat' split) <;> exact ⟨_, rfl⟩)
  · simp only [exec]; first | exact ⟨_, rfl⟩ | (unfold execFlagOp; (repeat' split) <;> exact ⟨_, rfl⟩)
  · simp only [exec]; first | exact ⟨_, rfl⟩ | (unfold execSync; (repeat' split) <;> exact ⟨_, rfl⟩)
  · simp only [exec]; first | exact ⟨_, rfl⟩ | (unfold execSyncRelease; (repeat' split) <;> exact ⟨_, rfl⟩)
  · simp only [exec]; first | exact ⟨_, rfl⟩ | (unfold execSeqMacro; (repeat' split) <;> exact ⟨_, rfl⟩)
  · simp only [exec]; first | exact ⟨_, rfl⟩ | (unfold execSeqStart; (repeat' split) <;> exact ⟨_, rfl⟩)
  · simp only [exec]; first | exact ⟨_, rfl⟩ | (unfold execSeqComplete; (repeat' split) <;> exact ⟨_, rfl⟩)
  · simp only [exec]; first | exact ⟨_, rfl⟩ | (unfold execEndOp; (repeat' split) <;> exact ⟨_, rfl⟩)
  · simp only [exec]; first | exact ⟨_, rfl⟩ | (unfold execLaneEnd; (repeat' split) <;> exact ⟨_, rfl⟩)
  · simp only [exec]; first | exact ⟨_, rfl⟩ | (unfold execLateWordHoldEnd; (repeat' split) <;> exact ⟨_, rfl⟩)
  · simp only [exec]; first | exact ⟨_, rfl⟩ | (unfold execLoad; (repeat' split) <;> exact ⟨_, rfl⟩)
  · simp only [exec]; first | exact ⟨_, rfl⟩ | (unfold execTileLoadComplete; (repeat' split) <;> exact ⟨_, rfl⟩)
  · simp only [exec]; first | exact ⟨_, rfl⟩ | (unfold execRun; (repeat' split) <;> exact ⟨_, rfl⟩)
  · simp only [exec]; first | exact ⟨_, rfl⟩ | (unfold execPassOpen; (repeat' split) <;> exact ⟨_, rfl⟩)
  · simp only [exec]; first | exact ⟨_, rfl⟩ | (unfold execRowIssue; (repeat' split) <;> exact ⟨_, rfl⟩)
  · simp only [exec]; first | exact ⟨_, rfl⟩ | (unfold execRowCommit; (repeat' split) <;> exact ⟨_, rfl⟩)
  · simp only [exec]; first | exact ⟨_, rfl⟩ | (unfold execFma; (repeat' split) <;> exact ⟨_, rfl⟩)
  · simp only [exec]; first | exact ⟨_, rfl⟩ | (unfold execFunc; (repeat' split) <;> exact ⟨_, rfl⟩)
  · simp only [exec]; first | exact ⟨_, rfl⟩ | (unfold execReduce; (repeat' split) <;> exact ⟨_, rfl⟩)
  · simp only [exec]; first | exact ⟨_, rfl⟩ | (unfold execTfill; (repeat' split) <;> exact ⟨_, rfl⟩)
  · simp only [exec]; first | exact ⟨_, rfl⟩ | (unfold execTread; (repeat' split) <;> exact ⟨_, rfl⟩)
  · simp only [exec]; first | exact ⟨_, rfl⟩ | (unfold execPload; (repeat' split) <;> exact ⟨_, rfl⟩)
  · simp only [exec]; first | exact ⟨_, rfl⟩ | (unfold execDrain; (repeat' split) <;> exact ⟨_, rfl⟩)
  · simp only [exec]; first | exact ⟨_, rfl⟩ | (unfold execBind; (repeat' split) <;> exact ⟨_, rfl⟩)
  · simp only [exec]; first | exact ⟨_, rfl⟩ | (unfold execVectorResult; (repeat' split) <;> exact ⟨_, rfl⟩)
  · simp only [exec]; first | exact ⟨_, rfl⟩ | (unfold execDrainEntryOutput; (repeat' split) <;> exact ⟨_, rfl⟩)
  · simp only [exec]; first | exact ⟨_, rfl⟩ | (unfold execVxStatClose; (repeat' split) <;> exact ⟨_, rfl⟩)
  · simp only [exec]; first | exact ⟨_, rfl⟩ | (unfold execDma; (repeat' split) <;> exact ⟨_, rfl⟩)
  · simp only [exec]; first | exact ⟨_, rfl⟩ | (unfold execSend; (repeat' split) <;> exact ⟨_, rfl⟩)
  · simp only [exec]; first | exact ⟨_, rfl⟩ | (unfold execTag; (repeat' split) <;> exact ⟨_, rfl⟩)
  · simp only [exec]; first | exact ⟨_, rfl⟩ | (unfold execFlagWord; (repeat' split) <;> exact ⟨_, rfl⟩)
  · simp only [exec]; first | exact ⟨_, rfl⟩ | (unfold execFlagDelivery; (repeat' split) <;> exact ⟨_, rfl⟩)
  · simp only [exec]; first | exact ⟨_, rfl⟩ | (unfold execTokenDelivery; (repeat' split) <;> exact ⟨_, rfl⟩)
  · simp only [exec]; first | exact ⟨_, rfl⟩ | (unfold execTokenWaitEnd; (repeat' split) <;> exact ⟨_, rfl⟩)
  · simp only [exec]; first | exact ⟨_, rfl⟩ | (unfold execTransferComplete; (repeat' split) <;> exact ⟨_, rfl⟩)
  · simp only [exec]; first | exact ⟨_, rfl⟩ | (unfold execTransferFail; (repeat' split) <;> exact ⟨_, rfl⟩)
  · simp only [exec]; first | exact ⟨_, rfl⟩ | (unfold execUnscheduledAccess; (repeat' split) <;> exact ⟨_, rfl⟩)
  · simp only [exec]; first | exact ⟨_, rfl⟩ | (unfold execMeshInboundAccess; (repeat' split) <;> exact ⟨_, rfl⟩)
  · simp only [exec]; first | exact ⟨_, rfl⟩ | (unfold execTagWaitEnd; (repeat' split) <;> exact ⟨_, rfl⟩)
  · simp only [exec]; first | exact ⟨_, rfl⟩ | (unfold execEccHoldEnd; (repeat' split) <;> exact ⟨_, rfl⟩)
  · simp only [exec]; first | exact ⟨_, rfl⟩ | (unfold execCorrectionWriteBack; (repeat' split) <;> exact ⟨_, rfl⟩)
  · simp only [exec]; first | exact ⟨_, rfl⟩ | (unfold execStarvationBreaker; (repeat' split) <;> exact ⟨_, rfl⟩)
  · simp only [exec]; first | exact ⟨_, rfl⟩ | (unfold execScrubStep; (repeat' split) <;> exact ⟨_, rfl⟩)
  · simp only [exec]; first | exact ⟨_, rfl⟩ | (unfold execPageZero; (repeat' split) <;> exact ⟨_, rfl⟩)
  · simp only [exec]; first | exact ⟨_, rfl⟩ | (unfold execSpTagDataWrite; (repeat' split) <;> exact ⟨_, rfl⟩)
  · simp only [exec]; first | exact ⟨_, rfl⟩ | (unfold execSpTagDataRead; (repeat' split) <;> exact ⟨_, rfl⟩)
  · simp only [exec]; first | exact ⟨_, rfl⟩ | (unfold execHoldTimeout; (repeat' split) <;> exact ⟨_, rfl⟩)
  · simp only [exec]; first | exact ⟨_, rfl⟩ | (unfold execBatchStart; (repeat' split) <;> exact ⟨_, rfl⟩)
  · simp only [exec]; first | exact ⟨_, rfl⟩ | (unfold execLaneStart; (repeat' split) <;> exact ⟨_, rfl⟩)
  · simp only [exec]; first | exact ⟨_, rfl⟩ | (unfold execLaneFetch; (repeat' split) <;> exact ⟨_, rfl⟩)
  · simp only [exec]; first | exact ⟨_, rfl⟩ | (unfold execBatchFail; (repeat' split) <;> exact ⟨_, rfl⟩)
  · simp only [exec]; first | exact ⟨_, rfl⟩ | (unfold execBatchComplete; (repeat' split) <;> exact ⟨_, rfl⟩)
  · simp only [exec]; first | exact ⟨_, rfl⟩ | (unfold execCoreHalt; (repeat' split) <;> exact ⟨_, rfl⟩)
  · simp only [exec]; first | exact ⟨_, rfl⟩ | (unfold execDbgEnd; (repeat' split) <;> exact ⟨_, rfl⟩)
  · simp only [exec]; first | exact ⟨_, rfl⟩ | (unfold execDbgSel; (repeat' split) <;> exact ⟨_, rfl⟩)
  · simp only [exec]; first | exact ⟨_, rfl⟩ | (unfold execDbgFetchDone; (repeat' split) <;> exact ⟨_, rfl⟩)
  · simp only [exec]; first | exact ⟨_, rfl⟩ | (unfold execDbgOpenOpen; (repeat' split) <;> exact ⟨_, rfl⟩)
  · simp only [exec]; first | exact ⟨_, rfl⟩ | (unfold execDbgOpenClose; (repeat' split) <;> exact ⟨_, rfl⟩)
  · simp only [exec]; first | exact ⟨_, rfl⟩ | (unfold execSqDoorbell; (repeat' split) <;> exact ⟨_, rfl⟩)
  · simp only [exec]; first | exact ⟨_, rfl⟩ | (unfold execCqHeadWrite; (repeat' split) <;> exact ⟨_, rfl⟩)
  · simp only [exec]; first | exact ⟨_, rfl⟩ | (unfold execEntryBegin; (repeat' split) <;> exact ⟨_, rfl⟩)
  · simp only [exec]; first | exact ⟨_, rfl⟩ | (unfold execCompletionWrite; (repeat' split) <;> exact ⟨_, rfl⟩)
  · simp only [exec]; first | exact ⟨_, rfl⟩ | (unfold execMsixSignal; (repeat' split) <;> exact ⟨_, rfl⟩)
  · simp only [exec]; first | exact ⟨_, rfl⟩ | (unfold execCoalesceExpire; (repeat' split) <;> exact ⟨_, rfl⟩)
  · simp only [exec]; first | exact ⟨_, rfl⟩ | (unfold execNopEntry; (repeat' split) <;> exact ⟨_, rfl⟩)
  · simp only [exec]; first | exact ⟨_, rfl⟩ | (unfold execLoadProgram; (repeat' split) <;> exact ⟨_, rfl⟩)
  · simp only [exec]; first | exact ⟨_, rfl⟩ | (unfold execProgramInstall; (repeat' split) <;> exact ⟨_, rfl⟩)
  · simp only [exec]; first | exact ⟨_, rfl⟩ | (unfold execLoadWeights; (repeat' split) <;> exact ⟨_, rfl⟩)
  · simp only [exec]; first | exact ⟨_, rfl⟩ | (unfold execWeightLoadComplete; (repeat' split) <;> exact ⟨_, rfl⟩)
  · simp only [exec]; first | exact ⟨_, rfl⟩ | (unfold execSwitchWeights; (repeat' split) <;> exact ⟨_, rfl⟩)
  · simp only [exec]; first | exact ⟨_, rfl⟩ | (unfold execEvict; (repeat' split) <;> exact ⟨_, rfl⟩)
  · simp only [exec]; first | exact ⟨_, rfl⟩ | (unfold execMakeResident; (repeat' split) <;> exact ⟨_, rfl⟩)
  · simp only [exec]; first | exact ⟨_, rfl⟩ | (unfold execSlotRetire; (repeat' split) <;> exact ⟨_, rfl⟩)
  · simp only [exec]; first | exact ⟨_, rfl⟩ | (unfold execUseWindowEnd; (repeat' split) <;> exact ⟨_, rfl⟩)
  · simp only [exec]; first | exact ⟨_, rfl⟩ | (unfold execRefetch; (repeat' split) <;> exact ⟨_, rfl⟩)
  · simp only [exec]; first | exact ⟨_, rfl⟩ | (unfold execPinnedReload; (repeat' split) <;> exact ⟨_, rfl⟩)
  · simp only [exec]; first | exact ⟨_, rfl⟩ | (unfold execRelayMessage; (repeat' split) <;> exact ⟨_, rfl⟩)
  · simp only [exec]; first | exact ⟨_, rfl⟩ | (unfold execRelayTimeout; (repeat' split) <;> exact ⟨_, rfl⟩)
  · simp only [exec]; first | exact ⟨_, rfl⟩ | (unfold execBindStream; (repeat' split) <;> exact ⟨_, rfl⟩)
  · simp only [exec]; first | exact ⟨_, rfl⟩ | (unfold execSetFlag; (repeat' split) <;> exact ⟨_, rfl⟩)
  · simp only [exec]; first | exact ⟨_, rfl⟩ | (unfold execWaitFlag; (repeat' split) <;> exact ⟨_, rfl⟩)
  · simp only [exec]; first | exact ⟨_, rfl⟩ | (unfold execWaitFlagSatisfied; (repeat' split) <;> exact ⟨_, rfl⟩)
  · simp only [exec]; first | exact ⟨_, rfl⟩ | (unfold execWaitCycleScan; (repeat' split) <;> exact ⟨_, rfl⟩)
  · simp only [exec]; first | exact ⟨_, rfl⟩ | (unfold execWaitTimeout; (repeat' split) <;> exact ⟨_, rfl⟩)
  · simp only [exec]; first | exact ⟨_, rfl⟩ | (unfold execRunBatch; (repeat' split) <;> exact ⟨_, rfl⟩)
  · simp only [exec]; first | exact ⟨_, rfl⟩ | (unfold execHostBatchStart; (repeat' split) <;> exact ⟨_, rfl⟩)
  · simp only [exec]; first | exact ⟨_, rfl⟩ | (unfold execConfigContext; (repeat' split) <;> exact ⟨_, rfl⟩)
  · simp only [exec]; first | exact ⟨_, rfl⟩ | (unfold execUnloadContext; (repeat' split) <;> exact ⟨_, rfl⟩)
  · simp only [exec]; first | exact ⟨_, rfl⟩ | (unfold execConfigQp; (repeat' split) <;> exact ⟨_, rfl⟩)
  · simp only [exec]; first | exact ⟨_, rfl⟩ | (unfold execConfigLink; (repeat' split) <;> exact ⟨_, rfl⟩)
  · simp only [exec]; first | exact ⟨_, rfl⟩ | (unfold execQEnable; (repeat' split) <;> exact ⟨_, rfl⟩)
  · simp only [exec]; first | exact ⟨_, rfl⟩ | (unfold execResume; (repeat' split) <;> exact ⟨_, rfl⟩)
  · simp only [exec]; first | exact ⟨_, rfl⟩ | (unfold execReattach; (repeat' split) <;> exact ⟨_, rfl⟩)
  · simp only [exec]; first | exact ⟨_, rfl⟩ | (unfold execRingReset; (repeat' split) <;> exact ⟨_, rfl⟩)
  · simp only [exec]; first | exact ⟨_, rfl⟩ | (unfold execAttach; (repeat' split) <;> exact ⟨_, rfl⟩)
  · simp only [exec]; first | exact ⟨_, rfl⟩ | (unfold execHeartbeat; (repeat' split) <;> exact ⟨_, rfl⟩)
  · simp only [exec]; first | exact ⟨_, rfl⟩ | (unfold execDriverLost; (repeat' split) <;> exact ⟨_, rfl⟩)
  · simp only [exec]; first | exact ⟨_, rfl⟩ | (unfold execBusMasterDisable; (repeat' split) <;> exact ⟨_, rfl⟩)
  · simp only [exec]; first | exact ⟨_, rfl⟩ | (unfold execFlrPf0; (repeat' split) <;> exact ⟨_, rfl⟩)
  · simp only [exec]; first | exact ⟨_, rfl⟩ | (unfold execFlrDrainEnd; (repeat' split) <;> exact ⟨_, rfl⟩)
  · simp only [exec]; first | exact ⟨_, rfl⟩ | (unfold execFlrPf1; (repeat' split) <;> exact ⟨_, rfl⟩)
  · simp only [exec]; first | exact ⟨_, rfl⟩ | (unfold execBar2Access; (repeat' split) <;> exact ⟨_, rfl⟩)
  · simp only [exec]; first | exact ⟨_, rfl⟩ | (unfold execGetInfo; (repeat' split) <;> exact ⟨_, rfl⟩)
  · simp only [exec]; first | exact ⟨_, rfl⟩ | (unfold execReadTelemetry; (repeat' split) <;> exact ⟨_, rfl⟩)
  · simp only [exec]; first | exact ⟨_, rfl⟩ | (unfold execReadLog; (repeat' split) <;> exact ⟨_, rfl⟩)
  · simp only [exec]; first | exact ⟨_, rfl⟩ | (unfold execSvcFlashRead; (repeat' split) <;> exact ⟨_, rfl⟩)
  · simp only [exec]; first | exact ⟨_, rfl⟩ | (unfold execSvcFlashProgram; (repeat' split) <;> exact ⟨_, rfl⟩)
  · simp only [exec]; first | exact ⟨_, rfl⟩ | (unfold execSvcFlashErase; (repeat' split) <;> exact ⟨_, rfl⟩)
  · simp only [exec]; first | exact ⟨_, rfl⟩ | (unfold execSvcFlashUnlock; (repeat' split) <;> exact ⟨_, rfl⟩)
  · simp only [exec]; first | exact ⟨_, rfl⟩ | (unfold execUpdateBegin; (repeat' split) <;> exact ⟨_, rfl⟩)
  · simp only [exec]; first | exact ⟨_, rfl⟩ | (unfold execUpdateWrite; (repeat' split) <;> exact ⟨_, rfl⟩)
  · simp only [exec]; first | exact ⟨_, rfl⟩ | (unfold execUpdateVerify; (repeat' split) <;> exact ⟨_, rfl⟩)
  · simp only [exec]; first | exact ⟨_, rfl⟩ | (unfold execUpdateActivate; (repeat' split) <;> exact ⟨_, rfl⟩)
  · simp only [exec]; first | exact ⟨_, rfl⟩ | (unfold execHandover; (repeat' split) <;> exact ⟨_, rfl⟩)
  · simp only [exec]; first | exact ⟨_, rfl⟩ | (unfold execUpdateCommit; (repeat' split) <;> exact ⟨_, rfl⟩)
  · simp only [exec]; first | exact ⟨_, rfl⟩ | (unfold execTrialEnd; (repeat' split) <;> exact ⟨_, rfl⟩)
  · simp only [exec]; first | exact ⟨_, rfl⟩ | (unfold execSvcAttest; (repeat' split) <;> exact ⟨_, rfl⟩)
  · simp only [exec]; first | exact ⟨_, rfl⟩ | (unfold execPowerRequest; (repeat' split) <;> exact ⟨_, rfl⟩)
  · simp only [exec]; first | exact ⟨_, rfl⟩ | (unfold execHbmRequest; (repeat' split) <;> exact ⟨_, rfl⟩)
  · simp only [exec]; first | exact ⟨_, rfl⟩ | (unfold execHbmReadComplete; (repeat' split) <;> exact ⟨_, rfl⟩)
  · simp only [exec]; first | exact ⟨_, rfl⟩ | (unfold execRefresh; (repeat' split) <;> exact ⟨_, rfl⟩)
  · simp only [exec]; first | exact ⟨_, rfl⟩ | (unfold execSelfRefreshEntry; (repeat' split) <;> exact ⟨_, rfl⟩)
  · simp only [exec]; first | exact ⟨_, rfl⟩ | (unfold execSelfRefreshExit; (repeat' split) <;> exact ⟨_, rfl⟩)
  · simp only [exec]; first | exact ⟨_, rfl⟩ | (unfold execCaParityAlert; (repeat' split) <;> exact ⟨_, rfl⟩)
  · simp only [exec]; first | exact ⟨_, rfl⟩ | (unfold execHbmTraining; (repeat' split) <;> exact ⟨_, rfl⟩)
  · simp only [exec]; first | exact ⟨_, rfl⟩ | (unfold execFlashRead; (repeat' split) <;> exact ⟨_, rfl⟩)
  · simp only [exec]; first | exact ⟨_, rfl⟩ | (unfold execProgramPage; (repeat' split) <;> exact ⟨_, rfl⟩)
  · simp only [exec]; first | exact ⟨_, rfl⟩ | (unfold execEraseSector; (repeat' split) <;> exact ⟨_, rfl⟩)
  · simp only [exec]; first | exact ⟨_, rfl⟩ | (unfold execReadInfo; (repeat' split) <;> exact ⟨_, rfl⟩)
  · simp only [exec]; first | exact ⟨_, rfl⟩ | (unfold execUnlock; (repeat' split) <;> exact ⟨_, rfl⟩)
  · simp only [exec]; first | exact ⟨_, rfl⟩ | (unfold execLock; (repeat' split) <;> exact ⟨_, rfl⟩)
  · simp only [exec]; first | exact ⟨_, rfl⟩ | (unfold execSetPassword; (repeat' split) <;> exact ⟨_, rfl⟩)
  · simp only [exec]; first | exact ⟨_, rfl⟩ | (unfold execSetRegion; (repeat' split) <;> exact ⟨_, rfl⟩)
  · simp only [exec]; first | exact ⟨_, rfl⟩ | (unfold execFlashAbort; (repeat' split) <;> exact ⟨_, rfl⟩)
  · simp only [exec]; first | exact ⟨_, rfl⟩ | (unfold execFlashStepEnd; (repeat' split) <;> exact ⟨_, rfl⟩)
  · simp only [exec]; first | exact ⟨_, rfl⟩ | (unfold execFlashScan; (repeat' split) <;> exact ⟨_, rfl⟩)
  · simp only [exec]; first | exact ⟨_, rfl⟩ | (unfold execSupplyModeChange; (repeat' split) <;> exact ⟨_, rfl⟩)
  · simp only [exec]; first | exact ⟨_, rfl⟩ | (unfold execFlEiDataRead; (repeat' split) <;> exact ⟨_, rfl⟩)
  · simp only [exec]; first | exact ⟨_, rfl⟩ | (unfold execStreamPacket; (repeat' split) <;> exact ⟨_, rfl⟩)
  · simp only [exec]; first | exact ⟨_, rfl⟩ | (unfold execCreditProbe; (repeat' split) <;> exact ⟨_, rfl⟩)
  · simp only [exec]; first | exact ⟨_, rfl⟩ | (unfold execResetSequence; (repeat' split) <;> exact ⟨_, rfl⟩)
  · simp only [exec]; first | exact ⟨_, rfl⟩ | (unfold execReassemblyTimeout; (repeat' split) <;> exact ⟨_, rfl⟩)
  · simp only [exec]; first | exact ⟨_, rfl⟩ | (unfold execBatchDeadline; (repeat' split) <;> exact ⟨_, rfl⟩)
  · simp only [exec]; first | exact ⟨_, rfl⟩ | (unfold execStreamBatchStart; (repeat' split) <;> exact ⟨_, rfl⟩)
  · simp only [exec]; first | exact ⟨_, rfl⟩ | (unfold execPfcFrame; (repeat' split) <;> exact ⟨_, rfl⟩)
  · simp only [exec]; first | exact ⟨_, rfl⟩ | (unfold execPfcPauseEnd; (repeat' split) <;> exact ⟨_, rfl⟩)
  · simp only [exec]; first | exact ⟨_, rfl⟩ | (unfold execXoffRefresh; (repeat' split) <;> exact ⟨_, rfl⟩)
  · simp only [exec]; first | exact ⟨_, rfl⟩ | (unfold execRocePacket; (repeat' split) <;> exact ⟨_, rfl⟩)
  · simp only [exec]; first | exact ⟨_, rfl⟩ | (unfold execCnpReceive; (repeat' split) <;> exact ⟨_, rfl⟩)
  · simp only [exec]; first | exact ⟨_, rfl⟩ | (unfold execRateIncrease; (repeat' split) <;> exact ⟨_, rfl⟩)
  · simp only [exec]; first | exact ⟨_, rfl⟩ | (unfold execAckTimeout; (repeat' split) <;> exact ⟨_, rfl⟩)
  · simp only [exec]; first | exact ⟨_, rfl⟩ | (unfold execLinkPageSend; (repeat' split) <;> exact ⟨_, rfl⟩)
  · simp only [exec]; first | exact ⟨_, rfl⟩ | (unfold execLinkWriteAck; (repeat' split) <;> exact ⟨_, rfl⟩)
  · simp only [exec]; first | exact ⟨_, rfl⟩ | (unfold execLinkCreditReturn; (repeat' split) <;> exact ⟨_, rfl⟩)
  · simp only [exec]; first | exact ⟨_, rfl⟩ | (unfold execWakeFrame; (repeat' split) <;> exact ⟨_, rfl⟩)
  · simp only [exec]; first | exact ⟨_, rfl⟩ | (unfold execModuleInsert; (repeat' split) <;> exact ⟨_, rfl⟩)
  · simp only [exec]; first | exact ⟨_, rfl⟩ | (unfold execModuleReadyTimeout; (repeat' split) <;> exact ⟨_, rfl⟩)
  · simp only [exec]; first | exact ⟨_, rfl⟩ | (unfold execModuleRemove; (repeat' split) <;> exact ⟨_, rfl⟩)
  · simp only [exec]; first | exact ⟨_, rfl⟩ | (unfold execTxBiasSample; (repeat' split) <;> exact ⟨_, rfl⟩)
  · simp only [exec]; first | exact ⟨_, rfl⟩ | (unfold execLifeRecordWrite; (repeat' split) <;> exact ⟨_, rfl⟩)
  · simp only [exec]; first | exact ⟨_, rfl⟩ | (unfold execPortReset; (repeat' split) <;> exact ⟨_, rfl⟩)
  · simp only [exec]; first | exact ⟨_, rfl⟩ | (unfold execLinkUp; (repeat' split) <;> exact ⟨_, rfl⟩)
  · simp only [exec]; first | exact ⟨_, rfl⟩ | (unfold execMgFlashRead; (repeat' split) <;> exact ⟨_, rfl⟩)
  · simp only [exec]; first | exact ⟨_, rfl⟩ | (unfold execMgFlashProgram; (repeat' split) <;> exact ⟨_, rfl⟩)
  · simp only [exec]; first | exact ⟨_, rfl⟩ | (unfold execMgFlashErase; (repeat' split) <;> exact ⟨_, rfl⟩)
  · simp only [exec]; first | exact ⟨_, rfl⟩ | (unfold execMgFlashReadInfo; (repeat' split) <;> exact ⟨_, rfl⟩)
  · simp only [exec]; first | exact ⟨_, rfl⟩ | (unfold execMgFlashUnlock; (repeat' split) <;> exact ⟨_, rfl⟩)
  · simp only [exec]; first | exact ⟨_, rfl⟩ | (unfold execMgFlashLock; (repeat' split) <;> exact ⟨_, rfl⟩)
  · simp only [exec]; first | exact ⟨_, rfl⟩ | (unfold execLogRead; (repeat' split) <;> exact ⟨_, rfl⟩)
  · simp only [exec]; first | exact ⟨_, rfl⟩ | (unfold execLogDump; (repeat' split) <;> exact ⟨_, rfl⟩)
  · simp only [exec]; first | exact ⟨_, rfl⟩ | (unfold execMgContinue; (repeat' split) <;> exact ⟨_, rfl⟩)
  · simp only [exec]; first | exact ⟨_, rfl⟩ | (unfold execMgAbort; (repeat' split) <;> exact ⟨_, rfl⟩)
  · simp only [exec]; first | exact ⟨_, rfl⟩ | (unfold execFwInfo; (repeat' split) <;> exact ⟨_, rfl⟩)
  · simp only [exec]; first | exact ⟨_, rfl⟩ | (unfold execCalicoWriteConfig; (repeat' split) <;> exact ⟨_, rfl⟩)
  · simp only [exec]; first | exact ⟨_, rfl⟩ | (unfold execCalicoWriteEntry; (repeat' split) <;> exact ⟨_, rfl⟩)
  · simp only [exec]; first | exact ⟨_, rfl⟩ | (unfold execCalicoRestart; (repeat' split) <;> exact ⟨_, rfl⟩)
  · simp only [exec]; first | exact ⟨_, rfl⟩ | (unfold execCalicoStop; (repeat' split) <;> exact ⟨_, rfl⟩)
  · simp only [exec]; first | exact ⟨_, rfl⟩ | (unfold execMgAttest; (repeat' split) <;> exact ⟨_, rfl⟩)
  · simp only [exec]; first | exact ⟨_, rfl⟩ | (unfold execMailboxTimeout; (repeat' split) <;> exact ⟨_, rfl⟩)
  · simp only [exec]; first | exact ⟨_, rfl⟩ | (unfold execMgSoftReset; (repeat' split) <;> exact ⟨_, rfl⟩)
  · simp only [exec]; first | exact ⟨_, rfl⟩ | (unfold execMgBufDataAccess; (repeat' split) <;> exact ⟨_, rfl⟩)
  · simp only [exec]; first | exact ⟨_, rfl⟩ | (unfold execMultibyteLatchRead; (repeat' split) <;> exact ⟨_, rfl⟩)
  · simp only [exec]; first | exact ⟨_, rfl⟩ | (unfold execMgPwrReq; (repeat' split) <;> exact ⟨_, rfl⟩)
  · simp only [exec]; first | exact ⟨_, rfl⟩ | (unfold execWindowRead; (repeat' split) <;> exact ⟨_, rfl⟩)
  · simp only [exec]; first | exact ⟨_, rfl⟩ | (unfold execWindowWrite; (repeat' split) <;> exact ⟨_, rfl⟩)
  · simp only [exec]; first | exact ⟨_, rfl⟩ | (unfold execEntdaa; (repeat' split) <;> exact ⟨_, rfl⟩)
  · simp only [exec]; first | exact ⟨_, rfl⟩ | (unfold execSetdasa; (repeat' split) <;> exact ⟨_, rfl⟩)
  · simp only [exec]; first | exact ⟨_, rfl⟩ | (unfold execSetnewda; (repeat' split) <;> exact ⟨_, rfl⟩)
  · simp only [exec]; first | exact ⟨_, rfl⟩ | (unfold execRstdaa; (repeat' split) <;> exact ⟨_, rfl⟩)
  · simp only [exec]; first | exact ⟨_, rfl⟩ | (unfold execEnec; (repeat' split) <;> exact ⟨_, rfl⟩)
  · simp only [exec]; first | exact ⟨_, rfl⟩ | (unfold execDisec; (repeat' split) <;> exact ⟨_, rfl⟩)
  · simp only [exec]; first | exact ⟨_, rfl⟩ | (unfold execGetpid; (repeat' split) <;> exact ⟨_, rfl⟩)
  · simp only [exec]; first | exact ⟨_, rfl⟩ | (unfold execGetbcr; (repeat' split) <;> exact ⟨_, rfl⟩)
  · simp only [exec]; first | exact ⟨_, rfl⟩ | (unfold execGetdcr; (repeat' split) <;> exact ⟨_, rfl⟩)
  · simp only [exec]; first | exact ⟨_, rfl⟩ | (unfold execGetstatus; (repeat' split) <;> exact ⟨_, rfl⟩)
  · simp only [exec]; first | exact ⟨_, rfl⟩ | (unfold execGetmwl; (repeat' split) <;> exact ⟨_, rfl⟩)
  · simp only [exec]; first | exact ⟨_, rfl⟩ | (unfold execGetmrl; (repeat' split) <;> exact ⟨_, rfl⟩)
  · simp only [exec]; first | exact ⟨_, rfl⟩ | (unfold execMgAddressMatch; (repeat' split) <;> exact ⟨_, rfl⟩)
  · simp only [exec]; first | exact ⟨_, rfl⟩ | (unfold execTelemetrySample; (repeat' split) <;> exact ⟨_, rfl⟩)
  · simp only [exec]; first | exact ⟨_, rfl⟩ | (unfold execCalicoStart; (repeat' split) <;> exact ⟨_, rfl⟩)
  · simp only [exec]; first | exact ⟨_, rfl⟩ | (unfold execUnboundReport; (repeat' split) <;> exact ⟨_, rfl⟩)
  · simp only [exec]; first | exact ⟨_, rfl⟩ | (unfold execCalicoIdleUnbind; (repeat' split) <;> exact ⟨_, rfl⟩)
  · simp only [exec]; first | exact ⟨_, rfl⟩ | (unfold execPwDvfsWrite; (repeat' split) <;> exact ⟨_, rfl⟩)
  · simp only [exec]; first | exact ⟨_, rfl⟩ | (unfold execRailSettled; (repeat' split) <;> exact ⟨_, rfl⟩)
  · simp only [exec]; first | exact ⟨_, rfl⟩ | (unfold execPowerSample; (repeat' split) <;> exact ⟨_, rfl⟩)
  · simp only [exec]; first | exact ⟨_, rfl⟩ | (unfold execThermalStep; (repeat' split) <;> exact ⟨_, rfl⟩)
  · simp only [exec]; first | exact ⟨_, rfl⟩ | (unfold execThermalAlarm; (repeat' split) <;> exact ⟨_, rfl⟩)
  · simp only [exec]; first | exact ⟨_, rfl⟩ | (unfold execThermalTrip; (repeat' split) <;> exact ⟨_, rfl⟩)
  · simp only [exec]; first | exact ⟨_, rfl⟩ | (unfold execColdReset; (repeat' split) <;> exact ⟨_, rfl⟩)
  · simp only [exec]; first | exact ⟨_, rfl⟩ | (unfold execWarmReset; (repeat' split) <;> exact ⟨_, rfl⟩)
  · simp only [exec]; first | exact ⟨_, rfl⟩ | (unfold execPllLock; (repeat' split) <;> exact ⟨_, rfl⟩)
  · simp only [exec]; first | exact ⟨_, rfl⟩ | (unfold execBoot; (repeat' split) <;> exact ⟨_, rfl⟩)
  · simp only [exec]; first | exact ⟨_, rfl⟩ | (unfold execFwReady; (repeat' split) <;> exact ⟨_, rfl⟩)
  · simp only [exec]; first | exact ⟨_, rfl⟩ | (unfold execCoreReset; (repeat' split) <;> exact ⟨_, rfl⟩)
  · simp only [exec]; first | exact ⟨_, rfl⟩ | (unfold execVoileEntry; (repeat' split) <;> exact ⟨_, rfl⟩)
  · simp only [exec]; first | exact ⟨_, rfl⟩ | (unfold execFeltEntry; (repeat' split) <;> exact ⟨_, rfl⟩)
  · simp only [exec]; first | exact ⟨_, rfl⟩ | (unfold execAp2CoresQuiesced; (repeat' split) <;> exact ⟨_, rfl⟩)
  · simp only [exec]; first | exact ⟨_, rfl⟩ | (unfold execAp3StateSaved; (repeat' split) <;> exact ⟨_, rfl⟩)
  · simp only [exec]; first | exact ⟨_, rfl⟩ | (unfold execAp5GatesCommanded; (repeat' split) <;> exact ⟨_, rfl⟩)
  · simp only [exec]; first | exact ⟨_, rfl⟩ | (unfold execWake; (repeat' split) <;> exact ⟨_, rfl⟩)
  · simp only [exec]; first | exact ⟨_, rfl⟩ | (unfold execVoileExit; (repeat' split) <;> exact ⟨_, rfl⟩)
  · simp only [exec]; first | exact ⟨_, rfl⟩ | (unfold execFeltExit; (repeat' split) <;> exact ⟨_, rfl⟩)
  · simp only [exec]; first | exact ⟨_, rfl⟩ | (unfold execWakeTimer; (repeat' split) <;> exact ⟨_, rfl⟩)
  · simp only [exec]; first | exact ⟨_, rfl⟩ | (unfold execFwWatchdogKick; (repeat' split) <;> exact ⟨_, rfl⟩)
  · simp only [exec]; first | exact ⟨_, rfl⟩ | (unfold execFwWatchdogExpire; (repeat' split) <;> exact ⟨_, rfl⟩)
  · simp only [exec]; first | exact ⟨_, rfl⟩ | (unfold execRailFault; (repeat' split) <;> exact ⟨_, rfl⟩)
  · simp only [exec]; first | exact ⟨_, rfl⟩ | (unfold execDecommission; (repeat' split) <;> exact ⟨_, rfl⟩)
  · simp only [exec]; first | exact ⟨_, rfl⟩ | (unfold execDecommissionCancel; (repeat' split) <;> exact ⟨_, rfl⟩)
  · simp only [exec]; first | exact ⟨_, rfl⟩ | (unfold execExtest; (repeat' split) <;> exact ⟨_, rfl⟩)
  · simp only [exec]; first | exact ⟨_, rfl⟩ | (unfold execSamplePreload; (repeat' split) <;> exact ⟨_, rfl⟩)
  · simp only [exec]; first | exact ⟨_, rfl⟩ | (unfold execIdcode; (repeat' split) <;> exact ⟨_, rfl⟩)
  · simp only [exec]; first | exact ⟨_, rfl⟩ | (unfold execClamp; (repeat' split) <;> exact ⟨_, rfl⟩)
  · simp only [exec]; first | exact ⟨_, rfl⟩ | (unfold execHighz; (repeat' split) <;> exact ⟨_, rfl⟩)
  · simp only [exec]; first | exact ⟨_, rfl⟩ | (unfold execDbgStatus; (repeat' split) <;> exact ⟨_, rfl⟩)
  · simp only [exec]; first | exact ⟨_, rfl⟩ | (unfold execDbgChallenge; (repeat' split) <;> exact ⟨_, rfl⟩)
  · simp only [exec]; first | exact ⟨_, rfl⟩ | (unfold execDbgResponse; (repeat' split) <;> exact ⟨_, rfl⟩)
  · simp only [exec]; first | exact ⟨_, rfl⟩ | (unfold execDbgClose; (repeat' split) <;> exact ⟨_, rfl⟩)
  · simp only [exec]; first | exact ⟨_, rfl⟩ | (unfold execFwAccess; (repeat' split) <;> exact ⟨_, rfl⟩)
  · simp only [exec]; first | exact ⟨_, rfl⟩ | (unfold execScan; (repeat' split) <;> exact ⟨_, rfl⟩)
  · simp only [exec]; first | exact ⟨_, rfl⟩ | (unfold execBypass; (repeat' split) <;> exact ⟨_, rfl⟩)
  · simp only [exec]; first | exact ⟨_, rfl⟩ | (unfold execCoreOutOfService; (repeat' split) <;> exact ⟨_, rfl⟩)
  · simp only [exec]; first | exact ⟨_, rfl⟩ | (unfold execCoreCheck; (repeat' split) <;> exact ⟨_, rfl⟩)
  · simp only [exec]; first | exact ⟨_, rfl⟩ | (unfold execRegisterWrite; (repeat' split) <;> exact ⟨_, rfl⟩)
  · simp only [exec]; first | exact ⟨_, rfl⟩ | (unfold execAp4HbmInSelfRefresh; (repeat' split) <;> exact ⟨_, rfl⟩)
  · simp only [exec]; first | exact ⟨_, rfl⟩ | (unfold execModuleReady; (repeat' split) <;> exact ⟨_, rfl⟩)
  · simp only [exec]; first | exact ⟨_, rfl⟩ | (unfold execLinkDown; (repeat' split) <;> exact ⟨_, rfl⟩)
  · simp only [exec]; first | exact ⟨_, rfl⟩ | (unfold execReceivedFrame; (repeat' split) <;> exact ⟨_, rfl⟩)
  · simp only [exec]; first | exact ⟨_, rfl⟩ | (unfold execUnlockCompletion; (repeat' split) <;> exact ⟨_, rfl⟩)
  · simp only [exec]; first | exact ⟨_, rfl⟩ | (unfold execSelfRefreshExitComplete; (repeat' split) <;> exact ⟨_, rfl⟩)
  · simp only [exec]; first | exact ⟨_, rfl⟩ | (unfold execHbmWriteDrain; (repeat' split) <;> exact ⟨_, rfl⟩)
  · simp only [exec]; first | exact ⟨_, rfl⟩ | (unfold execRnrTimerExpiry; (repeat' split) <;> exact ⟨_, rfl⟩)
  · simp only [exec]; first | exact ⟨_, rfl⟩ | (unfold execTapReset; (repeat' split) <;> exact ⟨_, rfl⟩)

/-- Every step answers a next state. -/
theorem step_next (s : State) : ∃ t, step s = .next t := by
  unfold step
  split
  · exact ⟨_, rfl⟩
  · exact exec_next _ _

/-- What a step that takes a command, or lets a microsecond pass, keeps. -/
theorem step_sized {s t : State} (h : step s = .next t) :
    t.pending = s.pending.tail ∧ t.cores.length = s.cores.length ∧ t.host.rings.length = s.host.rings.length ∧
      t.host.ctxs.length = s.host.ctxs.length ∧ t.host.flags.length = s.host.flags.length ∧
      t.net.ports.length = s.net.ports.length ∧ t.net.cages.length = s.net.cages.length := by
  unfold step at h
  split at h
  · rename_i e
    cases h
    have k := tick_frame s
    simp_all [Kept]
  · rename_i c rest e
    have k := exec_sized c { s with pending := rest }
    rw [h] at k
    simpa [nextOf, e] using k

/-- The one-way state over a step. -/
theorem step_fused {s t : State} (h : step s = .next t) : Fused t s := by
  unfold step at h
  split at h
  · cases h
    exact (tick_frame s).fused
  · rename_i c rest e
    have k := exec_fused c { s with pending := rest }
    rw [h] at k
    exact k

end Sys2Proof.Machine
end

