-- ==== Sys2Proof/Laws/Memory.lean ====
section
/-!
SUPPORT. The laws of the sparse memories: every operation keeps the canonical form, a read after a write to the same place
gives the byte written, and a write leaves every other place alone.
-/

namespace Sys2Proof.Machine

set_option linter.all false

/-- Sorted, as a property of pairs. -/
theorem memSorted_iff (m : Mem) : memSorted m = true ↔ m.Pairwise (fun p q => p.1 < q.1) := by
  induction m with
  | nil => simp [memSorted]
  | cons p m ih =>
    cases m with
    | nil => simp [memSorted]
    | cons q m =>
      rw [memSorted, Bool.and_eq_true, decide_eq_true_eq, ih, List.pairwise_cons (a := p)]
      constructor
      · rintro ⟨h, k⟩
        refine ⟨fun r hr => ?_, k⟩
        rcases List.mem_cons.mp hr with rfl | hr
        · exact h
        · exact Nat.lt_trans h ((List.pairwise_cons.mp k).1 r hr)
      · rintro ⟨h, k⟩
        exact ⟨h q (List.mem_cons_self ..), k⟩

theorem memWf_iff (d : Nat → Option Byte) (m : Mem) :
    memWf d m = true ↔ m.Pairwise (fun p q => p.1 < q.1) ∧ ∀ p ∈ m, d p.1 ≠ some p.2 := by
  simp [memWf, memSorted_iff]

theorem memWf_nil (d : Nat → Option Byte) : memWf d [] = true := rfl

/-- The entries bytes make lie at the bytes' addresses and differ from what those read as. -/
theorem mem_memEntries {d : Nat → Option Byte} {a : Nat} {bs : Bytes} {p : Nat × Byte} (h : p ∈ memEntries d a bs) :
    a ≤ p.1 ∧ p.1 < a + bs.length ∧ d p.1 ≠ some p.2 := by
  induction bs generalizing a with
  | nil => simp [memEntries] at h
  | cons b bs ih =>
    rw [memEntries] at h
    split at h
    · have := ih h
      simp only [List.length_cons]
      exact ⟨by omega, by omega, this.2.2⟩
    · rcases List.mem_cons.mp h with rfl | h
      · simp_all
      · have := ih h
        simp only [List.length_cons]
        exact ⟨by omega, by omega, this.2.2⟩

theorem memEntries_sorted (d : Nat → Option Byte) (a : Nat) (bs : Bytes) :
    (memEntries d a bs).Pairwise (fun p q => p.1 < q.1) := by
  induction bs generalizing a with
  | nil => simp [memEntries]
  | cons b bs ih =>
    rw [memEntries]
    split
    · exact ih _
    · exact List.pairwise_cons.mpr ⟨fun q h => (mem_memEntries h).1, ih _⟩

theorem of_mem_takeWhile {m : Mem} {a : Nat} {p : Nat × Byte} (h : p ∈ m.takeWhile (fun p => decide (p.1 < a))) :
    p ∈ m ∧ p.1 < a := by
  refine ⟨List.takeWhile_subset _ h, ?_⟩
  have := List.all_takeWhile (l := m) (p := fun p => decide (p.1 < a))
  rw [List.all_eq_true] at this
  simpa using this p h

theorem of_mem_dropWhile {m : Mem} {a : Nat} (w : m.Pairwise (fun p q => p.1 < q.1)) {p : Nat × Byte}
    (h : p ∈ m.dropWhile (fun p => decide (p.1 < a))) : p ∈ m ∧ a ≤ p.1 := by
  refine ⟨List.dropWhile_subset _ h, ?_⟩
  induction m with
  | nil => simp at h
  | cons q m ih =>
    rw [List.dropWhile_cons] at h
    split at h
    · exact ih (List.pairwise_cons.mp w).2 h
    · rename_i k
      simp only [decide_eq_true_eq] at k
      rcases List.mem_cons.mp h with rfl | h
      · omega
      · have := (List.pairwise_cons.mp w).1 p h
        omega

/-- A write keeps the canonical form. -/
theorem memWrite_wf {d : Nat → Option Byte} {m : Mem} (h : memWf d m = true) (a : Nat) (bs : Bytes) :
    memWf d (memWrite m d a bs) = true := by
  rw [memWf_iff] at h ⊢
  obtain ⟨w, v⟩ := h
  constructor
  · rw [memWrite, List.append_assoc]
    refine List.pairwise_append.mpr ⟨w.sublist (List.takeWhile_sublist _), List.pairwise_append.mpr
      ⟨memEntries_sorted _ _ _, w.sublist (List.dropWhile_sublist _), fun p hp q hq => ?_⟩, fun p hp q hq => ?_⟩
    · have := (mem_memEntries hp).2.1
      have := (of_mem_dropWhile w hq).2
      omega
    · have := (of_mem_takeWhile hp).2
      rcases List.mem_append.mp hq with hq | hq
      · have := (mem_memEntries hq).1
        omega
      · have := (of_mem_dropWhile w hq).2
        omega
  · intro p hp
    rw [memWrite, List.append_assoc] at hp
    rcases List.mem_append.mp hp with hp | hp
    · exact v p (of_mem_takeWhile hp).1
    · rcases List.mem_append.mp hp with hp | hp
      · exact (mem_memEntries hp).2.2
      · exact v p (of_mem_dropWhile w hp).1

/-- Taking a range's bytes out keeps the canonical form. -/
theorem memDrop_wf {d : Nat → Option Byte} {m : Mem} (h : memWf d m = true) (a len : Nat) :
    memWf d (memDrop m a len) = true := by
  rw [memWf_iff] at h ⊢
  exact ⟨h.1.sublist (List.filter_sublist ..), fun p hp => h.2 p (List.mem_filter.mp hp).1⟩

/-- In a sorted memory a byte is the listed one, or what an unlisted address reads as. -/
theorem memByte_of_mem {m : Mem} (w : m.Pairwise (fun p q => p.1 < q.1)) (d : Nat → Byte) {p : Nat × Byte} (h : p ∈ m) :
    memByte m d p.1 = p.2 := by
  induction m with
  | nil => cases h
  | cons q m ih =>
    rw [memByte, List.find?_cons]
    rcases List.mem_cons.mp h with rfl | h
    · simp
    · have := (List.pairwise_cons.mp w).1 p h
      have k : (q.1 == p.1) = false := by
        rw [beq_eq_false_iff_ne]
        omega
      rw [k]
      exact ih (List.pairwise_cons.mp w).2 h

theorem memByte_of_not_mem {m : Mem} (d : Nat → Byte) {a : Nat} (h : ∀ p ∈ m, p.1 ≠ a) : memByte m d a = d a := by
  have : m.find? (fun p => p.1 == a) = none := by
    rw [List.find?_eq_none]
    exact fun p hp => by simpa using h p hp
  rw [memByte, this]

theorem memEntries_mem {d : Nat → Option Byte} {a : Nat} {bs : Bytes} {i : Nat} (h : i < bs.length)
    (k : d (a + i) ≠ some (bs.getD i 0)) : (a + i, bs.getD i 0) ∈ memEntries d a bs := by
  induction bs generalizing a i with
  | nil => simp at h
  | cons b bs ih =>
    rw [memEntries]
    cases i with
    | zero =>
      simp only [Nat.add_zero, List.getD_cons_zero] at k
      simp [k]
    | succ i =>
      have e : a + (i + 1) = a + 1 + i := by omega
      simp only [List.length_cons, Nat.add_lt_add_iff_right] at h
      rw [e, List.getD_cons_succ] at k
      have := ih h k
      rw [e, List.getD_cons_succ]
      split
      · exact this
      · exact List.mem_cons_of_mem _ this

theorem memEntries_not_mem {d : Nat → Option Byte} {a : Nat} {bs : Bytes} {i : Nat}
    (k : d (a + i) = some (bs.getD i 0)) : ∀ p ∈ memEntries d a bs, p.1 ≠ a + i := by
  induction bs generalizing a i with
  | nil => simp [memEntries]
  | cons b bs ih =>
    intro p hp
    rw [memEntries] at hp
    cases i with
    | zero =>
      simp only [Nat.add_zero, List.getD_cons_zero] at k
      rw [if_pos k] at hp
      have := (mem_memEntries hp).1
      omega
    | succ i =>
      have e : a + (i + 1) = a + 1 + i := by omega
      rw [e, List.getD_cons_succ] at k
      rw [e]
      split at hp
      · exact ih k p hp
      · rcases List.mem_cons.mp hp with rfl | hp
        · show a ≠ a + 1 + i
          omega
        · exact ih k p hp

/-- A read after a write: inside the bytes written, the byte; elsewhere, what was there. `e` is the read's account of
unlisted addresses, `d` the write's; they agree wherever `d` has a value. -/
theorem memByte_memWrite {m : Mem} {d : Nat → Option Byte} {e : Nat → Byte} (w : m.Pairwise (fun p q => p.1 < q.1))
    (k : ∀ x v, d x = some v → e x = v) (a : Nat) (bs : Bytes) (x : Nat) :
    memByte (memWrite m d a bs) e x = if a ≤ x ∧ x < a + bs.length then bs.getD (x - a) 0 else memByte m e x := by
  have wf : (memWrite m d a bs).Pairwise (fun p q => p.1 < q.1) := by
    rw [memWrite, List.append_assoc]
    refine List.pairwise_append.mpr ⟨w.sublist (List.takeWhile_sublist _), List.pairwise_append.mpr
      ⟨memEntries_sorted _ _ _, w.sublist (List.dropWhile_sublist _), fun p hp q hq => ?_⟩, fun p hp q hq => ?_⟩
    · have := (mem_memEntries hp).2.1
      have := (of_mem_dropWhile w hq).2
      omega
    · have := (of_mem_takeWhile hp).2
      rcases List.mem_append.mp hq with hq | hq
      · have := (mem_memEntries hq).1
        omega
      · have := (of_mem_dropWhile w hq).2
        omega
  split
  · rename_i h
    obtain ⟨i, rfl⟩ : ∃ i, x = a + i := ⟨x - a, by omega⟩
    have hi : i < bs.length := by omega
    rw [Nat.add_sub_cancel_left]
    by_cases c : d (a + i) = some (bs.getD i 0)
    · rw [memByte_of_not_mem]
      · exact k _ _ c
      · intro p hp
        rw [memWrite, List.append_assoc] at hp
        rcases List.mem_append.mp hp with hp | hp
        · have := (of_mem_takeWhile hp).2
          omega
        · rcases List.mem_append.mp hp with hp | hp
          · exact memEntries_not_mem c p hp
          · have := (of_mem_dropWhile w hp).2
            omega
    · refine memByte_of_mem wf e (p := (a + i, bs.getD i 0)) ?_
      rw [memWrite, List.append_assoc]
      exact List.mem_append_right _ (List.mem_append_left _ (memEntries_mem hi c))
  · rename_i h
    by_cases c : ∃ p ∈ m, p.1 = x
    · obtain ⟨p, hp, rfl⟩ := c
      rw [memByte_of_mem w e hp]
      refine memByte_of_mem wf e ?_
      rw [memWrite, List.append_assoc]
      by_cases l : p.1 < a
      · refine List.mem_append_left _ ?_
        have := List.takeWhile_append_dropWhile (p := fun p : Nat × Byte => decide (p.1 < a)) (l := m)
        rw [← this] at hp
        rcases List.mem_append.mp hp with hp | hp
        · exact hp
        · have := (of_mem_dropWhile w hp).2
          omega
      · refine List.mem_append_right _ (List.mem_append_right _ ?_)
        have := List.takeWhile_append_dropWhile (p := fun p : Nat × Byte => decide (p.1 < a + bs.length)) (l := m)
        rw [← this] at hp
        rcases List.mem_append.mp hp with hp | hp
        · have := (of_mem_takeWhile hp).2
          omega
        · exact hp
    · rw [memByte_of_not_mem e (fun p hp r => c ⟨p, hp, r⟩), memByte_of_not_mem]
      intro p hp r
      rw [memWrite, List.append_assoc] at hp
      rcases List.mem_append.mp hp with hp | hp
      · exact c ⟨p, (of_mem_takeWhile hp).1, r⟩
      · rcases List.mem_append.mp hp with hp | hp
        · have := mem_memEntries hp
          omega
        · exact c ⟨p, (of_mem_dropWhile w hp).1, r⟩

/-- Bytes outside a range stay when the range's bytes are taken out. -/
theorem memByte_memDrop (m : Mem) (d : Nat → Byte) (a len x : Nat) :
    memByte (memDrop m a len) d x = if a ≤ x ∧ x < a + len then d x else memByte m d x := by
  split
  · rename_i h
    refine memByte_of_not_mem d fun p hp r => ?_
    have := (List.mem_filter.mp hp).2
    simp only [Bool.or_eq_true, decide_eq_true_eq] at this
    omega
  · rename_i h
    have : (memDrop m a len).find? (fun p => p.1 == x) = m.find? (fun p => p.1 == x) := by
      rw [memDrop, List.find?_filter]
      congr 1
      funext p
      by_cases e : p.1 = x
      · have : p.1 < a ∨ a + len ≤ p.1 := by omega
        simp [e] at this ⊢
        omega
      · simp [e]
    rw [memByte, memByte, this]

end Sys2Proof.Machine
end

