-- ==== Sys2Proof/Laws/Scratch.lean ====
section
/-!
SUPPORT. The laws of the scratchpad, its tags, HBM, the flash array and host memory: each operation on one of these
memories keeps its canonical form, a written byte reads back and the bytes outside the ones written stay.
-/

namespace Sys2Proof.Machine

set_option linter.all false

/-- The scratchpad's data and tags are in canonical form. -/
def spWf (sp : Sp) : Bool := memWf (spWDflt sp) sp.cells && memWf zeroDflt sp.tags

theorem spWf_iff (sp : Sp) : spWf sp = true ↔ memWf (spWDflt sp) sp.cells = true ∧ memWf zeroDflt sp.tags = true := by
  simp [spWf]

/-- What a write compares with is what an unlisted byte reads as, wherever that has a value. -/
theorem spWDflt_some {sp : Sp} {x : Nat} {v : Byte} (h : spWDflt sp x = some v) : spDflt sp x = v := by
  unfold spWDflt at h
  unfold spDflt
  cases k : undefEpoch sp (pageOf x) <;> simp_all

@[simp] theorem spWrite_tags (sp : Sp) (a : Nat) (bs : Bytes) : (spWrite sp a bs).tags = sp.tags := rfl

@[simp] theorem spWrite_undef (sp : Sp) (a : Nat) (bs : Bytes) : (spWrite sp a bs).undef = sp.undef := rfl

theorem spWrite_wf {sp : Sp} (h : spWf sp = true) (a : Nat) (bs : Bytes) : spWf (spWrite sp a bs) = true := by
  rw [spWf_iff] at h ⊢
  exact ⟨memWrite_wf h.1 a bs, h.2⟩

theorem spWriteRows_wf {sp : Sp} (h : spWf sp = true) (a : Nat) (rs : List Bytes) : spWf (spWriteRows sp a rs) = true := by
  induction rs generalizing sp a with
  | nil => exact h
  | cons r rs ih => exact ih (spWrite_wf h _ _) _

theorem setTag_wf {sp : Sp} (h : spWf sp = true) (p : Nat) (t : Byte) : spWf (setTag sp p t) = true := by
  rw [spWf_iff] at h ⊢
  exact ⟨h.1, memWrite_wf h.2 p [t]⟩

theorem mapTags_wf {sp : Sp} (h : spWf sp = true) (f : Byte → Byte) (ps : List Nat) : spWf (mapTags sp f ps) = true := by
  unfold mapTags
  induction ps generalizing sp with
  | nil => exact h
  | cons p ps ih => exact ih (setTag_wf h _ _)

/-- Zeroing a page takes its bytes out; every other page's epoch stays. -/
theorem undefEpoch_spZeroPage (sp : Sp) (page q : Nat) :
    undefEpoch (spZeroPage sp page) q = if q = page then none else undefEpoch sp q := by
  unfold undefEpoch
  show Option.map _ (List.find? _ (sp.undef.filter fun p => p.1 != page)) = _
  rw [List.find?_filter]
  split
  · rename_i h
    subst h
    rw [Option.map_eq_none_iff, List.find?_eq_none]
    intro p _
    by_cases e : p.1 = q <;> simp [e]
  · rename_i h
    congr 2
    funext p
    by_cases e : p.1 = q <;> simp [e, h]

theorem spZeroPage_wf {sp : Sp} (h : spWf sp = true) (page : Nat) :
    spWf (spZeroPage sp page) = true := by
  rw [spWf_iff, memWf_iff, memWf_iff] at h
  rw [spWf_iff, memWf_iff, memWf_iff]
  refine ⟨⟨h.1.1.sublist (List.filter_sublist ..), fun p hp => ?_⟩, h.2⟩
  obtain ⟨m, k⟩ := List.mem_filter.mp hp
  have v := h.1.2 p m
  have e : pageOf p.1 ≠ page := by simpa using k
  unfold spWDflt at v ⊢
  rwa [undefEpoch_spZeroPage, if_neg e]

/-- A byte of the scratchpad after a write: the byte written, or what was there. -/
theorem spByte_spWrite {sp : Sp} (h : spWf sp = true) (a : Nat) (bs : Bytes) (x : Nat) :
    memByte (spWrite sp a bs).cells (spDflt (spWrite sp a bs)) x =
      if a ≤ x ∧ x < a + bs.length then bs.getD (x - a) 0 else memByte sp.cells (spDflt sp) x :=
  memByte_memWrite ((memWf_iff _ _).mp ((spWf_iff sp).mp h).1).1 (fun _ _ => spWDflt_some) a bs x

/-- A tag read back after it is set, and every other tag. -/
theorem tagOf_setTag {sp : Sp} (h : spWf sp = true) (p : Nat) (t : Byte) (q : Nat) :
    tagOf (setTag sp p t) q = if q = p then t else tagOf sp q := by
  have k := memByte_memWrite (d := zeroDflt) (e := fun _ => 0) ((memWf_iff _ _).mp ((spWf_iff sp).mp h).2).1
    (fun x v r => by simpa [zeroDflt] using r) p [t] q
  show memByte _ _ _ = _
  refine k.trans ?_
  by_cases c : q = p
  · subst c
    simp
  · have : ¬ (p ≤ q ∧ q < p + [t].length) := by
      simp only [List.length_singleton]
      omega
    rw [if_neg this, if_neg c]
    rfl

@[simp] theorem setTag_cells (sp : Sp) (p : Nat) (t : Byte) : (setTag sp p t).cells = sp.cells := rfl

@[simp] theorem setTag_undef (sp : Sp) (p : Nat) (t : Byte) : (setTag sp p t).undef = sp.undef := rfl

@[simp] theorem mapTags_cells (sp : Sp) (f : Byte → Byte) (ps : List Nat) : (mapTags sp f ps).cells = sp.cells := by
  unfold mapTags
  induction ps generalizing sp with
  | nil => rfl
  | cons p ps ih => exact (ih _).trans rfl

@[simp] theorem mapTags_undef (sp : Sp) (f : Byte → Byte) (ps : List Nat) : (mapTags sp f ps).undef = sp.undef := by
  unfold mapTags
  induction ps generalizing sp with
  | nil => rfl
  | cons p ps ih => exact (ih _).trans rfl

/-! ### Tags (R150 to R153) -/

/-- A commit marker acts on an EMPTY page and on no other; a release marker on an unpinned FULL page. -/
theorem commitTag_of_ne {t : Byte} (h : tagState t ≠ 0) : commitTag t = t := by simp [commitTag, h]

theorem releaseTag_of_ne {t : Byte} (h : tagState t ≠ 1) : releaseTag t = t := by simp [releaseTag, h]

theorem releaseTag_of_pinned {t : Byte} (h : tagPinned t = true) : releaseTag t = t := by simp [releaseTag, h]

/-- The tags after mapping those of some pages, by a map that does nothing the second time. -/
theorem tagOf_mapTags {sp : Sp} (h : spWf sp = true) {f : Byte → Byte} (idem : ∀ t, f (f t) = f t) (ps : List Nat) (q : Nat) :
    tagOf (mapTags sp f ps) q = if q ∈ ps then f (tagOf sp q) else tagOf sp q := by
  unfold mapTags
  induction ps generalizing sp with
  | nil => simp
  | cons p ps ih =>
    rw [List.foldl_cons, ih (setTag_wf h _ _), tagOf_setTag h]
    by_cases e : q = p
    · subst e
      by_cases m : q ∈ ps <;> simp [m, idem]
    · by_cases m : q ∈ ps <;> simp [m, e]

/-! ### HBM, host memory, flash -/

theorem hbmWrite_wf {s : State} (h : memWf zeroDflt s.hbm.cells = true) (a : Nat) (bs : Bytes) :
    memWf zeroDflt (hbmWrite s a bs).hbm.cells = true := memWrite_wf h a bs

/-- A byte of the HBM array after a write. -/
theorem hbmByte_hbmWrite {s : State} (h : memWf zeroDflt s.hbm.cells = true) (a : Nat) (bs : Bytes) (x : Nat) :
    memByte (hbmWrite s a bs).hbm.cells (fun _ => 0) x =
      if a ≤ x ∧ x < a + bs.length then bs.getD (x - a) 0 else memByte s.hbm.cells (fun _ => 0) x :=
  memByte_memWrite ((memWf_iff _ _).mp h).1 (fun x v r => by simpa [zeroDflt] using r) a bs x

theorem hostWrite_wf {s : State} (h : memWf (fun _ => none) s.host.hostMem = true) (a : Nat) (bs : Bytes) :
    memWf (fun _ => none) (hostWrite s a bs).host.hostMem = true := by
  unfold hostWrite
  split
  · exact memWrite_wf h _ _
  · exact h

theorem flashProgram_wf {f : Flash} (h : memWf (fun _ => some 0xFF) f.cells = true) (a : Nat) (bs : Bytes) :
    memWf (fun _ => some 0xFF) (flashProgram f a bs).cells = true := memWrite_wf h a bs

theorem flashErase_wf {f : Flash} (h : memWf (fun _ => some 0xFF) f.cells = true) (sector : Nat) :
    memWf (fun _ => some 0xFF) (flashErase f sector).cells = true := memDrop_wf h _ _

/-- An erased sector's bytes read 0xFF (R371). -/
theorem flashByte_flashErase (f : Flash) (sector i : Nat) (h : i < 65536) :
    flashByte (flashErase f sector) (sector * 65536 + i) = 0xFF := by
  have p : (flashErase f sector).freePages.find? (fun p => p.1 == flashPage (sector * 65536 + i)) = none := by
    show (f.freePages.filter fun p => p.1 / 128 != sector).find? _ = none
    rw [List.find?_eq_none]
    intro q hq
    have := (List.mem_filter.mp hq).2
    simp only [bne_iff_ne, ne_eq] at this
    simp only [beq_iff_eq, flashPage]
    omega
  rw [flashByte, p]
  show memByte (memDrop f.cells (sector * 65536) 65536) (fun _ => 0xFF) _ = _
  rw [memByte_memDrop]
  simp [h]

end Sys2Proof.Machine
end

