-- ==== Sys2Proof/WellFormed.lean ====
section
/-!
DEFINITION. Which commands are well formed: every numbered part a command names exists (R6), every field a packet or
value brings fits its width, and every list has the length the manual gives it. The meanings do not rest on these checks:
a command that names a part the block does not have changes nothing (assumption 1).
-/

namespace Sys2Proof

/-- A core exists (R6). -/
def wfCore (k : Nat) : Bool := decide (k < 32)

/-- A ring pair exists (R463). -/
def wfRing (q : Nat) : Bool := decide (q < 64)

/-- A context exists (R480). -/
def wfCtx (c : Nat) : Bool := decide (c < 16)

/-- A weight slot of a context exists (R307): 0 is A, 1 is B. -/
def wfSlot (c slot : Nat) : Bool := wfCtx c && decide (slot < 2)

/-- A stack of HBM exists (R339). -/
def wfStack (k : Nat) : Bool := decide (k < 2)

/-- A pseudo-channel exists (R341). -/
def wfPc (pc : Nat) : Bool := decide (pc < 64)

/-- A flash command channel exists (R381). -/
def wfChan (n : Nat) : Bool := decide (n < 2)

/-- A port exists (R414), and a priority (R418). -/
def wfPort (p prio : Nat) : Bool := decide (p < 8) && decide (prio < 8)

/-- A cage exists (R443). -/
def wfCage (c : Nat) : Bool := decide (c < 8)

/-- A queue pair exists (R472). -/
def wfQp (n : Nat) : Bool := decide (n < 1024)

/-- A link exists (R473). -/
def wfLink (n : Nat) : Bool := decide (n < 64)

/-- A stream identifier fits (R433). -/
def wfStream (sid : Nat) : Bool := decide (sid < 4096)

/-- Bits that exist in a scratchpad row (R140, R141, R163). -/
def wfFlips (fs : Flips) : Bool := fs.all fun p => decide (p.1 < 131072) && decide (p.2 < 1072)

/-- A row of an error check lies within an access of at most 512 rows. -/
def wfEcc : Ecc → Bool
  | .clean => true
  | .corrected rs => rs.all (· < 512)
  | .uncorrectable r rs => decide (r < 512) && rs.all (· < 512)

/-- Each core of a list exists and is named once (R227). -/
def wfCores (ks : List Nat) : Bool := ks.all wfCore && decide ks.Nodup

/-- The fields of a Spexa Stream Protocol packet fit their widths (R425). -/
def wfSsp (p : SspPacket) : Bool :=
  wfPort p.port p.prio && decide (p.srcAddr < 2 ^ 128) && decide (p.srcPort < 2 ^ 16) && decide (p.srcMac < 2 ^ 48) &&
    decide (p.udpPort < 2 ^ 16) && decide (p.version < 256) && decide (p.ptype < 256) && decide (p.stream < 2 ^ 16) &&
    decide (p.frag < 2 ^ 16) && decide (p.creditRequest < 2 ^ 32) && decide (p.payloadBytes < 2 ^ 16) &&
    decide (p.frameBytes < 2 ^ 32)

/-- The fields of a RoCEv2 packet fit their widths (R422). -/
def wfRoce (p : RocePacket) : Bool :=
  wfPort p.port p.prio && wfQp p.qp && decide (p.psn < 2 ^ 24) && decide (p.addr < 2 ^ 64) && decide (p.len < 2 ^ 32)

/-- A request to HBM carries the bytes it writes (R342). -/
def wfHbm (r : HbmReq) : Bool := decide (0 < r.len) && (!r.write || r.data.length == r.len)

/-- A command is well formed. -/
def wellFormed : Instr → Bool
  | .nop k => wfCore k
  | .seta k => wfCore k
  | .seti k => wfCore k
  | .setc k => wfCore k
  | .sets k => wfCore k
  | .adda k => wfCore k
  | .stepa k => wfCore k
  | .alu k => wfCore k
  | .movx k => wfCore k
  | .loop k => wfCore k
  | .brk k => wfCore k
  | .cmp k => wfCore k
  | .flagOp k => wfCore k
  | .sync k => wfCore k
  | .syncRelease k _ => wfCore k
  | .seqMacro k => wfCore k
  | .seqStart k _ => wfCore k
  | .seqComplete k _ => wfCore k
  | .endOp k => wfCore k
  | .laneEnd w => wfCore w.core
  | .lateWordHoldEnd k _ => wfCore k
  | .load k e => wfCore k && wfFlips e
  | .tileLoadComplete k e => wfCore k && wfFlips e
  | .run k => wfCore k
  | .passOpen k e => wfCore k && wfFlips e
  | .rowIssue k e => wfCore k && wfFlips e
  | .rowCommit k => wfCore k
  | .fma k _ e => wfCore k && wfFlips e
  | .func k _ e => wfCore k && wfFlips e
  | .reduce k _ e => wfCore k && wfFlips e
  | .tfill k _ e => wfCore k && wfFlips e
  | .tread k _ => wfCore k
  | .pload k e => wfCore k && wfFlips e
  | .drain k e => wfCore k && wfFlips e
  | .bind k => wfCore k
  | .vectorResult k e => wfCore k && wfFlips e
  | .drainEntryOutput k e => wfCore k && wfFlips e
  | .vxStatClose k => wfCore k
  | .dma k => wfCore k
  | .send k => wfCore k
  | .tag k => wfCore k
  | .flagWord k => wfCore k
  | .flagDelivery k _ => wfCore k
  | .tokenDelivery k tk => wfCore k && decide (tk < 8)
  | .tokenWaitEnd k _ => wfCore k
  | .transferComplete k _ => wfCore k
  | .transferFail k _ => wfCore k
  | .unscheduledAccess k b e => wfCore k && decide (b ≤ 32) && wfFlips e
  | .meshInboundAccess k _ => wfCore k
  | .tagWaitEnd k _ e => wfCore k && wfFlips e
  | .eccHoldEnd k => wfCore k
  | .correctionWriteBack k b => wfCore k && decide (b < 32)
  | .starvationBreaker k => wfCore k
  | .scrubStep k b e => wfCore k && decide (b < 32) && wfFlips e
  | .pageZero k page => wfCore k && decide (page < 4096)
  | .spTagDataWrite k _ _ => wfCore k
  | .spTagDataRead k => wfCore k
  | .holdTimeout k => wfCore k
  | .batchStart k => wfCore k
  | .laneStart k => wfCore k
  | .laneFetch k _ => wfCore k
  | .batchFail c => wfCtx c
  | .batchComplete c => wfCtx c
  | .coreHalt k _ => wfCore k
  | .dbgEnd _ => true
  | .dbgSel _ => true
  | .dbgFetchDone => true
  | .dbgOpenOpen => true
  | .dbgOpenClose => true
  | .sqDoorbell q _ => wfRing q
  | .cqHeadWrite q _ => wfRing q
  | .entryBegin q => wfRing q
  | .completionWrite q => wfRing q
  | .msixSignal q => wfRing q
  | .coalesceExpire q => wfRing q
  | .nopEntry q => wfRing q
  | .loadProgram q _ n => wfRing q && decide (n < 2 ^ 32)
  | .programInstall c => wfCtx c
  | .loadWeights q => wfRing q
  | .weightLoadComplete c slot _ _ => wfSlot c slot
  | .switchWeights q => wfRing q
  | .evict q => wfRing q
  | .makeResident c => wfCtx c
  | .slotRetire c slot => wfSlot c slot
  | .useWindowEnd c => wfCtx c
  | .refetch c slot _ _ => wfSlot c slot
  | .pinnedReload c k => wfCtx c && wfCore k
  | .relayMessage c slot _ _ _ _ => wfSlot c slot
  | .relayTimeout c slot => wfSlot c slot
  | .bindStream q => wfRing q
  | .setFlag q => wfRing q
  | .waitFlag q => wfRing q
  | .waitFlagSatisfied q => wfRing q
  | .waitCycleScan => true
  | .waitTimeout q => wfRing q
  | .runBatch q => wfRing q
  | .hostBatchStart c cores => wfCtx c && wfCores cores
  | .configContext q => wfRing q
  | .unloadContext q => wfRing q
  | .configQp q => wfRing q
  | .configLink q => wfRing q
  | .qEnable q _ => wfRing q
  | .resume q => wfRing q
  | .reattach q => wfRing q
  | .ringReset q => wfRing q
  | .attach _ => true
  | .heartbeat _ => true
  | .driverLost => true
  | .busMasterDisable => true
  | .flrPf0 => true
  | .flrDrainEnd => true
  | .flrPf1 => true
  | .bar2Access write off len data => decide (off + len ≤ 2 ^ 28) && (!write || data.length == len)
  | .getInfo => true
  | .readTelemetry => true
  | .readLog => true
  | .svcFlashRead => true
  | .svcFlashProgram => true
  | .svcFlashErase => true
  | .svcFlashUnlock => true
  | .updateBegin => true
  | .updateWrite => true
  | .updateVerify => true
  | .updateActivate => true
  | .handover _ => true
  | .updateCommit => true
  | .trialEnd => true
  | .svcAttest => true
  | .powerRequest => true
  | .hbmRequest r => wfHbm r
  | .hbmReadComplete pc _ e => wfPc pc && wfEcc e
  | .refresh pc b => wfPc pc && decide (b < 16)
  | .selfRefreshEntry stack => wfStack stack
  | .selfRefreshExit stack => wfStack stack
  | .caParityAlert pc _ _ => wfPc pc
  | .hbmTraining _ windows => windows.length == 256 && windows.all fun w => decide (w < 256)
  | .flashRead off e => decide (off < 2 ^ 30) && wfEcc e
  | .programPage n => wfChan n
  | .eraseSector n => wfChan n
  | .readInfo n => wfChan n
  | .unlock n => wfChan n
  | .lock n => wfChan n
  | .setPassword n => wfChan n
  | .setRegion n region _ => wfChan n && decide (region < 16)
  | .flashAbort n => wfChan n
  | .flashStepEnd _ => true
  | .flashScan => true
  | .supplyModeChange => true
  | .flEiDataRead => true
  | .streamPacket p => wfSsp p
  | .creditProbe p => wfSsp p
  | .resetSequence p => wfSsp p
  | .reassemblyTimeout sid _ => wfStream sid
  | .batchDeadline c => wfCtx c
  | .streamBatchStart c cores => wfCtx c && wfCores cores
  | .pfcFrame port quanta => decide (port < 8) && quanta.all fun q => decide (q.1 < 8) && decide (q.2 < 65536)
  | .pfcPauseEnd port prio => wfPort port prio
  | .xoffRefresh port prio _ => wfPort port prio
  | .rocePacket p => wfRoce p
  | .cnpReceive qp => wfQp qp
  | .rateIncrease qp => wfQp qp
  | .ackTimeout qp => wfQp qp
  | .linkPageSend link => wfLink link
  | .linkWriteAck link => wfLink link
  | .linkCreditReturn link idx => wfLink link && decide (idx < 64)
  | .wakeFrame port dstMac _ => decide (port < 8) && decide (dstMac < 2 ^ 48)
  | .moduleInsert cage => wfCage cage
  | .moduleReadyTimeout cage => wfCage cage
  | .moduleRemove cage => wfCage cage
  | .txBiasSample cage _ => wfCage cage
  | .lifeRecordWrite cage => wfCage cage
  | .portReset _ => true
  | .linkUp port => decide (port < 8)
  | .mgFlashRead => true
  | .mgFlashProgram => true
  | .mgFlashErase => true
  | .mgFlashReadInfo => true
  | .mgFlashUnlock => true
  | .mgFlashLock => true
  | .logRead => true
  | .logDump => true
  | .mgContinue => true
  | .mgAbort => true
  | .fwInfo => true
  | .calicoWriteConfig => true
  | .calicoWriteEntry => true
  | .calicoRestart => true
  | .calicoStop => true
  | .mgAttest => true
  | .mailboxTimeout => true
  | .mgSoftReset => true
  | .mgBufDataAccess _ _ => true
  | .multibyteLatchRead off => decide (off < 256)
  | .mgPwrReq _ => true
  | .windowRead => true
  | .windowWrite => true
  | .entdaa addr => decide (addr < 128)
  | .setdasa statAddr addr => decide (statAddr < 128) && decide (addr < 128)
  | .setnewda addr => decide (addr < 128)
  | .rstdaa => true
  | .enec _ => true
  | .disec _ => true
  | .getpid => true
  | .getbcr => true
  | .getdcr => true
  | .getstatus => true
  | .getmwl => true
  | .getmrl => true
  | .mgAddressMatch addr => decide (addr < 128)
  | .telemetrySample temps _ _ _ => temps.length == 8
  | .calicoStart => true
  | .unboundReport p => wfSsp p
  | .calicoIdleUnbind sid => wfStream sid
  | .pwDvfsWrite _ => true
  | .railSettled => true
  | .powerSample => true
  | .thermalStep => true
  | .thermalAlarm sensor => decide (sensor < 8)
  | .thermalTrip => true
  | .coldReset maddr => decide (maddr < 4)
  | .warmReset _ => true
  | .pllLock => true
  | .boot => true
  | .fwReady => true
  | .coreReset k => wfCore k
  | .voileEntry => true
  | .feltEntry => true
  | .ap2CoresQuiesced => true
  | .ap3StateSaved => true
  | .ap5GatesCommanded => true
  | .wake _ port => decide (port < 8)
  | .voileExit => true
  | .feltExit => true
  | .wakeTimer => true
  | .fwWatchdogKick => true
  | .fwWatchdogExpire => true
  | .railFault => true
  | .decommission _ => true
  | .decommissionCancel => true
  | .extest => true
  | .samplePreload => true
  | .idcode => true
  | .clamp => true
  | .highz => true
  | .dbgStatus => true
  | .dbgChallenge _ random => random.length == 32
  | .dbgResponse key sig _ => key.length == 32 && sig.length == 64
  | .dbgClose => true
  | .fwAccess _ => true
  | .scan => true
  | .bypass => true
  | .coreOutOfService k => wfCore k
  | .coreCheck k _ => wfCore k
  | .registerWrite _ addr _ => decide (addr < 2 ^ 48)
  | .ap4HbmInSelfRefresh => true
  | .moduleReady cage _ _ _ _ _ failStep _ => wfCage cage && decide (failStep < 8)
  | .linkDown port => decide (port < 8)
  | .receivedFrame port prio _ _ => wfPort port prio
  | .unlockCompletion n => wfChan n
  | .selfRefreshExitComplete stack => wfStack stack
  | .hbmWriteDrain pc _ e => wfPc pc && wfEcc e
  | .rnrTimerExpiry qp => wfQp qp
  | .tapReset => true

end Sys2Proof
end

