-- ==== Sys2Proof/Tests/Slice0.lean ====
section
/-! SUPPORT. The model's own tests: ill-formed commands that the checks refuse, witnesses that the hypotheses of the statements
can be met together, and one-step tests with results taken from the spec's rules. -/

open Sys2Proof Sys2Proof.Machine

namespace Sys2Proof.Tests

-- One theorem after another: the kernel evaluates most of these proofs, and each would hold a thread while it waits.
set_option Elab.async false
set_option linter.all false

/-! ### Small states -/

/-- A device at work: clocks running, HBM trained, flash scanned, firmware ready, a driver attached. -/
def up : State := { State.reset with
  hbm := { State.reset.hbm with
    trained := 3
    trainDone := true }
  flash := { State.reset.flash with scanDone := true }
  host := { State.reset.host with
    fwReady := true
    attached := true
    busMaster := true
    dispatch := true }
  pw := { State.reset.pw with
    inReset := false
    pllLocked := true
    wdtRunning := true } }

/-- The same with one core. -/
def one (c : Core) : State := { up with cores := [c] }

/-- A core at work. -/
def run0 : Core := { Core.reset with started := true }

/-- A core at work on context 0, lane 0, that owns every page. -/
def own : Core := { run0 with
  ctx := some 0
  pagesLow := 2048
  pagesHigh := 2048 }

/-- A control core that takes bundle `b` next. -/
def atBundle (b : BitVec 256) : Core := { run0 with ctl := { Ctl.reset with ibuf := [(0, b)] } }

/-- A bundle with a slot-0 operation and no engine words. -/
def op0 (op : Nat) (rest : Nat) : BitVec 256 := BitVec.ofNat 256 (op * 2 ^ 46 + rest)

/-- An engine word from its bits, at cycle 5, with registers 0. -/
def qw (w : Nat) : QWord := ⟨BitVec.ofNat 64 w, 5, 0, List.replicate 16 0, List.replicate 16 0, List.replicate 16 0⟩

/-- The state after a command. -/
def after (i : Instr) (s : State) : State :=
  match exec i s with
  | .next t => t
  | _ => s

/-- An event is due where the core arrives: `Due`, as a check. -/
def dueB (c : Core) (key : Nat) : Bool := mayGo c key && arrived (arrive c key) key

theorem due_of {c : Core} {key : Nat} (h : dueB c key = true) : Due c key (arrive c key) :=
  have h := Bool.and_eq_true_iff.mp h
  ⟨h.1, rfl, h.2⟩

/-- `Busy`, as a check. -/
def busyB (c : Core) : Bool :=
  c.started && !(c.regs.stopped || c.ctl.ended || c.ctl.syncWait || c.regs.halting) && c.seq.isNone

theorem busy_of {c : Core} (h : busyB c = true) : Busy c := by
  simp only [busyB, Bool.and_eq_true, Bool.not_eq_true', Bool.or_eq_false_iff, Option.isNone_iff_eq_none] at h
  exact ⟨h.1.1, h.1.2.1.1.1, h.1.2.1.1.2, h.1.2.1.2, h.1.2.2, h.2⟩

theorem takes_of {c : Core} {op : Nat} {b : BitVec 256}
    (h : busyB c = true ∧ bundleAt c.ctl c.ctl.pc = some b ∧ fld (slotOf b 0) 51 46 = op ∧ c.ctl.pushed = 0) : Takes c op b :=
  ⟨busy_of h.1, h.2.1, h.2.2.1, h.2.2.2⟩

theorem room_of {c : Core} {b : BitVec 256} {first last : Nat} (h : c.mq.length < 512 ∧ c.vq.length < 512 ∧ c.movq.length < 256) :
    Room c b first last :=
  ⟨fun _ _ _ => h.1, fun _ _ _ => h.2.1, fun _ _ _ => h.2.2⟩

/-- Nothing but words of the matrix and move queues is at work in a core. -/
def idleB (d : Core) : Bool :=
  d.mx.run.isNone && d.mx.loading.isNone && d.vx.bias.isNone && d.vx.runs.isEmpty && d.vx.results.isEmpty &&
    d.vx.drains.isEmpty && d.seq.isNone

/-- A core enters the cycle of a key as core `d`, with nothing that holds or stops it before. -/
abbrev Enters (c : Core) (key : Nat) (d : Core) : Prop :=
  mayGo c key = true ∧ lateAt c (key / 2) = false ∧ key % 2 = 0 ∧ d = advanceTo (reach c key) (key / 2) ∧
    ((reach c key).regs.stopped = false ∧ waitHeld (reach c key) = false ∧ (reach c key).hold.eccLeft = 0) ∧
    d.ctl.cleared ≠ d.ctl.cycle + 1 ∧ lateAt d d.ctl.cycle = false

/-- What the words of one kind come to is all that an otherwise idle core does in its cycle. -/
theorem only_of {c d : Core} {key : Nat} {f : Core → Try} (i : idleB d = true)
    (h : Enters c key d)
    (w : ∀ g ∈ wordWork d.ctl.cycle, g d = .go d ∨ g d = f d) (there : ∃ g ∈ wordWork d.ctl.cycle, g d = f d) : Only c key f d := by
  obtain ⟨h1, h2, h3, h4, h5, h6⟩ := h
  simp only [idleB, Bool.and_eq_true, Option.isNone_iff_eq_none, List.isEmpty_iff] at i
  obtain ⟨⟨⟨⟨⟨⟨i1, i2⟩, i3⟩, i4⟩, i5⟩, i6⟩, i7⟩ := i
  refine ⟨h1, h2, h3, h4, ⟨h5.1, h5.2.1, .inl h5.2.2⟩, h6, ?_, ?_⟩
  · intro g hg
    simp only [namedWork, innerWork, endWork, splitPushes, i4, i5, i6, List.filter_nil, List.map_nil, List.append_nil,
      List.mem_append, List.mem_cons, List.not_mem_nil, or_false, List.nil_append] at hg
    have idle : ∀ (t : Nat) (k : Core → Option Nat) (e : Core → Try), k d = none → whenDue t k e d = .go d := by
      intro t k e hk
      simp [whenDue, hk]
    rcases hg with (((rfl | rfl) | hw) | hw) | (rfl | rfl | rfl)
    · exact .inl (idle _ _ _ (by simp [i1]))
    · exact .inl (idle _ _ _ (by simp [i1]))
    · exact w g hw
    · exact w g hw
    · exact .inl (idle _ _ _ (by simp [i2]))
    · exact .inl (idle _ _ _ (by simp [i3]))
    · exact .inl (idle _ _ _ (by simp [seqKey, i7]))
  · obtain ⟨g, hg, e⟩ := there
    exact ⟨g, List.mem_append_right _ hg, e⟩

/-- An event of a cycle that is not due does nothing, and one that is due is tried. -/
theorem whenDue_of (t : Nat) (key : Core → Option Nat) (f : Core → Try) (d : Core) :
    ((key d).any (fun k => decide (k ≤ atCycle t)) = false → whenDue t key f d = .go d) ∧
      ((key d).any (fun k => decide (k ≤ atCycle t)) = true → whenDue t key f d = f d) := by
  constructor <;> intro h <;> simp [whenDue, h]

/-- A move word is all that an idle core with no other word does. -/
theorem only_move {c d : Core} {key : Nat} (i : idleB d = true)
    (h : Enters c key d)
    (q : d.mq = [] ∧ d.vq = []) (due : (d.movq.head?.map fun x => atCycle x.cycle).any (fun k => decide (k ≤ atCycle d.ctl.cycle)) = true) :
    Only c key tryMove d := by
  have r : nextRunWord d = none := by rw [nextRunWord, q.1]
  have l : nextLoadWord d = none := by rw [nextLoadWord, q.1]
  refine only_of i h (fun g hg => ?_) ⟨_, List.mem_cons_of_mem _ (List.mem_cons_of_mem _ (List.mem_cons_of_mem _ List.mem_cons_self)),
    (whenDue_of _ _ _ _).2 due⟩
  simp only [wordWork, List.mem_cons, List.not_mem_nil, or_false] at hg
  rcases hg with rfl | rfl | rfl | rfl
  · exact .inl ((whenDue_of _ _ _ _).1 (by simp [r]))
  · exact .inl ((whenDue_of _ _ _ _).1 (by simp [l]))
  · exact .inl ((whenDue_of _ _ _ _).1 (by simp [q.2]))
  · exact .inr ((whenDue_of _ _ _ _).2 due)

/-- A run word is all that an idle core with no other word does. -/
theorem only_run {c d : Core} {key : Nat} (i : idleB d = true) (h : Enters c key d)
    (q : nextLoadWord d = none ∧ d.vq = [] ∧ d.movq = [])
    (due : ((nextRunWord d).map fun p => atCycle p.1.cycle).any (fun k => decide (k ≤ atCycle d.ctl.cycle)) = true) :
    Only c key tryRun d := by
  refine only_of i h (fun g hg => ?_) ⟨_, List.mem_cons_self, (whenDue_of _ _ _ _).2 due⟩
  simp only [wordWork, List.mem_cons, List.not_mem_nil, or_false] at hg
  rcases hg with rfl | rfl | rfl | rfl
  · exact .inr ((whenDue_of _ _ _ _).2 due)
  · exact .inl ((whenDue_of _ _ _ _).1 (by simp [q.1]))
  · exact .inl ((whenDue_of _ _ _ _).1 (by simp [q.2.1]))
  · exact .inl ((whenDue_of _ _ _ _).1 (by simp [q.2.2]))

/-- `Permitted`, as a check. -/
def permitB (d : Core) (write merge : Bool) (accs : List Acc) : Bool :=
  (rowsOf accs).all (fun r => ownsPage d.pagesLow d.pagesHigh r.1 && (tagOf d.sp r.1).toNat % 4 == (if write then 0 else 1) &&
    d.sp.busy.all (fun b => b.bank != r.2) && (write && !merge || rowCheckOf d.sp r.1 r.2 == (0, false))) &&
    decide ((rowsOf accs).map (·.2)).Nodup

theorem permit_of {d : Core} {write merge : Bool} {accs : List Acc} (h : permitB d write merge accs = true) :
    Permitted d write merge accs := by
  simp only [permitB, Bool.and_eq_true, List.all_eq_true, beq_iff_eq, bne_iff_ne, Bool.or_eq_true, Bool.not_eq_true',
    decide_eq_true_eq] at h
  refine ⟨fun r hr => (h.1 r hr).1.1.1, fun r hr => (h.1 r hr).1.1.2, fun r hr => (h.1 r hr).1.2, h.2, fun r hr m => ?_⟩
  rcases (h.1 r hr).2 with e | e
  · rw [e.1, e.2] at m
    simp at m
  · exact e

/-- A check of what an event comes to. -/
def tryIs (p : Core → Bool) : Try → Bool
  | .go c => p c
  | _ => false

theorem go_of {r : Try} {d : Core} (h : tryIs (fun x => decide (x = d)) r = true) : r = .go d := by
  cases r with
  | go c => exact congrArg _ (of_decide_eq_true h)
  | wait _ _ _ => cases h
  | stop _ _ => cases h

/-- A batch of a ring entry (ring 0, index 0) that has begun lane 0. -/
def batch0 : Batch where
  ring := some (0, 0)
  tag := 0
  signal := some 255
  args := []
  frames := []
  per := 0
  ranks := 0
  slot := 0
  stops := []
  lanesBegun := [0]
  lanesEnded := []
  lanesHalted := []
  logged := none
  failing := false
  stopEnd := false
  refuse := none
  deliver := true

/-- A context placed with lane 0 on core 0. -/
def ctx0 : Ctx := { Ctx.reset with
  configured := true
  lanes := 1
  hbmBytes := 65536
  placed := [(0, 0)]
  latched := some 0 }

/-- One core and one context with its batch. -/
def laned (c : Core) (x : Ctx) : State := { one c with host := { up.host with ctxs := [x] } }

/-- A Twill image with one lane of `n` bundles at offset 0x140 and 8 pages in each range (R224, R225, R617). -/
def tinyImage (n : Nat) : Bytes :=
  let head := List.replicate 8 0 ++ toLe 4 1 ++ List.replicate 4 0 ++ toLe 8 0 ++ toLe 8 (0x140 + 32 * n) ++ List.replicate 32 0
  let dir := toLe 4 1 ++ toLe 4 1 ++ toLe 8 0x100 ++ List.replicate 176 0
  let lane := toLe 8 0x140 ++ toLe 4 n ++ toLe 2 8 ++ toLe 2 8 ++ List.replicate 48 0
  head ++ dir ++ lane ++ List.replicate (32 * n) 0

/-- A core whose next bundle lies at cycle 100, so that its engines' events come first. -/
def mid : Core := { own with ctl := { own.ctl with offset := 100 } }

/-! ### Witnesses: the control core -/

/-- Slot-0 operations: each opcode is taken somewhere, at the highest register number. -/
theorem wit_takes : ∀ op ∈ [0x00, 0x01, 0x02, 0x03, 0x04, 0x05, 0x06, 0x07, 0x08, 0x10, 0x11, 0x12, 0x13, 0x14, 0x18, 0x3F],
    Takes (atBundle (op0 op (15 * 2 ^ 42))) op (op0 op (15 * 2 ^ 42)) := by
  have h' : ∀ op ∈ [0x00, 0x01, 0x02, 0x03, 0x04, 0x05, 0x06, 0x07, 0x08, 0x10, 0x11, 0x12, 0x13, 0x14, 0x18, 0x3F],
      let b := op0 op (15 * 2 ^ 42)
      busyB (atBundle b) = true ∧ bundleAt (atBundle b).ctl (atBundle b).ctl.pc = some b ∧ fld (slotOf b 0) 51 46 = op ∧
        (atBundle b).ctl.pushed = 0 := by decide +kernel
  intro op h
  exact takes_of (h' op h)

theorem wit_stepa : FilesSized run0 := by constructor <;> decide +kernel

theorem wit_movx : ∀ f ∈ [0, 1, 2, 3, 4], CmpOperand Ctl.reset f 15 0 := by unfold CmpOperand; decide +kernel

/-- Eight comparators armed on flag 63: the highest-numbered one decides it, with its immediate or a register. -/
def armed (imm : Bool) : Ctl := { Ctl.reset with cmps := List.replicate 8 (some ⟨3, 3, 15, imm, 1, 15, 63, 0xFFFF⟩) }

theorem wit_comparators : (armed true).cmps.length = 8 ∧ (armed false).cmps.getD 7 none = some ⟨3, 3, 15, false, 1, 15, 63, 0xFFFF⟩ ∧
    (∀ m, 7 < m → m < 8 → False) ∧ CmpOperand (armed true) 3 15 0 ∧ CmpOperand (armed false) 1 15 0 ∧
    (0xFFFFFFFF : W32).toInt = (0xFFFF : W16).toInt ∧
    ∀ n < 8, ∀ arm, (armed true).cmps.getD n none = some arm → arm.flag ≠ 62 := by
  unfold CmpOperand
  have e : ∀ n < 8, (armed true).cmps.getD n none = some ⟨3, 3, 15, true, 1, 15, 63, 0xFFFF⟩ := by decide +kernel
  have flag : ∀ n < 8, ∀ arm, (armed true).cmps.getD n none = some arm → arm.flag ≠ 62 := by
    intro n hn arm h
    rw [e n hn] at h
    cases h
    decide
  and_intros <;> first | exact flag | omega | decide +kernel

/-- A LOOP with an immediate count of 1, with a register count of 0 and of 1 above its declared maximum. -/
theorem wit_loop : Takes (atBundle (op0 0x10 1)) 0x10 (op0 0x10 1) ∧ bit (slotOf (op0 0x10 1) 0) 45 = false ∧
    Takes (atBundle (op0 0x10 (2 ^ 45))) 0x10 (op0 0x10 (2 ^ 45)) ∧
    (((run0.ctl.c.getD 0 0).toNat = 0) ∧ 0 ≤ declaredMax (atBundle (op0 0x10 (2 ^ 45))) 0) ∧
    (let c := atBundle (op0 0x10 (2 ^ 45))
     let d := { c with ctl := { c.ctl with c := List.replicate 16 1 } }
     Takes d 0x10 (op0 0x10 (2 ^ 45)) ∧ declaredMax d 0 < (d.ctl.c.getD 0 0).toNat ∧ d.regs.ccFault = 0 ∧ d.ctl.pc < 2 ^ 32) := by
  refine ⟨takes_of ?_, ?_, takes_of ?_, ?_, takes_of ?_, ?_⟩ <;> decide +kernel

/-- BREAK on flag 63 with sense 0 and 1, in a loop. -/
theorem wit_break : ∀ sense ∈ [0, 1], let b := op0 0x11 (63 * 2 ^ 40 + sense * 2 ^ 39)
    let c := atBundle b
    let d := { c with ctl := { c.ctl with loops := [⟨0, 0, 0⟩] } }
    Takes d 0x11 b ∧ (d.ctl.flags.getLsbD (fld (slotOf b 0) 45 40) = bit (slotOf b 0) 39 ↔ sense = 0) ∧ d.ctl.loops = [⟨0, 0, 0⟩] := by
  intro sense h
  simp only [List.mem_cons, List.not_mem_nil, or_false] at h
  rcases h with h | h <;> subst h <;> exact ⟨takes_of (by decide +kernel), by decide +kernel⟩

/-- A bundle with an engine word in each of slots 1 to 3. -/
def wordy : BitVec 256 := BitVec.ofNat 256 (2 ^ 127 + 2 ^ 191 + 2 ^ 255)

/-- A core whose queues hold so many words. -/
def queued (m v n : Nat) : Core := { atBundle wordy with
  mq := List.replicate m (qw 0)
  vq := List.replicate v (qw 0)
  movq := List.replicate n (qw 0) }

/-- Each queue full, the others with room for one word, at a bundle not begun and at one resumed at its last slot. -/
theorem wit_full_queues : Takes (queued 512 0 0) 0 wordy ∧ Full (queued 512 0 0) wordy 1 ∧ Full (queued 511 512 0) wordy 2 ∧
    Full (queued 511 511 256) wordy 3 ∧ Room (queued 511 511 255) wordy 1 4 ∧
    (let c := queued 0 0 256
     let d := { c with ctl := { c.ctl with pushed := 3 } }
     Busy d ∧ bundleAt d.ctl d.ctl.pc = some wordy ∧ 1 ≤ d.ctl.pushed ∧ d.ctl.pushed ≤ 3 ∧ Full d wordy 3) ∧
    Room (queued 512 0 0) wordy 1 1 := by
  have full : ∀ {c : Core} {n : Nat}, (1 ≤ n ∧ n ≤ 3) ∧ bit (slotOf wordy n) 63 = true ∧ (n = 1 → 512 ≤ c.mq.length) ∧
      (n = 2 → 512 ≤ c.vq.length) ∧ (n = 3 → 256 ≤ c.movq.length) → Full c wordy n :=
    fun h => ⟨h.1, h.2.1, h.2.2.1, h.2.2.2.1, h.2.2.2.2⟩
  have none : Room (queued 512 0 0) wordy 1 1 := by constructor <;> exact fun _ h => absurd h (by decide)
  refine ⟨takes_of ?_, full ?_, full ?_, full ?_, room_of ?_, ⟨busy_of ?_, ?_, ?_, ?_, full ?_⟩, none⟩ <;> decide +kernel

/-- A core that waits at a SYNC bundle naming every token end and all 16 flags of group 3. -/
def atSync (mode : Nat) (exact : Bool) (tokens : List Nat) (flags : W64) : Core :=
  let c := atBundle (op0 0x14 (mode * 2 ^ 45 + 255 * 2 ^ 36 + 3 * 2 ^ 34 + 65535 * 2 ^ 18))
  { c with ctl := { c.ctl with
    syncWait := true
    syncExact := exact
    tokens := tokens
    flags := flags } }

/-- A release in mode 0 with every token and flag, and in mode 1 with one flag: the wait reaches the watchdog's limit, or it
ends at the nominal cycle, with the condition there from the start. -/
theorem wit_sync : Takes (atBundle (op0 0x14 0)) 0x14 (op0 0x14 0) ∧
    ∀ p ∈ [(atSync 0 false (List.replicate 8 255) (0xFFFF <<< 48), 2 ^ 20 - 1), (atSync 1 true (List.replicate 8 0) (1 <<< 63), 0)],
    let c := p.1
    let r := c.ctl.sectionBase + c.ctl.offset + p.2
    let x := reach c (2 * r)
    ((c.ctl.syncWait = true ∧ c.regs.stopped = false ∧ (bundleAt c.ctl c.ctl.pc).isSome = true ∧ c.ctl.cycle ≤ r ∧
      c.ctl.cleared ≠ r + 1 ∧ (c.ctl.syncExact = true → p.2 = 0) ∧ holdCause c = 0 ∧ (∀ e ∈ coreKeys c, 2 * r - 1 ≤ e) ∧
      c.hold.syncWatch + p.2 ≤ wdtLimit c ∧ x.regs.stopped = false ∧ holdCause x = 0) ∧
     ((∀ i < 8, 0 < c.ctl.tokens.getD i 0) ∧ (∀ j < 16, c.ctl.flags.getLsbD (48 + j) = true) ∨
      ∃ j, j < 16 ∧ c.ctl.flags.getLsbD (48 + j) = true)) ∧ Room (advanceTo x r) wordy 1 4 := by
  refine ⟨takes_of (by decide +kernel), fun p hp => ⟨?_, room_of ?_⟩⟩ <;> revert p <;> decide +kernel

/-- A lane that has ended with nothing under way, at once and after a transfer that was the last to complete; and one with a
word still queued. -/
theorem wit_lane_end : ∀ waited ∈ [0, 9],
    let c := { own with ctl := { own.ctl with ended := true }, mv := { own.mv with lastAt := own.workEnd + 1 } }
    let s := laned c { ctx0 with batch := some batch0 }
    let x := reach c (2 * (max c.workEnd c.ctl.cycle + waited))
    c.ctx = some 0 ∧ (ctxAt s 0).batch = some batch0 ∧ laneLive s 0 = true ∧ c.started = true ∧ c.regs.halting = false ∧
    holdCause x = 0 ∧ x.regs.stopped = false ∧ laneQuiet s 0 = true ∧ c.mv.lastAt = c.workEnd + 1 ∧ batch0.lanesHalted = [] ∧
    laneQuiet (one { own with mq := [qw 0] }) 0 = false := by
  decide +kernel

/-- A cycle that is entered, with a move word in it; one that a bundle due in cycle 3 holds; and a waiting core. -/
theorem wit_cycles : (let c := { mid with movq := [qw 0] }
    let d := advanceTo c 5
    let e := { d with ctl := { d.ctl with cleared := 6 } }
    (mayGo c (2 * 5) = true ∧ c.ctl.cycle ≤ 5 ∧ c.hold.eccLeft = 0 ∧ (∀ i ∈ innerKeys c, 2 * 5 ≤ i) ∧ c.ctl.cleared ≠ 6 ∧
      lateAt c 5 = false) ∧ (tryCycle d).stops = [] ∧ (tryCycle d).pages = [] ∧ (tryCycle d).tokens = [] ∧
    ∀ g ∈ innerWork e 5, g e = .go e) ∧
    (let c := { own with ctl := { own.ctl with offset := 3 }, movq := [qw 0] }
     let d := advanceTo c (max 3 c.ctl.cycle)
     mayGo c (2 * 5) = true ∧ nextBundleCycle c = some 3 ∧ 3 ≤ 5 ∧ (∀ i ∈ innerKeys c, 2 * 3 ≤ i) ∧ d.ctl.cleared ≠ d.ctl.cycle + 1) ∧
    waitHeld { run0 with hold := { HoldState.none with late := true } } = true := by
  refine ⟨⟨by decide +kernel, List.isEmpty_iff.mp (by decide +kernel), by decide +kernel, by decide +kernel, ?_⟩, by decide +kernel,
    by decide +kernel⟩
  intro g hg
  rcases List.mem_append.mp hg with h | h
  · rcases List.mem_cons.mp h with rfl | h
    · exact go_of (by decide +kernel)
    rcases List.mem_cons.mp h with rfl | h
    · exact go_of (by decide +kernel)
    rcases List.mem_singleton.mp h with rfl
    exact go_of (by decide +kernel)
  · cases h

/-- A core with a hold, its bundle at cycle 1, and a token at every end. -/
def holding (h : HoldState) : Core :=
  { run0 with hold := h, ctl := { run0.ctl with tokens := List.replicate 8 1, offset := 1 } }

/-- A hold of a core may end without another held cycle. -/
def lastsB (c : Core) : Bool := decide (1 ≤ c.hold.watch) && c.sp.used.isEmpty && decide (c.hold.watch ≤ wdtLimit c)

/-- Every cause of a hold, with the lower-coded ones absent; each wait can end, the watchdog's limit just reached, the page of a
refused access still refusing, and an error correction of one cycle. -/
theorem wit_holds :
    let late := holding { HoldState.none with late := true, watch := 2 ^ 20 - 1 }
    let token := holding { HoldState.none with tokens := [7], watch := 2 ^ 20 - 1 }
    let ecc := holding { HoldState.none with eccLeft := 1 }
    let tag := fun (read : Bool) => holding { HoldState.none with pages := [(4095, read)], watch := 2 ^ 20 - 1 }
    let found := { own with ctl := { own.ctl with offset := 3 } }
    let permits := fun (c : Core) (p : Nat × Bool) => (tagOf c.sp p.1).toNat % 4 = if p.2 then 0 else 1
    (late.hold.late = true ∧ (nextBundleCycle late = some 1 ∧ late.ctl.cycle < 1) ∧ late.hold.pages = [] ∧ late.hold.tokens = [] ∧
      lastsB late = true) ∧
    (found.hold.late = false ∧ waitHeld found = false ∧ (nextBundleCycle found = some 3 ∧ ∀ e ∈ coreKeys found, 2 * 3 ≤ e) ∧
      (beginLate found).hold.late = true ∧ (beginLate found).hold.watch + 1 ≤ wdtLimit (beginLate found)) ∧
    (token.hold.tokens ≠ [] ∧ (∀ tk ∈ token.hold.tokens, 0 < token.ctl.tokens.getD tk 0) ∧ token.hold.pages = [] ∧ lastsB token = true) ∧
    ((tag true).hold.pages ≠ [] ∧ (∀ p ∈ (tag true).hold.pages, permits (tag true) p) ∧ lastsB (tag true) = true) ∧
    (∃ p ∈ (tag false).hold.pages, ¬ permits (tag false) p ∧ (tagOf (tag false).sp p.1).toNat % 4 ≠ 3) ∧
    (waitHeld ecc = false ∧ 0 < ecc.hold.eccLeft ∧ ecc.hold.late = false ∧
      (if ecc.hold.cycle = ecc.ctl.cycle + 1 then ecc.hold.watch else 0) + ecc.hold.eccLeft ≤ wdtLimit ecc) := by decide +kernel

/-- What follows a hold: another wait that goes on, and a cycle in which nothing waits or stops. -/
theorem wit_hold_ends : waitHeld (holding { HoldState.none with tokens := [7], pages := [(0, false)] }) = true ∧
    (let y := holding .none
     waitHeld y = false ∧ lateAt y y.ctl.cycle = false ∧ (tryCycle y).stops = [] ∧ (tryCycle y).pages = [] ∧ (tryCycle y).tokens = []) :=
  by
  have e : (tryCycle (holding .none)).stops.isEmpty = true := by decide +kernel
  refine ⟨?_, ?_, ?_, List.isEmpty_iff.mp e, ?_⟩ <;> decide +kernel

/-- A waiting hold, an error correction and a SYNC wait that time out. -/
theorem wit_timeout : let h := { run0 with hold := { HoldState.none with tokens := [0] } }
    let x := { run0 with hold := { HoldState.none with eccLeft := 2 ^ 21 } }
    let w := { run0 with ctl := { run0.ctl with syncWait := true } }
    let t := max w.ctl.cycle 0 + (wdtLimit w + 1 - (w.hold.syncWatch + (w.ctl.cycle - 0)))
    (∀ c ∈ [h, x, w], wdtSuspended (one c) 0 = false ∧ foundLate c = c ∧ c.started = true ∧ c.regs.stopped = false ∧
      c.ctl.sectionBase + c.ctl.offset = 0 ∧ c.regs.ccFault = 0) ∧
    (waitHeld h = true ∧ h.ctl.syncWait = false) ∧
    (waitHeld x = false ∧ 0 < x.hold.eccLeft ∧ wdtLimit x < (if x.hold.cycle = x.ctl.cycle + 1 then x.hold.watch else 0) + x.hold.eccLeft) ∧
    waitHeld w = false ∧ w.hold.eccLeft = 0 ∧ w.ctl.syncWait = true ∧ (∀ e ∈ coreKeys (keepExact w), 2 * t ≤ e) ∧
      (reach w (2 * t)).regs.stopped = false ∧ holdCause (reach w (2 * t)) = 0 := by decide +kernel

/-! ### Witnesses: batches, macros and moves -/

theorem wit_batch_start : let x := { ctx0 with batch := some { batch0 with lanesBegun := [] } }
    let s := laned own x
    laneToStart s 0 = some (0, { batch0 with lanesBegun := [] }, 0) ∧ setReady s 0 = true ∧ pinnedOk s 0 0 = true ∧
    own.mv.xfers = [] ∧ own.mv.flagWrites = [] ∧ own.tokensWaiting = [] ∧
    x.batch.map (fun b => (b.failing, b.refuse)) = some (false, none) := by decide +kernel

/-- A lane of one bundle: to be fetched, its fetch failed, and to be started with it in the buffer. -/
theorem wit_lane_fetch : let x := { ctx0 with batch := some batch0, image := some (tinyImage 1) }
    let s := laned { own with started := false } x
    let e := laneEntry (tinyImage 1) 0
    let f := { own with ctl := { own.ctl with fetched := 1 } }
    laneCode s 0 = some (e, 0) ∧ laneLive s 0 = true ∧ leBundles e = 1 ∧ hbmBad s (leCode e) 32 = false ∧
    (let c := { own with ctl := { own.ctl with fetchFail := [0] } }
     canProcess c = true ∧ bundleAt c.ctl c.ctl.pc = none ∧ c.ctl.pc ∈ c.ctl.fetchFail) ∧
    min (leBundles e) 256 ≤ f.ctl.fetched ∧ (coreAt s 0).started = false ∧ (coreAt s 0).ctl.fetched < min (leBundles e) 256 := by
  decide +kernel

/-- Batches that complete, fail with an error, fail after a bisection stop, and are refused. -/
theorem wit_batch_ends : let s := fun b => laned own { ctx0 with batch := some b }
    (∀ p ∈ (ctxAt (s { batch0 with lanesEnded := [0] }) 0).placed, p.1 ∈ [0]) ∧ batch0.frames = [] ∧ batch0.deliver = true ∧
    batch0.ring = some (0, 0) ∧ 0 < (s batch0).host.rings.length ∧ batch0.signal = some 255 ∧ 255 < (s batch0).host.flags.length ∧
    (ctxAt (s { batch0 with failing := true }) 0).batch = some { batch0 with failing := true } ∧
    (ctxAt (s { batch0 with refuse := some (0x24, 0) }) 0).batch = some { batch0 with refuse := some (0x24, 0) } ∧
    (ctxAt (s batch0) 0).placed.map (·.2) = [0] := by decide +kernel

/-- A core that halts at once and after a transfer that was the last to complete, with HI_DBG_CTRL.keep 0 and 1. -/
theorem wit_core_halts : ∀ keep : Bool, ∀ waited ∈ [0, 9],
    let c := { own with regs := { own.regs with halting := true }, mv := { own.mv with lastAt := own.workEnd + 1 } }
    let t := laned c { ctx0 with batch := some batch0 }
    let s := { t with host := { t.host with dbgKeep := keep } }
    let x := reach (coreAt s 0) (2 * (max (coreAt s 0).workEnd (coreAt s 0).ctl.cycle + waited))
    (coreAt s 0).ctx = some 0 ∧ (ctxAt s 0).batch = some batch0 ∧ laneLive s 0 = true ∧ (coreAt s 0).started = true ∧
    (coreAt s 0).regs.halting = true ∧ laneQuiet s 0 = true ∧ (coreAt s 0).mv.lastAt = (coreAt s 0).workEnd + 1 ∧
    holdCause x = 0 ∧ x.regs.stopped = false ∧ x.reports = [] ∧ s.host.dbgKeep = keep ∧ batch0.failing = false ∧
    ∀ p ∈ (ctxAt s 0).placed, p.1 ∈ batch0.lanesEnded ∨ p.1 ∈ batch0.lanesHalted ++ [(coreAt s 0).lane] := by decide +kernel

/-- A macro at cycle 5 with its counts in C0 to C2. -/
def macro0 (n : Nat) : MacroState where
  word := 0
  cycle := 5
  bundle := 0
  a := List.replicate 16 0
  c := List.replicate 16 (BitVec.ofNat 32 n)
  epoch := 0
  started := false
  done := false
  idle := false
  start := 5
  next := 5
  unit := 0
  kt := 0
  loaded := false
  half := 0
  tiles := 0
  passes := 0
  width := 0
  runAt := 0
  least := 0
  row := 0
  rows := []
  remaining := []

/-- A core with a macro and declared maxima of 1 for its counts. -/
def macroCore (m : MacroState) : Core := { own with
  banks := [⟨0, [], [], [], [(0, 1, 1), (1, 1, 1), (2, 1, 1)]⟩]
  seq := some m }

/-- Counts of 0, within and above their maxima, started in the first cycle in which the pipes are empty; and another wait. -/
theorem wit_macro : ∀ n ∈ [0, 1, 2], let c := macroCore (macro0 n)
    let d := arrive c (2 * (5 + 0))
    pipesEmpty c = true ∧ c.mx.loading = none ∧ 5 + 0 = max 5 c.workEnd ∧ 5 + 1 ≠ max 5 c.workEnd ∧ dueB c (2 * (5 + 0)) = true ∧
    (d.seq = c.seq ∧ d.banks = c.banks ∧ d.ctx = c.ctx) ∧
    (∀ i < 3, declaredMax c (0 + i) = 1) ∧ (∀ i < 3, ((macro0 n).c.getD (0 + i) 0).toNat = n) := by
  decide +kernel

/-- A macro that completes once its work is done, and one with a count of 0 that completes at its start. -/
theorem wit_macro_ends : ∀ p ∈ [(false, 9), (true, 0)], ∃ ms,
    ms = { macro0 1 with started := true, done := true, idle := p.1, least := 5 + p.2 } ∧
    dueB (macroCore ms) (2 * (5 + p.2)) = true ∧ (arrive (macroCore ms) (2 * (5 + p.2))).seq = some ms ∧ ms.least ≤ ms.start + p.2 ∧
    (ms.idle = true → p.2 = 0) ∧ bit ms.word 13 = false := by
  intro p hp
  exact ⟨_, rfl, by revert p; decide +kernel⟩

/-- Move words of every kind at the head of the queue; the DMA's repeat count in C0 is 0, or 1 above its declared maximum; the
FLAG word's lane is placed. -/
theorem wit_moves : ∀ w ∈ [0, 2 ^ 43, 1 * 2 ^ 56, 2 * 2 ^ 56, 3 * 2 ^ 56], let c := { mid with movq := [qw w] }
    let d := arrive c (2 * 5)
    dueB c (2 * 5) = true ∧ d.movq = [qw w] ∧ d.mvLast ≤ 5 ∧ bit (qw w).word 3 = false ∧ fld (qw w).word 59 56 = w / 2 ^ 56 ∧
    ((qw w).c.getD 0 0).toNat ≤ declaredMax d 0 ∧ declaredMax d 0 < ((List.replicate 16 (1 : W32)).getD 0 0).toNat ∧
    (∀ z ∈ c.mv.xfers, z.id < c.mv.nextId) ∧ c.ctx = some 0 ∧ coreOf (ctxAt (laned c ctx0) 0) 0 = some 0 := by
  decide +kernel

/-- A word that pops a token from an end that holds one; and one that waits for a token, one a cycle late, one in the same cycle
as the word before, and a DMA with a count above its maximum, each alone in its cycle. -/
theorem wit_moves_held : let d := { mid with ctl := { mid.ctl with tokens := List.replicate 8 1 } }
    Pops d 15 { d with ctl := { d.ctl with tokens := modAt d.ctl.tokens 7 (· - 1) } } ∧
    (∀ p ∈ [(15, 0), (0, 6), (0, 7), (2 ^ 43, 0)],
      let q := { qw p.1 with c := List.replicate 16 1 }
      let c := { mid with movq := [q], mvLast := p.2 }
      Only c (2 * 5) tryMove (advanceTo c 5) ∧ (advanceTo c 5).movq = [q]) ∧
    (let e := advanceTo mid 5
     bit (qw 15).word 3 = true ∧ e.ctl.tokens.getD (fld (qw 15).word 2 0) 0 = 0 ∧ e.mvLast ≤ 5 ∧
     bit (qw (2 ^ 43)).word 3 = false ∧ bit (qw (2 ^ 43)).word 43 = true ∧ declaredMax e 0 < (1 : W32).toNat) := by
  refine ⟨.inr (by decide +kernel), fun p hp => ⟨only_move ?_ ?_ ⟨rfl, rfl⟩ ?_, rfl⟩, by decide +kernel⟩ <;> revert p <;> decide +kernel

/-- A transfer of lane 0 with `rep` of 1 repeats done. -/
def xfer0 (rep : Nat) (token : Option (Nat × Nat)) (failed : Option (Nat × Nat)) : Xfer where
  id := 0
  kind := .dma
  ctx := 0
  lane := 0
  bundle := 0
  desc := []
  srcBase := 0
  dstBase := 0
  reps := 1
  rep := rep
  rd := 0
  wr := 0
  buf := []
  staged := false
  busy := false
  token := token
  failed := failed

theorem wit_delivery : let c := fun x => { own with mv := ⟨[x], [⟨0, 0, 0, 63, [0]⟩], 1, 0⟩, tokensWaiting := [(7, 0)] }
    let s := fun x => laned (c x) { ctx0 with batch := some batch0 }
    (∀ x ∈ [xfer0 1 none none, xfer0 1 (some (0, 7)) none], (coreAt (s x) 0).mv.xfers[0]? = some x ∧ x.reps ≤ x.rep ∧
      x.busy = false ∧ x.failed = none) ∧
    coreOf (ctxAt (s (xfer0 1 none none)) 0) 0 = some 0 ∧ (xfer0 0 none none).rep < (xfer0 0 none none).reps ∧
    (c (xfer0 1 none none)).tokensWaiting.findIdx? (fun p => p.1 == 7) = some 0 ∧
    (c (xfer0 1 none none)).ctl.tokens.getD 7 0 < 255 ∧ (List.replicate 8 255).getD 7 0 = 255 ∧
    (coreAt (s (xfer0 1 none none)) 0).mv.flagWrites[0]? = some ⟨0, 0, 0, 63, [0]⟩ ∧
    (coreAt (s (xfer0 1 none none)) 0).ctx = some 0 ∧ (0 : Nat) ∈ [0] ∧
    (xfer0 1 none (some (0x0107, 0))).failed = some (0x0107, 0) ∧ (ctxAt (s (xfer0 1 none none)) 0).batch = some batch0 := by
  decide +kernel

/-! ### Witnesses: the matrix engine -/

/-- A tile of one level set, of a code width. -/
def tile0 (width : Nat) : Tile := ⟨[], [], 0, width, false, 0, [], true, false⟩

/-- A run of `m` rows at row 0 of a pass that opened at cycle 5. -/
def runState (m pass npass : Nat) (opened : Bool) : RunState where
  word := qw 0
  m := m
  pass := pass
  npass := npass
  opens := 5
  opened := opened
  row := 0
  acc := 2047
  clear := true
  split := false
  desc := []
  base := 0
  idx := walkStart
  mLimit := 512
  kFirst := 0
  kCount := 128
  nFirst := 0
  nCount := 128
  release := 0

/-- A core with pages 0 to 3 FULL and this matrix engine. -/
def mxCore (m : Mx) : Core := { mid with
  mx := m
  sp := { Sp.reset with tags := [(0, 1), (1, 1), (2, 1), (3, 1)] } }

/-- The access of a row. -/
def rowAcc (r : RunState) : Acc :=
  let a := rowAddress r false r.idx
  ⟨⟨0, r.word.cycle, r.word.bundle, r.pass, r.acc⟩, [(pageOf a, bankOf a)], [], 0⟩

/-- A row that is not its pass's last, the last of a pass that is not the run's last, and the last of the run. -/
theorem wit_rows : ∀ r ∈ [runState 2 0 1 true, runState 1 0 2 true, runState 1 1 2 true],
    let c := mxCore { Mx.reset 0 with run := some r, active := some (tile0 0) }
    let d := arrive c (2 * (r.opens + 1 + r.row))
    flipCore [] c = c ∧ r.opened = true ∧ dueB c (2 * (r.opens + 1 + r.row)) = true ∧ d.mx.run = some r ∧
    d.mx.active = some (tile0 0) ∧ permitB d false false [rowAcc r] = true ∧
    (r.row + 1 < r.m ∨ r.row + 1 = r.m ∧ (r.pass + 1 < r.npass ∨ r.npass ≤ r.pass + 1)) := by
  decide +kernel

/-- A row to commit in the last entry, in a running and in a stopped core; one sum passes the limit of 48 bits. -/
theorem wit_commit : ∀ stop : Bool, let f : FlightRow := ⟨5, 2047, (2 ^ 47) :: List.replicate 127 0, true, true, 0, 128⟩
    let d := mxCore { Mx.reset 0 with flight := [f] }
    let c := { d with regs := { d.regs with stopped := stop } }
    let x := if stop then reach c (2 * f.commit + 1) else arrive c (2 * f.commit + 1)
    c.mx.flight.head? = some f ∧ f.entry < 2048 ∧ Lands c (2 * f.commit + 1) x (if stop then endCycle else After x) ∧
    x.mx.flight = [f] ∧ ¬ (f.sums.getD 0 0 ≤ 2 ^ 47 - 1) := by
  intro stop
  cases stop
  · exact ⟨rfl, by decide, .inl ⟨rfl, due_of (by decide +kernel), rfl⟩, by decide +kernel⟩
  · exact ⟨rfl, by decide, .inr ⟨rfl, by decide +kernel, rfl, rfl⟩, by decide +kernel⟩

/-- The core after the matrix word `q`, which pops no token, has been taken. -/
def takenM (d0 : Core) (q : QWord) (rest : List QWord) : Core := { d0 with
  mq := rest
  mLast := q.cycle + 1
  mLastOps := if q.cycle + 1 = d0.mLast then fld q.word 59 57 :: d0.mLastOps else [fld q.word 59 57] }

theorem takenM_of {d : Core} {q : QWord} {rest : List QWord} (h : d.mLast ≤ q.cycle ∧ bit q.word 3 = false) :
    MatrixTaken d q rest (takenM d q rest) :=
  ⟨.inl h.1, d, .inl ⟨h.2, rfl⟩, rfl⟩

/-- Run words of one row in the last entry: with and without swap, with and without clear, in code and byte mode. -/
theorem wit_run : ∀ swap ∈ [0, 1], ∀ clear ∈ [0, 1], ∀ width ∈ [0, 3],
    let q := qw (2 ^ 57 + swap * 2 ^ 56 + clear * 2 ^ 55 + 2047 * 2 ^ 33)
    let t := { tile0 width with zeroScales := false }
    let c := { mxCore { Mx.reset 0 with active := some t, shadow := some t, accTags := [(2047, t.emax)] } with mq := [q] }
    let d0 := arrive c (2 * q.cycle)
    let d := takenM d0 q []
    ((nextRunWord c).map (·.1) = some q ∧ dueB c (2 * q.cycle) = true ∧ nextRunWord d0 = some (q, []) ∧
      (d0.mLast ≤ q.cycle ∧ bit q.word 3 = false) ∧ d0.mx.run = none ∧ d.mx.nextRun ≤ d.ctl.cycle ∧ bit q.word 32 = false) ∧
    (if bit q.word 56 then d.mx.shadow else d.mx.active) = some t ∧ d.vx.drains = [] ∧ d.mx.loading = none ∧
    2047 % 512 + 1 ≤ 512 ∧ (∀ p ∈ [0, 4095], ownsPage d.pagesLow d.pagesHigh p = true) ∧ accTag d.mx 2047 = t.emax := by decide +kernel

/-- A run word at its cycle in a core with this matrix engine, which then does nothing else. -/
def runOnly (w : Nat) (m : Mx) : Prop :=
  let c := { mxCore m with mq := [qw w] }
  (nextRunWord c).map (·.1) = some (qw w) ∧ Only c (2 * 5) tryRun (advanceTo c 5) ∧
    nextRunWord (advanceTo c 5) = some (qw w, []) ∧ (advanceTo c 5).mLast ≤ 5 ∧ (advanceTo c 5).mx.mxFault = 0 ∧
    (advanceTo c 5).vx.drains = [] ∧ (advanceTo c 5).mx.loading = none ∧ bit (qw w).word 3 = false ∧ bit (qw w).word 32 = false

/-- The run words that stop the core: no shadow tile, too early, entries past the bank's end, no active tile, another tag. -/
def runStops : List (Nat × Mx) :=
  [(2 ^ 57 + 2 ^ 56, Mx.reset 0), (2 ^ 57, { Mx.reset 0 with nextRun := 6 }),
    (2 ^ 57 + 511 * 2 ^ 33 + 1 * 2 ^ 23, { Mx.reset 0 with active := some (tile0 0) }), (2 ^ 57, Mx.reset 0),
    (2 ^ 57, { Mx.reset 0 with active := some { tile0 0 with emax := 31 } })]

theorem wit_run_stops : (∀ p ∈ runStops, runOnly p.1 p.2) ∧
    bit (qw (2 ^ 57 + 2 ^ 56)).word 56 = true ∧ (Mx.reset 0).shadow = none ∧ 5 < 6 ∧ bit (qw (2 ^ 57)).word 56 = false ∧
    512 < 511 % 512 + (fld (qw (2 ^ 57 + 511 * 2 ^ 33 + 1 * 2 ^ 23)).word 31 23 + 1) ∧ (Mx.reset 0).active = none ∧
    accTag (Mx.reset 0) 0 ≠ 31 := by
  refine ⟨fun p hp => ⟨?_, only_run ?_ ?_ ⟨?_, rfl, rfl⟩ ?_, ?_⟩, by decide +kernel⟩ <;> revert p <;> decide +kernel

/-- Passes that open: in code mode, and in byte mode with a reloaded plane, for a further pass and for the last. -/
theorem wit_pass : ∀ r ∈ [runState 1 0 1 false, runState 1 0 2 false, runState 1 1 2 false, runState 1 2 4 false], ∀ width ∈ [0, 3],
    let c := mxCore { Mx.reset 0 with run := some r, active := some (tile0 width), shadow := some (tile0 width) }
    let d := arrive c (2 * r.opens)
    c.mx.run = some r ∧ r.opened = false ∧ dueB c (2 * r.opens) = true ∧ d.mx.run = some r ∧ d.mx.active = some (tile0 width) ∧
    d.mx.loading = none ∧ d.mx.shadow = some (tile0 width) := by decide +kernel

/-- A load word whose record lies in another bank than its tile, both in page 0. -/
theorem wit_load : let q := qw (16 * 2 ^ 20)
    let c := { mxCore (Mx.reset 0) with mq := [q] }
    let d0 := arrive c (2 * q.cycle)
    let d := takenM d0 q []
    (nextLoadWord c).map (·.1) = some q ∧ dueB c (2 * q.cycle) = true ∧ nextLoadWord d0 = some (q, []) ∧
    (d0.mLast ≤ q.cycle ∧ bit q.word 3 = false) ∧ d.mx.loading = none ∧
    addr24 ((q.a.getD (fld q.word 56 53) 0).toNat + 128 * fld q.word 52 36 : Nat) = 0 ∧
    addr24 ((q.a.getD (fld q.word 35 32) 0).toNat + 8 * fld q.word 31 20 : Nat) = 128 ∧
    (∀ a b, permitB d false false [⟨a, [(pageOf 128, bankOf 128)], [], 0⟩, ⟨b, [(pageOf 0, bankOf 0)], [], 0⟩] = true) := by
  have h : permitB (takenM (arrive { mxCore (Mx.reset 0) with mq := [qw (16 * 2 ^ 20)] } (2 * 5)) (qw (16 * 2 ^ 20)) []) false false
      [⟨⟨0, 0, 0, 0, 0⟩, [(pageOf 128, bankOf 128)], [], 0⟩, ⟨⟨0, 0, 0, 0, 0⟩, [(pageOf 0, bankOf 0)], [], 0⟩] = true := by
    decide +kernel
  refine ⟨?_, ?_, ?_, ?_, ?_, ?_, ?_, fun _ _ => h⟩ <;> decide +kernel

/-- A tile load of 64 rows of which `got` have been read. -/
def load0 (got : Nat) : TileLoad :=
  ⟨5, 64, got, [], 0, 0, List.replicate 8 0, false, true, false, 0, 5, 0⟩

/-- The end of a load whose rows have all been read. -/
theorem wit_tile_load : let c := mxCore { Mx.reset 0 with loading := some (load0 64) }
    let d := arrive c (2 * (5 + 64 - 1) + 1)
    c.mx.loading = some (load0 64) ∧ dueB c (2 * (5 + 64 - 1) + 1) = true ∧ d.mx.loading = some (load0 64) ∧ (load0 64).rows ≤ 64 ∧
    (load0 64).hiPlane = true := by decide +kernel

/-- The last row of a load in its cycle, from a page that may be read and one that may not; and a parameter load's bias
values. -/
theorem wit_later_rows : let b : BiasRead := ⟨5, 0, 0, [], 2, ParamBank.empty, 0⟩
    let d := fun (tag : Byte) => advanceTo { mxCore { Mx.reset 0 with loading := some (load0 0) } with
      vx := { Vx.reset with bias := some b }
      sp := { Sp.reset with tags := if tag = 0 then [] else [(0, tag)] } } 5
    ((load0 0).got < (load0 0).rows ∧ (load0 0).start + (load0 0).got = (d 1).ctl.cycle ∧
      permitB (d 1) false false [loadAcc (d 1) (load0 0)] = true) ∧
    (ownsPage (d 0).pagesLow (d 0).pagesHigh 0 = true ∧ (d 0).ctl.cleared ≠ (d 0).ctl.cycle + 1 ∧
      (tagOf (d 0).sp 0).toNat % 4 ≠ 1 ∧ (tagOf (d 0).sp 0).toNat % 4 ≠ 3) ∧
    (load0 1).start + (load0 1).got ≠ (d 1).ctl.cycle ∧
    ((d 1).vx.bias = some b ∧ b.t = (d 1).ctl.cycle ∧
      permitB (d 1) false false [⟨⟨b.port, b.t - 1, b.bundle, 0, 0⟩, accRows b.addr 4, b.mark, 0⟩] = true) := by
  decide +kernel

/-- The pages of 2,048 low and 2,048 high pages are all pages. -/
theorem wit_run_pages : ∀ p < 4096, ownsPage own.pagesLow own.pagesHigh p = true := by
  intro p hp
  show ownsPage 2048 2048 p = true
  unfold ownsPage
  rcases Nat.lt_or_ge p 2048 with h | h
  · simp [h]
  · simp only [Bool.or_eq_true, decide_eq_true_eq]
    omega

/-! ### Witnesses: the vector engine -/

/-- The core after the vector word `q`, which pops no token, has been taken. -/
def takenV (c : Core) (q : QWord) : Core :=
  let x := arrive c (2 * q.cycle)
  { x with
    vq := []
    vLast := q.cycle + 1
    vx := { x.vx with closing := x.vx.closing || bit q.word 4 } }

/-- `VectorWordTaken` of the only word of its queue, as a check. -/
def takenVB (c : Core) (q : QWord) : Bool :=
  c.vq == [q] && dueB c (2 * q.cycle) && (arrive c (2 * q.cycle)).vq == [q] && decide ((arrive c (2 * q.cycle)).vLast ≤ q.cycle) &&
    !bit q.word 3

theorem takenV_of {c : Core} {q : QWord} (h : takenVB c q = true) : VectorWordTaken c q (takenV c q) := by
  simp only [takenVB, Bool.and_eq_true, beq_iff_eq, decide_eq_true_eq, Bool.not_eq_true'] at h
  exact ⟨by rw [h.1.1.1.1]; rfl, _, [], _, due_of h.1.1.1.2, h.1.1.2, h.1.2, .inl ⟨h.2, rfl⟩, rfl⟩

/-- The running word and the core when the first of `n` vectors of word `q` issues. -/
def firstRun (c : Core) (q : QWord) (n : Nat) : VRun :=
  let x := takenV c q
  ⟨q, q.cycle, n, 0, dstBind x (dstCodes q.word).1, dstBind x (dstCodes q.word).2⟩

def firstTurn (c : Core) (cls : Nat) (q : QWord) (n : Nat) : Core :=
  let x := takenV c q
  { x with vx := { x.vx with
    runs := x.vx.runs ++ [firstRun c q n]
    funcFree := if cls = 1 ∧ pairForm q.word = true then q.cycle + 2 * n else x.vx.funcFree } }

/-- `RunLengthIs`, as a check. -/
def lengthB (c : Core) (q : QWord) (cls n : Nat) : Bool :=
  if cls ≤ 2 then
    if bit q.word 22 then decide ((q.c.getD (fld q.word 16 13) 0).toNat ≤ declaredMax c (fld q.word 12 7)) &&
      n == min (q.c.getD (fld q.word 16 13) 0).toNat 512
    else n == fld q.word 21 13 + 1
  else if cls = 3 then n == 128
  else cls == 4 && n == fld q.word 19 13 + 1

theorem length_of {c : Core} {q : QWord} {cls n : Nat} (k : classOf q.word = cls) (h : lengthB c q cls n = true) : RunLengthIs c q n := by
  subst k
  unfold lengthB at h
  refine ⟨fun a b => ?_, fun a b => ?_, fun a => ?_, fun a => ?_⟩
  · rw [if_pos a, if_pos b] at h
    simpa using h
  · rw [if_pos a, b] at h
    simpa using h
  · simpa [a] using h
  · simpa [a] using h

/-- The premises of a first vector, as a check. -/
def turnB (c : Core) (cls n : Nat) (q : QWord) : Bool :=
  takenVB c q && classOf q.word == cls && n != 0 && c.vx.runs.isEmpty && lengthB (takenV c q) q cls n &&
    !popsEmpty (takenV c q) q.word && (cls != 1 || decide ((takenV c q).vx.funcFree ≤ q.cycle))

theorem turn_of {c : Core} {cls n : Nat} {q : QWord} (h : turnB c cls n q = true) :
    VectorTurn c cls 0 (firstRun c q n) (firstTurn c cls q n) := by
  simp only [turnB, Bool.and_eq_true, beq_iff_eq, decide_eq_true_eq, Bool.not_eq_true', Bool.or_eq_true, bne_iff_ne,
    List.isEmpty_iff] at h
  obtain ⟨⟨⟨⟨⟨⟨h1, h2⟩, h3⟩, h4⟩, h5⟩, h6⟩, h7⟩ := h
  exact ⟨h2, .inr ⟨by rw [h4]; rfl, takenV c q, takenV_of h1, rfl, rfl, h3, length_of h2 h5, rfl, rfl, h6, fun e => h7.resolve_left (absurd e),
    rfl⟩⟩

/-- Read ends at page 0 (FULL) and write ends at page 1 (EMPTY), each in a bank of its own; both transpose buffers full. -/
def vxCore : Core := { mid with
  vx := { Vx.reset with
    ends := (List.range 6).map some
    binds := (List.range 6).map fun i => ⟨i, i, [], BitVec.ofNat 24 (if i < 4 then 1024 * i else 4096 + 1024 * (i - 4)), walkStart, 0⟩
    nextBind := 6
    lb := List.replicate 4 [List.replicate 128 0x3F800000]
    t0 := ⟨List.replicate 128 (List.replicate 128 0), true, false, 3, 127, 6⟩
    t1 := ⟨List.replicate 128 (List.replicate 128 0), true, false, 3, 0, 3⟩ }
  sp := { Sp.reset with tags := [(0, 1)] } }

/-- The same with a vector word at the head of the queue, or with a running word that has issued `i` of its `n` vectors. -/
def vxWord (w : Nat) : Core := { vxCore with vq := [qw w] }
def vxRun (r : VRun) : Core := { vxCore with vx := { vxCore.vx with runs := [r] } }

/-- FMA, FUNC and REDUCE words: three read ends to WE0 and LB0, three queues to WE1, and the last S register; each with
element types of one to four rows, INT8 in and BF16 pairs out among them. -/
def opWords (cls : Nat) : List Nat :=
  [2 ^ 47 + 2 * 2 ^ 42 + 3 * 2 ^ 37 + 2 ^ 33 + 4 * 2 ^ 29, 8 * 2 ^ 47 + 9 * 2 ^ 42 + 11 * 2 ^ 37 + 2 * 2 ^ 33 + 4 * 2 ^ 26 + 6 * 2 ^ 23,
    31 * 2 ^ 47 + 16 * 2 ^ 42 + 31 * 2 ^ 37 + 6 * 2 ^ 26 + 5 * 2 ^ 23 + 1 * 2 ^ 13].map (cls * 2 ^ 56 + ·)

/-- The premises of a vector beyond its turn. -/
def vectorB (d : Core) (r : VRun) : Bool :=
  !popsEmpty d r.word.word && !unboundUse d r.word.word && permitB d false false (readAccs d r)

/-- First vectors of words of each class, by an immediate length, by a counter at its declared maximum of 600, and the last of a
running word of 512. -/
theorem wit_vectors : ∀ cls ∈ [0, 1, 2], ∀ w ∈ opWords cls, let n := fld (qw w).word 21 13 + 1
    turnB (vxWord w) cls n (qw w) = true ∧ vectorB (firstTurn (vxWord w) cls (qw w) n) (firstRun (vxWord w) (qw w) n) = true := by
  decide +kernel

theorem wit_vectors_counter : let q := { qw (2 ^ 22 + 2 * 2 ^ 13 + 2 * 2 ^ 7 + 16 * 2 ^ 47 + 4 * 2 ^ 33) with c := List.replicate 16 600 }
    let c := { vxCore with
      vq := [q]
      banks := [⟨0, [], [], [], [(2, 1, 600)]⟩] }
    turnB c 0 512 q = true ∧ vectorB (firstTurn c 0 q 512) (firstRun c q 512) = true := by decide +kernel

/-- The core when the last of the vectors of running word `r` is due. -/
def lastTurn (r : VRun) : Core :=
  let c := { vxRun r with ctl := { mid.ctl with offset := 9999 } }
  arrive c (vrunKey r)

/-- A later vector is due. -/
def laterB (r : VRun) : Bool :=
  dueB { vxRun r with ctl := { mid.ctl with offset := 9999 } } (vrunKey r) && (lastTurn r).vx.runs.contains r && vectorB (lastTurn r) r

theorem wit_vectors_run : ∀ cls ∈ [0, 1, 2], let r : VRun := ⟨qw (cls * 2 ^ 56 + 2 ^ 47 + 2 * 2 ^ 42 + 2 ^ 33), 5, 512, 511, 4, 0⟩
    classOf r.word.word = cls ∧ (vxRun r).vx.runs[0]? = some r ∧ laterB r = true := by
  decide +kernel

/-- A fill's first row and its last; a read of the last column, in each buffer. -/
theorem wit_transpose : (∀ x ∈ [1, 8, 31], ∀ b ∈ [0, 1], let w := 3 * 2 ^ 56 + b * 2 ^ 55 + x * 2 ^ 47 + 3 * 2 ^ 26 + 127 * 2 ^ 13
      turnB (vxWord w) 3 128 (qw w) = true ∧ vectorB (firstTurn (vxWord w) 3 (qw w) 128) (firstRun (vxWord w) (qw w) 128) = true) ∧
    (let r : VRun := ⟨qw (3 * 2 ^ 56 + 2 ^ 47 + 127 * 2 ^ 13), 5, 128, 127, 0, 0⟩
     classOf r.word.word = 3 ∧ laterB r = true) ∧
    ∀ b ∈ [0, 1], let w := 4 * 2 ^ 56 + b * 2 ^ 55 + 1 * 2 ^ 33 + 4 * 2 ^ 29 + 127 * 2 ^ 13
      let d := firstTurn (vxWord w) 4 (qw w) 128
      turnB (vxWord w) 4 128 (qw w) = true ∧ unboundUse d (qw w).word = false ∧
        (if bit (qw w).word 55 then d.vx.t1 else d.vx.t0).full = true ∧
        (if bit (qw w).word 55 then d.vx.t1 else d.vx.t0).fillEnd + 2 ≤ d.ctl.cycle := by decide +kernel

/-- A parameter load through RE3 into each bank. -/
theorem wit_pload : ∀ b ∈ [0, 1], let w := 5 * 2 ^ 56 + b * 2 ^ 55 + 3 * 2 ^ 53
    let d := takenV (vxWord w) (qw w)
    let y : EndBind := ⟨3, 3, [], 3072, walkStart, 0⟩
    takenVB (vxWord w) (qw w) = true ∧ classOf (qw w).word = 5 ∧ endBind d (fld (qw w).word 54 53) = some y ∧ d.vx.drains = [] ∧
      permitB d false false [⟨⟨5, 5, 0, 0, 0⟩, accRows (bindAddr y) 2, [], 0⟩] = true := by
  decide +kernel

/-- Drain words of one entry, the bank's last, to LB3 and to WE1, with the parameter bank's scales and with scales of their own;
one takes its length from a counter at its maximum. -/
def drainWords : List QWord :=
  [qw (6 * 2 ^ 56 + 3 * 2 ^ 54 + 511 * 2 ^ 45 + 7 * 2 ^ 16 + 2 ^ 28), qw (6 * 2 ^ 56 + 511 * 2 ^ 45 + 2 * 2 ^ 16 + 2 ^ 27 + 3 * 2 ^ 25),
    { qw (6 * 2 ^ 56 + 2 ^ 44 + 2 * 2 ^ 35 + 2 * 2 ^ 29 + 2 * 2 ^ 16 + 2 ^ 15) with c := List.replicate 16 512 }]

def drainCore (q : QWord) : Core := { vxCore with
  vq := [q]
  vx := { vxCore.vx with
    p0 := { vxCore.vx.p0 with ready := true }
    p1 := { vxCore.vx.p1 with
      ready := true
      readyAt := 5 } }
  banks := [⟨0, [], [], [], [(2, 1, 512)]⟩] }

theorem wit_drain : ∀ q ∈ drainWords, let d := takenV (drainCore q) q
    let w := q.word
    let m := if bit w 44 then (q.c.getD (fld w 38 35) 0).toNat else fld w 43 35 + 1
    let p := if fld w 28 28 = 1 then d.vx.p1 else d.vx.p0
    takenVB (drainCore q) q = true ∧ classOf w = 6 ∧ (bit w 44 = true → m ≤ declaredMax d (fld w 34 29)) ∧ m ≠ 0 ∧
      fld w 53 45 + m ≤ 512 ∧ p.ready = true ∧ p.readyAt ≤ d.ctl.cycle ∧ d.vx.drains = [] ∧ pendingRows d.mx (fld w 55 54) = 0 ∧
      turnCycle d.mx (fld w 55 54) ≠ some d.ctl.cycle ∧ endBind d (fld w 26 25) ≠ none ∧ d.vx.ends.getD 5 none ≠ none ∧
      permitB d false false [⟨⟨2, 5, 0, 0, 0⟩, accRows (bindAddr ((endBind d (fld w 26 25)).getD ⟨0, 0, [], 0, [], 0⟩)) 4, [], 0⟩] = true := by
  decide +kernel

/-- A result in flight that is due at cycle 9. -/
def res0 (dst0 dst1 : Nat) (drain : Bool) : VRes where
  iss := 5
  due := 9
  dst0 := dst0
  dst1 := dst1
  bind0 := 4
  bind1 := if dst1 = 2 then 5 else 0
  rows := 4
  value := List.replicate 128 0x80000001
  bytes := List.replicate 512 1
  mask := if drain then some (1, 127, 4) else none
  live := true
  drain := drain
  bundle := 0
  wcycle := 5

/-- A core with a result and 7 vectors in each queue. -/
def resCore (r : VRes) (stop : Bool) : Core := { vxCore with
  vx := { vxCore.vx with
    results := [r]
    lb := List.replicate 4 (List.replicate 7 (List.replicate 128 0)) }
  regs := { vxCore.regs with stopped := stop } }

/-- The core at the event of a key: where it arrives, or where a stopped core's work comes to. -/
def landAt (c : Core) (stop : Bool) (key : Nat) : Core := if stop then reach c key else arrive c key

/-- `Lands`, as a check. -/
def landsB (c : Core) (key : Nat) : Bool := if c.regs.stopped then isNext c key else dueB c key

theorem lands_of {c : Core} {key : Nat} (h : landsB c key = true) :
    Lands c key (landAt c c.regs.stopped key) (if c.regs.stopped then endCycle else After (landAt c c.regs.stopped key)) := by
  unfold landsB at h
  unfold landAt
  cases e : c.regs.stopped with
  | false =>
    rw [e] at h
    exact .inl ⟨e, due_of h, rfl⟩
  | true =>
    rw [e] at h
    exact .inr ⟨e, h, rfl, rfl⟩

/-- The result's write ends are bound at row boundaries. -/
def boundB (d : Core) (r : VRes) : Bool := (resDsts r).all fun p => (bindById d p.2).any fun b => bindAddr b % 128 == 0

theorem writable_of {d : Core} {r : VRes} (h : memWf (spWDflt d.sp) d.sp.cells = true ∧ boundB d r = true ∧ r.rows = 4 ∧
    r.bytes.length = 512 ∧ r.mask.all (fun m => m.2.2 == 4) = true) : Writable d r := by
  obtain ⟨h1, h2, h3, h4, h5⟩ := h
  refine ⟨h1, fun p hp => ?_, .inr (.inr h3), by rw [h4, h3], fun m hm => ?_⟩
  · have := List.all_eq_true.mp h2 p hp
    cases e : bindById d p.2 with
    | none =>
      rw [e] at this
      cases this
    | some b =>
      rw [e] at this
      exact ⟨b, rfl, by simpa using this⟩
  · rw [hm] at h5
    rw [h3]
    simpa using h5

/-- Results for two queues, for WE0 and a queue (the push comes first and leaves the write), and for both write ends, in a running
and in a stopped core. -/
theorem wit_results : ∀ stop : Bool, ∀ r ∈ [res0 4 5 false, leftRes (res0 1 4 false), res0 1 2 false], let c := resCore r stop
    let d := landAt c stop (resKey r)
    let left := { d with vx := { d.vx with results := d.vx.results.erase (leftRes r) } }
    firstResult false c.vx.results = some r ∧ landsB c (resKey r) = true ∧ d.vx.lb.length = 4 ∧ d.regs.stopped = c.regs.stopped ∧
    memWf (spWDflt d.sp) d.sp.cells = true ∧ boundB d (leftRes r) = true ∧ r.live = true ∧
    permitB d true r.mask.isSome (writeAccs left (leftRes r)) = true ∧
    ∀ y < 8, 4 ≤ y → (d.vx.lb.getD (y - 4) []).length + [r.dst0, r.dst1].count y ≤ 8 := by
  decide +kernel

/-- A push that leaves a write, a push into a full queue, and a stopped core's write to a page that is FULL. -/
theorem wit_pushes : (let r := res0 1 4 false
      splitRes r = true ∧ (resCore r false).vx.lb.length = 4 ∧
      ∀ y < 8, 4 ≤ y → ((resCore r false).vx.lb.getD (y - 4) []).length + [r.dst0, r.dst1].count y ≤ 8) ∧
    8 ≤ ([List.replicate 8 (List.replicate 128 (0 : W32))].getD 0 []).length ∧
    (let r := res0 1 0 false
     let c := resCore r true
     let x := { c with sp := { c.sp with tags := [(0, 1), (1, 1)] } }
     let d := landAt x true (resKey r)
     landsB x (resKey r) = true ∧ x.regs.stopped = true ∧ isWe r.dst0 = true ∧
     ∃ a ∈ accPages (rowsOf (writeAccs { d with vx := { d.vx with results := d.vx.results.erase (leftRes r) } } (leftRes r))),
       (tagOf d.sp a).toNat % 4 ≠ 0) := by
  decide +kernel

/-- The last entry of a drain of 512, masked and not, of each output type. -/
def drain0 (dst out : Nat) (on : Bool) : DrainState where
  word := qw 0
  t := 5
  m := 512
  i := 511
  bank := 0
  base := 0
  entries := List.replicate 512 []
  tags := List.replicate 512 0
  perEntry := false
  inScale := 0
  inScales := []
  scales := []
  dst := dst
  out := out
  act := 7
  pbank := 1
  nFirst := 1
  nCount := 127
  mBits := List.replicate 512 on
  bind := 5

def outCore (x : DrainState) : Core := { vxCore with
  vx := { vxCore.vx with drains := [x] }
  ctl := { mid.ctl with offset := 9999 } }

/-- An entry for LB3 in its cycle; one read in a drain's first cycle, with no scales of its own. -/
theorem wit_drain_out : (∀ out ∈ [0, 1, 2, 3], ∀ on : Bool, let x := drain0 7 out on
    let c := outCore x
    let d := arrive c (drainOutKey x)
    flipCore [] c = c ∧ firstResult true c.vx.results = none ∧ firstDrain c.vx.drains = some x ∧ dueB c (drainOutKey x) = true ∧
      c.regs.stopped = false ∧ (d.vx.lb.getD 3 []).length < 8) ∧
    (let x := { drain0 7 0 true with entries := [] }
     x ∈ (outCore x).vx.drains ∧ x.entries.length < x.m ∧ x.perEntry = false) := by
  decide +kernel

/-- A drained entry's write in its cycle, in a running and a stopped core, and of a drain whose entry is counted just before. -/
theorem wit_drain_write : (∀ stop : Bool, let r := res0 1 0 true
    let c := resCore r stop
    let d := landAt c stop (resKey r)
    firstResult true c.vx.results = some r ∧ firstDrain c.vx.drains = none ∧ landsB c (resKey r) = true ∧
    firstResult true d.vx.results = some r ∧ isWe r.dst0 = true ∧ isWe r.dst1 = false ∧ isLb r.dst1 = false ∧
    d.regs.stopped = c.regs.stopped ∧ memWf (spWDflt d.sp) d.sp.cells = true ∧ boundB d r = true ∧ r.mask.all (fun m => m.2.2 == 4) = true ∧
    permitB d true r.mask.isSome (writeAccs { d with vx := { d.vx with results := d.vx.results.erase r } } r) = true) ∧
    ∀ on : Bool, let x := { drain0 2 3 on with act := 0 }
      let c := outCore x
      let d := arrive c (drainOutKey x)
      firstResult true c.vx.results = none ∧ firstDrain c.vx.drains = some x ∧ isWe x.dst = true ∧ dueB c (drainOutKey x) = true ∧
      (firstResult true d.vx.results).map (fun r => (r.live, r.dst0, r.rows)) = some (on, 2, 4) := by
  decide +kernel

theorem wit_bind : let w := 7 * 2 ^ 56 + 5 * 2 ^ 53
    classOf (qw w).word = 7 ∧ fld (qw w).word 55 53 < 6 ∧ takenVB (vxWord w) (qw w) = true ∧
    (takenV (vxWord w) (qw w)).vx.ends.length = 6 := by
  decide +kernel

/-! ### Witnesses: the scratchpad's unscheduled side and bisection -/

/-- A request for the last 64 bytes of row 0 of page 0, found ready at cycle 0. -/
def req0 (source : Nat) (write tagOp : Bool) : Req where
  source := source
  ctx := 0
  addr := 64
  len := 64
  write := write
  data := if write then List.replicate 64 7 else []
  mark := true
  tagOp := tagOp
  since := 0
  ready := some 0
  core := 0
  id := 0

/-- A core whose page 0 has this tag and these wrong bits, with two requests, one for a bank of its own. -/
def reqCore (tag : Byte) (flips : Flips) (r : Req) : Core := { mid with
  sp := { Sp.reset with
    reqs := [{ req0 0 false false with addr := 1024 }, r]
    flips := flips
    coded := if tag.getLsbD 2 then [0] else []
    tags := if tag = 0 then [] else [(0, tag)] } }

/-- A bank's access stands next, in the present cycle and in the cycle left to it, for a core with nothing to report. -/
def nextB (s : State) (b : Nat) (job : Nat × BankJob) (p : Core → Bool) : Bool :=
  pickJob (coreAt s 0).sp b == some job && (freeState s 0 [b]).any fun t =>
    pickJob (coreAt t 0).sp b == some job && (coreAt t 0).reports.isEmpty && memWf (spWDflt (coreAt t 0).sp) (coreAt t 0).sp.cells &&
      memWf zeroDflt (coreAt t 0).sp.tags && p (coreAt t 0)

/-- Reads, writes and tag operations of both sources, the page FULL, EMPTY or POISON, in class A and W. -/
theorem wit_unscheduled : ∀ source ∈ [0, 1], ∀ x ∈ [(false, false, (1 : Byte)), (true, false, 0), (true, true, 0), (false, false, 3), (false, false, 5)],
    let r := req0 source x.1 x.2.1
    let c := reqCore x.2.2 [] r
    nextB (one c) (if x.2.1 then 32 else 0) (source, .request 1) (fun d => decide (d.sp.reqs[1]? = some r) && rowCheckOf d.sp 0 0 == (0, false) &&
        (tagPermits r.write (tagOf d.sp 0) || tagState (tagOf d.sp 0) == 3)) = true ∧
      reqBank r = (if x.2.1 then 32 else 0) ∧ reqReady c.sp r = true ∧ r.addr + r.len ≤ 16777216 ∧ r.addr % 128 + r.len ≤ 128 ∧
      (x.1 = true → r.data.length = r.len) := by decide +kernel

/-- The sources' turns at a bank that has served each of them last, the scrubber among them. -/
theorem wit_turns : ∀ last ∈ [0, 1, 2, 3], let r := req0 1 false false
    let sp := { (reqCore 1 [] r).sp with turns := [(0, last)], corr := [⟨0, 0, 0⟩] }
    jobOf sp 0 1 = some (.request 1) ∧ jobOf sp 0 2 = some (.writeBack ⟨0, 0, 0⟩) ∧ jobOf sp 0 0 = none ∧
    pickJob sp 0 = some (if last = 1 then (2, .writeBack ⟨0, 0, 0⟩) else (1, .request 1)) := by decide +kernel

/-- A row with one wrong bit, with two in one word, and, in class W, with three. -/
theorem wit_unscheduled_checks : ∀ x ∈ [((1 : Byte), [(0, 0)], 1), (1, [(0, 0), (0, 255)], 2), (5, [(0, 0), (0, 1), (0, 2)], 2)],
    let r := req0 0 false false
    nextB (one (reqCore x.1 x.2.1 r)) 0 (0, .request 1) (fun d => rowCheckOf d.sp 0 0 == (x.2.2, false) &&
      tagPermits false (tagOf d.sp 0)) = true := by decide +kernel

/-- Scheduled accesses that are permitted; of a page that is not the lane's; of a POISON page, and one that refuses; on a bank in
use; with an error corrected, and one that cannot be. -/
theorem wit_scheduled : let d := fun (tag : Byte) (flips : Flips) => advanceTo (reqCore tag flips (req0 0 false false)) 5
    let a : Acc := ⟨⟨0, 5, 0, 0, 0⟩, [(0, 0)], [], 0⟩
    let busy := { d 1 [] with sp := { (d 1 []).sp with busy := [⟨0, ⟨1, 4, 0, 0, 0⟩⟩] } }
    permitB (d 1 []) false false [a] = true ∧ permitB (d 0 []) true true [a] = true ∧
    ownsPage 0 0 0 = false ∧ ((tagOf (d 3 []).sp 0).toNat % 4 = 3 ∧ ownsPage (d 3 []).pagesLow (d 3 []).pagesHigh 0 = true) ∧
    ((tagOf (d 1 []).sp 0).toNat % 4 ≠ 3 ∧ (tagOf (d 1 []).sp 0).toNat % 4 ≠ 0 ∧ (d 1 []).ctl.cleared ≠ (d 1 []).ctl.cycle + 1) ∧
    (busy.sp.busy.find? (fun b => b.bank == 0)).isSome = true ∧ (tagOf busy.sp 0).toNat % 4 = 1 ∧
    rowCheckOf (d 1 [(0, 7)]).sp 0 0 = (1, false) ∧ rowCheckOf (d 1 [(0, 7), (0, 8)]).sp 0 0 = (2, false) ∧
    (d 1 [(0, 7)]).sp.busy = [] := by decide +kernel

/-- A context with an image of 8 pages in each range, on core 0. -/
def paged (c : Core) : State := laned c { ctx0 with image := some (tinyImage 1) }

/-- Another agent's access: of a page the context does not own, of a POISON page, of one that refuses, of two rows that it reads,
and of part of one that it writes. -/
theorem wit_outside : let s := fun (tag : Byte) => paged (reqCore tag [] (req0 0 false false))
    let rows := fun (a n : Nat) => accRows (a - a % 128) ((a % 128 + n + 127) / 128)
    ctxOwns (s 0) 0 0 8 = false ∧ (∀ r ∈ rows 0 256, ctxOwns (s 3) 0 0 r.1 = true ∧ tagState (tagOf (coreAt (s 3) 0).sp r.1) = 3) ∧
    (∀ r ∈ rows 0 256, tagState (tagOf (coreAt (s 0) 0).sp r.1) ≠ 3 ∧ tagPermits false (tagOf (coreAt (s 0) 0).sp r.1) = false) ∧
    (∀ p ∈ [(false, (1 : Byte), 0, 256), (true, 0, 100, 56)], let a := p.2.2.1
      (∀ r ∈ rows a p.2.2.2, ctxOwns (s p.2.1) 0 0 r.1 = true ∧ tagPermits p.1 (tagOf (coreAt (s p.2.1) 0).sp r.1) = true) ∧
      ((atFree 64 (coreAt (s p.2.1) 0) ((rows a p.2.2.2).map (·.2))).any fun c =>
        c.reports.isEmpty && (rows a p.2.2.2).all (fun x => rowCheckOf c.sp x.1 x.2 == (0, false)) &&
          memWf (spWDflt c.sp) c.sp.cells) = true) ∧
    atFree 64 { reqCore 1 [] (req0 0 false false) with movq := [qw 0], ctl := { mid.ctl with cycle := 6 } } [0] = none := by decide +kernel

/-- Packets to core 0 behind one of another source, for a page that the context of the request owns, and one it does not. -/
theorem wit_mesh : let p : MeshPkt := ⟨1, 0, req0 1 true false⟩
    let q : MeshPkt := ⟨2, 0, { req0 1 true false with addr := 32768 }⟩
    let x := { ctx0 with image := some (tinyImage 1) }
    let s := { laned { own with pagesHigh := 0 } x with mesh := [q, p] }
    s.mesh[1]? = some p ∧ p.dst = 0 ∧ (∀ q ∈ s.mesh.take 1, q.src ≠ p.src) ∧ s.mesh[0]? = some q ∧
      ctxOwns s p.req.ctx 0 (pageOf p.req.addr) = true ∧ ctxOwns s q.req.ctx 0 (pageOf q.req.addr) = false := by decide +kernel

/-- A corrected row waits in the last bank; a request has waited its 1,024 cycles there, or one cycle less. -/
theorem wit_maintenance : let w : WriteBack := ⟨4095, 31, 0⟩
    let c := { mid with sp := { Sp.reset with corr := [⟨0, 30, 0⟩, w] } }
    let r := { req0 0 false false with addr := 128 * 8 * 31 }
    let d := fun n => { own with
      ctl := { own.ctl with cycle := n }
      sp := { Sp.reset with
        reqs := [r]
        tags := [(7, 1)] } }
    nextB (one c) 31 (2, .writeBack w) (fun _ => true) = true ∧ tagState (tagOf c.sp 4095) ≠ 3 ∧
      starvedBanks (d 1024) = [reqBank r] ∧ holdCause (d 1024) = 0 ∧ (d 1024).regs.stopped = false ∧ starvedBanks (d 1023) = [] ∧
      oldestJob (d 1024).sp (reqBank r) = some (0, .request 0) ∧
      holdCause { d 1024 with hold := { HoldState.none with late := true } } ≠ 0 := by decide +kernel

/-- A core with the scrubber at the last row, whose page is in class W, with these wrong bits. -/
def scrubCore (tag : Nat) (flips : Flips) : Core := { mid with sp := { Sp.reset with
  scrubRow := 4095
  flips := flips
  coded := (List.range 32).map fun b => rowNo 4095 b
  tags := [(4095, BitVec.ofNat 8 tag)] } }

/-- The scrubber at a FULL class W page and at another; every row right, and one row with an error it corrects or cannot. -/
theorem wit_scrub : (∀ tag ∈ [5, 1], let c := scrubCore tag []
      coreClock (one c) = true ∧ c.sp.scrubOn = true ∧ c.sp.scrubRow.toNat = 4095 ∧
      (tagClassW (tagOf c.sp 4095) = true ∧ tagState (tagOf c.sp 4095) = 1 ↔ tag = 5)) ∧
    (∀ p ∈ [([], 0), ([(rowNo 4095 31, 0)], 1), ([(rowNo 4095 31, 0), (rowNo 4095 31, 1), (rowNo 4095 31, 2)], 2)], ∀ left ∈ [0, 31],
      let x := scrubCore 5 p.1
      let c := { x with sp := { x.sp with scrubDone := List.range left } }
      scrubTurn c.sp 31 = true ∧ 31 ∉ c.sp.scrubDone ∧ ((∀ y < 32, y = 31 ∨ y ∈ c.sp.scrubDone) ↔ left = 31) ∧
      ((freeState (one c) 0 [31]).any fun t =>
        let d := coreAt t 0
        decide (d.sp.scrubRow = 4095) && decide (d.sp.scrubDone = c.sp.scrubDone) && d.reports.isEmpty && tagOf d.sp 4095 == 5 &&
          memWf zeroDflt d.sp.tags && rowCheckOf d.sp 4095 31 == (p.2, false)) = true) ∧
    scrubTurn { (scrubCore 5 []).sp with corr := [⟨4095, 31, 0⟩] } 31 = false := by decide +kernel

/-- The last page waits to be zeroed: every row at once, the last row of it, and a page that has become POISON. -/
theorem wit_zero : ∀ p ∈ [((0 : Byte), []), (0, List.range 31), (3, [])],
    let j : ZeroJob := ⟨4095, p.2, 0⟩
    let c := { mid with sp := { Sp.reset with
      zeroing := [j]
      tags := if p.1 = 0 then [] else [(4095, p.1)] } }
    let banks := (List.range 32).filter fun b => pickJob c.sp b == some (2, .zero j)
    c.sp.zeroing.find? (fun x => x.page == 4095) = some j ∧ banks ≠ [] ∧ (∀ b < 32, b ∈ j.banks ∨ b ∈ banks) ∧
    ((freeState (one c) 0 banks).any fun t => memWf (spWDflt (coreAt t 0).sp) (coreAt t 0).sp.cells && memWf zeroDflt (coreAt t 0).sp.tags) = true ∧
    (∀ x ∈ c.sp.zeroing, x.page ≠ 0) := by decide +kernel

theorem wit_tag_index : memWf zeroDflt own.sp.tags = true ∧ RegPath.pf0 ≠ RegPath.firmware := by decide +kernel

/-- A session with a halted batch of context 0, a stopped core shown in each space, and one not stopped. -/
theorem wit_bisection : let c := { own with regs := { own.regs with stopped := true } }
    let b := { batch0 with lanesHalted := [0] }
    let t := laned c { ctx0 with batch := some b, image := some (tinyImage 1) }
    let s := { t with
      sc := { t.sc with observe := true }
      host := { t.host with dbgFetch := true } }
    (∀ v ∈ [0xC0000000, 0x80000000], (BitVec.ofNat 32 v).toNat.testBit 31 = true ∧ (BitVec.ofNat 32 v).toNat % 16 = 0) ∧
      (0x80000000 : W32).toNat.testBit 30 = false ∧ s.sc.observe = true ∧ (ctxAt s 0).batch = some b ∧
      (∀ p ∈ (ctxAt s 0).placed, p.1 ∈ b.lanesEnded ∨ p.1 ∈ b.lanesHalted) ∧
      b.lanesHalted ≠ [] ∧ b.failing = false ∧ s.host.dbgFetch = true ∧ s.host.dbgCtx.toNat = 0 ∧ coreOf (ctxAt s 0) 0 = some 0 ∧
      (coreAt s 0).regs.stopped = true ∧ (∀ space ∈ [1, 2, 3], (windowBytes (coreAt s 0) space 2047).isSome = true) ∧
      windowBytes (coreAt s 0) 1 2048 = none ∧ (coreAt (laned own ctx0) 0).regs.stopped = false := by decide +kernel

/-- Pages of a stopped core for the window: one that may be read, one that must wait, one that is POISON, and one not owned. -/
theorem wit_dbg_window : let s := fun (tag : Byte) => paged { own with
      regs := { own.regs with stopped := true }
      sp := { Sp.reset with tags := if tag = 0 then [] else [(0, tag)] } }
    let read := fun (tag : Byte) (page : Nat) => (outsideAccess (s tag) 0 0 (4096 * page) 4096 false []).map fun x => x.2.isSome
    (read 1 0 = some true ∧ tagState (tagOf (coreAt (s 1) 0).sp 0) ≠ 3) ∧
    read 0 0 = none ∧ tagState (tagOf (coreAt (s 3) 0).sp 0) = 3 ∧ read 1 8 = some false := by decide +kernel

/-! ### Witnesses: rings and the driver -/

/-- A ring entry of 64 bytes (R466). -/
def ent (idx op ctx : Nat) (rest : Bytes) (g : EntryStage) : RingEntry :=
  ⟨idx, (toLe 1 op ++ [0] ++ toLe 1 ctx ++ [0] ++ toLe 4 77 ++ rest ++ List.replicate 56 0).take 64, g⟩

/-- A ring of 16 entries at work. -/
def ring0 (es : List RingEntry) : Ring := { Ring.reset with
  state := .active
  enable := true
  sqBase := 0x1000
  cqBase := 0x2000
  sizeInUse := 4
  irqEn := true
  vector := 127
  entries := es }

/-- Ring 0 with these entries, and contexts. -/
def ringed (r : Ring) (xs : List Ctx) : State := { up with host := { up.host with
  rings := [r, Ring.reset]
  ctxs := xs } }

/-- A sparse memory with these bytes from an address on, of which 0 is unlisted. -/
def memOf (a : Nat) (bs : Bytes) : Mem := (bs.zipIdx.filter (·.1 != 0)).map fun p => (a + p.2, p.1)

/-- A begun entry at index 15 behind a finished one. -/
def done0 : RingEntry := ent 14 0 0 [] (.done 0 0)
def taking (op ctx : Nat) (rest : Bytes) (xs : List Ctx) : State := ringed (ring0 [done0, ent 15 op ctx rest .begun]) xs

theorem taken_of {op ctx : Nat} {rest : Bytes} {xs : List Ctx} (h : (rdLe (ent 15 op ctx rest .begun).bytes 0 1 == op) = true) :
    Taken (taking op ctx rest xs) 0 op [done0] (ent 15 op ctx rest .begun) [] :=
  ⟨Nat.zero_lt_succ _, rfl, rfl, rfl, beq_iff_eq.mp h,
    fun x hx => by simp only [List.mem_singleton] at hx; subst hx; exact fun hh => absurd hh.1 (by decide),
    fun x hx => by simp only [List.append_nil, List.mem_singleton] at hx; subst hx; exact (by decide : (14 : Nat) ≠ 15)⟩

/-- An entry of each opcode is taken by firmware. -/
theorem wit_taken : ∀ op ∈ [0x00, 0x01, 0x02, 0x03, 0x04, 0x05, 0x06, 0x07, 0x10, 0x20, 0x21, 0x22, 0x23],
    Taken (taking op 0 [] [ctx0]) 0 op [done0] (ent 15 op 0 [] .begun) [] := by
  have codes : ∀ op ∈ [0x00, 0x01, 0x02, 0x03, 0x04, 0x05, 0x06, 0x07, 0x10, 0x20, 0x21, 0x22, 0x23],
      (rdLe (ent 15 op 0 [] .begun).bytes 0 1 == op) = true := by decide +kernel
  exact fun op h => taken_of (codes op h)

/-- Index 15 of a ring of 16 begins: a good entry, one with a bad byte, and one behind an open entry without the overlap flag.
Completions that fit, wrap, and find the completion ring full. -/
theorem wit_ring_entries : let r := fun (es : List RingEntry) => { ring0 es with nextIdx := 15 }
    let s := fun (b : Bytes) (es : List RingEntry) =>
      let t := ringed (r es) []
      { t with hbm := { t.hbm with cells := memOf (0x1000 + 64 * 15) b } }
    let good := s (ent 15 6 0 [] .begun).bytes [done0]
    let bad := s [6, 0, 16] [done0]
    let wait := s (ent 15 6 0 [] .begun).bytes [ent 14 0 0 [] .begun]
    let lap := s (0 :: 1 :: (ent 15 6 0 [] .begun).bytes.drop 2) [ent 14 0 0 [] .begun]
    (∀ t ∈ [good, bad, wait, lap], (ringAt t 0).state = .active ∧ (ringAt t 0).resetWait = false ∧
      (ringAt t 0).nextIdx ≠ (ringAt t 0).tail.toNat ∧ t.host.fwReady = true ∧ t.host.dispatch = true ∧ t.host.flrDrain = false ∧
      hbmBad t (0x1000 + 64 * 15) 64 = false) ∧
    badByte (hbmRead good (0x1000 + 64 * 15) 64) = none ∧ badByte (hbmRead bad (0x1000 + 64 * 15) 64) = some 2 ∧
    rdLe (hbmRead wait (0x1000 + 64 * 15) 64) 1 1 % 2 = 0 ∧ rdLe (hbmRead lap (0x1000 + 64 * 15) 64) 1 1 % 2 = 1 ∧
    (∀ t ∈ [14, 15], let u := { ring0 [done0] with cqTail := BitVec.ofNat 12 t, cqHead := 15 }
      (t = 14 ↔ (u.cqTail.toNat + 1) % 2 ^ u.sizeInUse = u.cqHead.toNat) ∧ u.resetWait = false ∧
        u.entries = [done0] ∧ done0.stage = .done 0 0) ∧ memWf zeroDflt good.hbm.cells = true := by decide +kernel

theorem wit_ring_signal : let r := { ring0 [] with unsignalled := 1 }
    let c := { r with coalesceUs := 255 }
    r.coalesceUs = 0 ∧ c.coalesceUs ≠ 0 ∧ r.irqEn = true ∧ 0 < r.unsignalled ∧ r.state ≠ .orphaned ∧ r.state ≠ .idle ∧
      Ring.reset.irqEn = false ∧ 0 < (ringed r []).host.rings.length := by decide +kernel

/-- Q_ENABLE of an IDLE ring at the last place before the reserve, and 64 bytes later; each state that the other controls ask for. -/
theorem wit_ring_control : let v : W32 := 0x8C0A0181
    let r := { Ring.reset with
      sqBase := BitVec.ofNat 36 (0xBF0000000 - 64 * 4096)
      cqBase := BitVec.ofNat 36 (0xBF0000000 - 16 * 4096) }
    (nfld v.toNat 30 28 = 0 ∧ v.toNat.testBit 31 = true ∧ nfld v.toNat 27 24 = 12 ∧ r.state = .idle ∧
      r.sqBase.toNat + 64 * 4096 ≤ 0xBF0000000 ∧ r.cqBase.toNat + 16 * 4096 ≤ 0xBF0000000 ∧
      ¬ (r.sqBase + 64).toNat + 64 * 4096 ≤ 0xBF0000000) ∧
    (let o := { ring0 [] with state := .orphaned, cqTail := 3 }
     o.state = .orphaned ∧ (ringed o []).host.attached = true ∧ waitOf o = none ∧ o.cqTail ≠ o.cqHead ∧ o.irqEn = true ∧
      waitOf { o with entries := [ent 0 7 0 [] .running] } ≠ none) ∧
    (∀ es ∈ [[done0], []], ∀ e ∈ (ring0 es).entries, e.stage = .done 0 0) ∧
    (ent 0 7 0 [] .running).stage = .running ∧ { ring0 [] with state := .stopped }.resetWait = false := by decide +kernel

/-- SET_FLAG and WAIT_FLAG of flag 255; the flag at 2^32 - 1 and at the value waited for, less one, and more. -/
def flagRest (mode value : Nat) : Bytes := toLe 1 255 ++ toLe 1 mode ++ toLe 2 0 ++ toLe 4 value

theorem wit_set_flag : ∀ mode ∈ [0, 1], let b := (ent 15 6 0 (flagRest mode 1) .begun).bytes
    rdLe b 0 1 = 6 ∧ rdLe b 8 1 = 255 ∧ rdLe b 9 1 = mode ∧ rdLe b 0x0C 4 = 1 := by decide +kernel

theorem wit_wait_flag : let b := (ent 15 7 0 (flagRest 0 5) .begun).bytes
    rdLe b 0 1 = 7 ∧ rdLe b 8 1 = 255 ∧ rdLe b 0x0C 4 = 5 := by decide +kernel

theorem wit_flag_values : 255 < up.host.flags.length ∧ ∀ v : W32, (List.replicate 256 v).getD 255 0 = v :=
  ⟨by decide +kernel, fun v => by rw [List.getD_eq_getElem?_getD, List.getElem?_replicate_of_lt (by omega)]; rfl⟩

/-- A wait that runs, as the only entry of a BLOCKED ring. -/
theorem wit_waiting : Waiting (ringed { ring0 [ent 15 7 0 (flagRest 0 5) .running] with state := .blocked } []) 0 [] (ent 15 7 0 (flagRest 0 5) .running) [] := by
  constructor <;> first | decide +kernel | (intro x hx; cases hx)

/-- A ring that waits for a flag only its own pending entry can set is a wait cycle; one whose flag a batch can set is none. -/
theorem wit_wait_cycle : let r := { ring0 [ent 0 7 0 (flagRest 0 5) .running] with
      state := .blocked
      nextIdx := 1
      tail := 2 }
    let t := ringed r []
    let s := { t with hbm := { t.hbm with cells := memOf (0x1000 + 64) (ent 1 6 0 (flagRest 0 5) .begun).bytes } }
    blockedWaits s = [(0, ent 0 7 0 (flagRest 0 5) .running)] ∧ inCycle s (blockedWaits s) [0] (ent 0 7 0 (flagRest 0 5) .running) = true ∧
      (after .waitCycleScan s).host.rings.map (·.state) = [.stopped, .idle] ∧ (after .waitCycleScan t).host.rings = t.host.rings := by
  decide +kernel

/-- A driver attached, with no handover and during one; contexts with a ring batch and queued ones; both slots loading from a
ring. -/
theorem wit_driver : let sl := { Slot.reset with
      state := .loading
      loadRing := some 0 }
    let x := { ctx0 with
      batch := some batch0
      slotA := sl
      slotB := sl }
    let s := ringed (ring0 [done0]) [x, ctx0]
    let h := { s with host := { s.host with
      upd := { s.host.upd with handover := true }
      flrDrain := true } }
    s.host.upd.handover = false ∧ s.host.attached = true ∧ (ringAt s 0).state ≠ .idle ∧ (ringAt s 1).state = .idle ∧
      (ringAt s 0).entries ≠ [] ∧ h.host.upd.handover = true ∧ (ctxAt s 0).batch = some batch0 ∧ batch0.ring ≠ none ∧
      (ctxAt s 0).slotA.state = .loading ∧ (ctxAt s 0).slotB.loadRing ≠ none ∧ (ctxAt s 1).slotA.state ≠ .loading ∧
      h.host.flrDrain = true ∧ batch0.deliver = true ∧
      (let b := { batch0 with lanesHalted := [0] }
       let y := ctxAt (ringed (ring0 [done0]) (List.replicate 16 { ctx0 with batch := some b })) 15
       y.batch = some b ∧ b.lanesHalted ≠ [] ∧ b.failing = false ∧ ∀ p ∈ y.placed, p.1 ∈ b.lanesEnded ∨ p.1 ∈ b.lanesHalted) := by
  decide +kernel

/-- BAR2 accesses that end at the firmware reserve, and one byte further. -/
theorem wit_bar2 : let s := { up with host := { up.host with bar2Base := BitVec.ofNat 36 (0xBF0000000 - 4096) } }
    s.host.bar2Base.toNat + 4032 + 64 ≤ 0xBF0000000 ∧ hbmBad s (s.host.bar2Base.toNat + 4032) 64 = false ∧
      hbmDown s (s.host.bar2Base.toNat + 4032) 64 = false ∧ 0xBF0000000 < s.host.bar2Base.toNat + 4033 + 64 ∧
      memWf zeroDflt s.hbm.cells = true := by decide +kernel

/-! ### Witnesses: programs, weights, contexts, streams and links -/

/-- An image that the loader accepts: one lane of one END bundle, 16 pages, no work area (R224, R225). -/
def goodImage : Bytes :=
  let head := toLe 4 0x4C495754 ++ toLe 2 1 ++ toLe 2 0 ++ toLe 4 1 ++ toLe 2 16 ++ toLe 2 0 ++ toLe 8 0 ++ toLe 8 2336 ++ List.replicate 32 0
  let lane := toLe 8 2304 ++ toLe 4 1 ++ toLe 2 8 ++ toLe 2 8 ++ List.replicate 48 0
  head ++ toLe 4 1 ++ toLe 4 32 ++ toLe 8 256 ++ List.replicate 172 0 ++ toLe 4 1303584562 ++ lane ++ List.replicate 1984 0 ++
    toLe 32 (0x3F * 2 ^ 46 + 2 ^ 52)

/-- A configured context that is not placed. -/
def ctx1 : Ctx := { ctx0 with
  placed := []
  latched := none
  pages := 16 }

/-- LOAD_PROGRAM of an image at 0x10000. -/
def loading (x : Ctx) (img : Bytes) : State :=
  let s := taking 1 0 (toLe 8 0x10000 ++ toLe 8 0x20000) [x]
  { s with hbm := { s.hbm with cells := memOf 0x10000 img } }

theorem wit_good_image : verify goodImage 16 = none ∧ verify goodImage 15 ≠ none ∧ (presentLanes goodImage).length = 1 ∧
    imgWorkBytes goodImage = 0 := by decide +kernel

/-- An image that is accepted, in place of none and of one with as large a work area, and one that is refused. -/
theorem wit_load_program : let s := loading ctx1 goodImage
    let x := { ctx1 with image := some goodImage, workBase := 4096 }
    let few := { ctx1 with pages := 15 }
    hbmRead s 0x10000 2336 = goodImage ∧ max (rdLe (hbmRead s 0x10000 256) 0x18 8) 256 = 2336 ∧ memWf zeroDflt s.hbm.cells = true ∧
      hbmBad s 0x10000 256 = false ∧ hbmBad s 0x10000 2336 = false ∧ 0x10000 + 2336 ≤ 0xBF0000000 ∧
      (∀ y ∈ [ctx1, x, few], (ctxAt (loading y goodImage) 0).calico = none ∧ y.configured = true ∧ y.newImage = none ∧
        2336 ≤ (y.hbmBytes + 4095) / 4096 * 4096 ∧ (allocCtx (loading y goodImage) 0 2336).isSome = true ∧
        (presentLanes goodImage).length ≤ y.lanes ∧ (verify goodImage y.pages).isSome = decide (y.pages = 15)) ∧
      (x.image = some goodImage ∧ imgWorkBytes goodImage ≤ imgWorkBytes goodImage ∧ 4096 = x.workBase) ∧ ctx1.image = none ∧
      allocCtx (setCtx s 0 { ctx1 with newImage := some (goodImage, 0, 0xC00000000) }) 0 0 = some 0 := by decide +kernel

/-- An accepted program at a batch boundary, and its step to the next state. -/
theorem wit_install : let e := ent 15 1 0 [] .running
    let s := ringed (ring0 [done0, e]) [{ ctx1 with newImage := some (goodImage, 0, 4096) }]
    (ctxAt s 0).newImage = some (goodImage, 0, 4096) ∧ runningEntry s 1 0 (fun _ => true) = some (0, 15) ∧ (ctxAt s 0).batch = none ∧
      earlierOpen s 0 15 (fun b => rdLe b 0 1 == 0x10 && rdLe b 2 1 == 0) = false ∧ (ctxAt s 0).slotA.state ≠ .resident := by
  decide +kernel

/-- A weight set of one tensor of 32 bytes from a source of this kind (0 HBM in place, 1 flash, 3 relayed). -/
def set0 (kind up : Nat) : Bytes :=
  toLe 4 0x54455357 ++ toLe 2 1 ++ toLe 2 1 ++ toLe 8 9 ++ toLe 4 0 ++ toLe 2 0 ++ toLe 2 up ++ toLe 2 0xFFFF ++ List.replicate 38 0 ++
    toLe 1 kind ++ List.replicate 7 0 ++ toLe 8 0 ++ toLe 8 32 ++ toLe 8 32 ++ List.replicate 32 0

/-- A slot in a state, with this set. -/
def slot0 (g : SlotState) (d : Bytes) : Slot := { Slot.reset with
  state := g
  desc := d
  staged := [(0, 0, 32, false)] }

/-- LOAD_WEIGHTS of slot B: FREE and not, of a set staged in place and of one that needs room. -/
theorem wit_load_weights : ∀ kind ∈ [0, 1], let s0 := taking 2 0 (toLe 8 1 ++ toLe 8 0x10000) [ctx1, { ctx1 with slotB := slot0 .ready [] }]
    let s := { s0 with hbm := { s0.hbm with cells := memOf 0x10000 (set0 kind 0xFFFF) } }
    let d := hbmRead s 0x10000 128
    rdLe (hbmRead s 0x10000 64) 6 2 = 1 ∧ hbmBad s 0x10000 64 = false ∧ badHeader (hbmRead s 0x10000 64) = false ∧
      hbmBad s 0x10000 d.length = false ∧ badSet d = none ∧ (kind = 0 ↔ stageBytes d = 0) ∧
      (kind = 1 → allocCtx s 0 (stageBytes d) = some 0) ∧ (slotOfCtx (ctxAt s 0) 1).state = .free ∧
      (slotOfCtx (ctxAt s 1) 1).state ≠ .free := by decide +kernel

/-- A load, and a re-fetch, that fetches its tensor, that fails, and that waits. -/
theorem wit_weight_ends : ∀ again : Bool, let g := if again then SlotState.refetching else SlotState.loading
    let s := fun d => ringed (ring0 [ent 15 2 0 [0] .running]) [{ ctx1 with slotA := slot0 g d }]
    let lost := fun d => let t := s d
      { t with flash := { t.flash with incomplete := [0] } }
    let r := fun (t : State) => (fetchSet 0 0 again .ok [] (fetchList (slotOfCtx (ctxAt t 0) 0)) t).2.1
    r (s (set0 0 0xFFFF)) = .ok ∧ r (lost (set0 1 0xFFFF)) = .fail 0x24 0 ∧ r (s (set0 3 5)) = .wait ∧
      (slotOfCtx (ctxAt (s (set0 0 0xFFFF)) 0) 0).state = g ∧ (slotOfCtx (ctxAt (s (set0 0 0xFFFF)) 0) 0).staged ≠ [] ∧
      runningEntry (s (set0 0 0xFFFF)) 2 0 (fun b => rdLe b 8 1 == 0) = some (0, 15) ∧ (ctxAt (s []) 0).ptr = 0 := by decide +kernel

/-- SWITCH_WEIGHTS and EVICT of slot B, the pointer at A or B, in every state of the slot, with and without references. -/
theorem wit_switch : ∀ g ∈ [SlotState.free, .loading, .ready, .resident, .evicted, .refetching, .retiring, .unusable], ∀ n ∈ [0, 1],
    ∀ ptr ∈ [0, 1], let x := { ctx1 with
      ptr := ptr
      slotA := { slot0 g [] with refs := n }
      slotB := { slot0 g [] with refs := n } }
    let s := taking 3 0 [1] [x]
    (ctxAt s 0).ptr < 2 ∧ (slotOfCtx (ctxAt s 0) 1).state = g ∧ (slotOfCtx (ctxAt s 0) ptr).refs = n ∧ (ctxAt s 0).calico = none ∧
      (ctxAt s 0).configured = true ∧ loadBefore s 0 0 1 (ent 15 3 0 [1] .begun) = false ∧
      rdLe (ent 15 3 0 [1] .begun).bytes 8 1 = 1 := by decide +kernel

/-- An image whose one weight reference names this tensor: 32 bytes pinned at page 0 of lane 0 (R232). -/
def refImage (tensor : Nat) : Bytes :=
  let img := tinyImage 1 ++ toLe 2 tensor ++ List.replicate 6 0 ++ toLe 8 32 ++ toLe 1 255 ++ List.replicate 15 0
  splice img 80 (toLe 2 3 ++ toLe 2 0 ++ toLe 4 1 ++ toLe 8 (tinyImage 1).length)

/-- A batch that waits for its READY set: one the program's references match, one whose staged copy returns an error, and one
that lacks a tensor. -/
theorem wit_make_resident : let b := { batch0 with lanesBegun := [] }
    let x := { ctx0 with
      image := some (tinyImage 1)
      batch := some b
      slotA := slot0 .ready (set0 0 0xFFFF) }
    let y := { x with image := some (refImage 1) }
    let z := { x with image := some (refImage 0) }
    let lost := let t := laned own z
      { t with hbm := { t.hbm with bad := [0] } }
    x.batch = some b ∧ x.latched = some b.slot ∧ b.lanesBegun = [] ∧ b.failing = false ∧ b.refuse = none ∧ (latchedSlot x).state = .ready ∧
      slotMismatch x (latchedSlot x) = none ∧ (latchedSlot x).inPages = false ∧ (slotOfCtx x 1).refs = 0 ∧
      stagedBad (laned own x) 0 0 none = [] ∧ (latchedSlot x).reload = [] ∧ memWf zeroDflt own.sp.tags = true ∧
      slotMismatch z (latchedSlot z) = none ∧ stagedBad lost 0 0 none = [0] ∧ slotMismatch y (latchedSlot y) = some 1 ∧
      (slotOfCtx { x with slotB := { slot0 .retiring [] with refs := 1 } } 1).refs ≠ 0 := by decide +kernel

/-- A context whose pool holds one item, so that a core without pinned pages is to be reloaded; and one with a resident set
whose staged copy is good, or returns an error. -/
theorem wit_pinned : let img := tinyImage 1 ++ toLe 4 0 ++ toLe 4 16 ++ List.replicate 8 0 ++ List.replicate 16 7
    let pooled := splice img (0x100 + 0x28) (toLe 8 (tinyImage 1).length ++ toLe 4 32)
    let x := { ctx0 with image := some pooled }
    let y := { ctx0 with
      image := some (refImage 0)
      slotA := { slot0 .resident (set0 0 0xFFFF) with inPages := true } }
    let lost := let t := laned own y
      { t with hbm := { t.hbm with bad := [0] } }
    (residentSlot y = some 0 ∧ pinnedOk (laned own y) 0 0 = false ∧ (slotOfCtx y 0).state ≠ .refetching ∧
      stagedBad (laned own y) 0 0 (some 0) = [] ∧ stagedBad lost 0 0 (some 0) = [0] ∧ (slotOfCtx y 0).reload = []) ∧
    0 ∈ ctxCores x ∧ x.batch = none ∧ (laned own x).cores.length = 1 ∧ memWf zeroDflt own.sp.tags = true ∧
      residentSlot x = none ∧ pinnedOk (laned own ctx0) 0 0 = true ∧
      (poolData x 0).length = 1 ∧ pinnedOk (laned own x) 0 0 = false := by decide +kernel

/-- Relayed messages that complete the tensor and that leave a gap; a set that expects none. -/
theorem wit_relay : ∀ g ∈ [SlotState.loading, .refetching], let sl := slot0 g (set0 3 5)
    relayTensor sl = some 0 ∧ (9 : W32).toNat = wsSetId sl.desc % 2 ^ 32 ∧ sl.relayNext = (0, 0) ∧
      0 + 32 ≤ teSrcBytes (wsEntry sl.desc 0) ∧ wsUp sl.desc ≠ 0xFFFF ∧ teKept sl.desc 0 = true ∧ (1 : Nat) ≠ sl.relayNext.2 ∧
      relayTensor (slot0 g (set0 0 5)) = none := by decide +kernel

/-- RUN_BATCH of a configured and an unconfigured context; a placed context's oldest batch, from a ring and from a stream. -/
theorem wit_batches : let x := { ctx0 with
      image := some goodImage
      latched := none
      queue := [batch0] }
    let s := laned Core.reset x
    let sb : StreamBatch := ⟨[⟨0, 0, 0, 0, [], none⟩], false⟩
    let t := { laned Core.reset { x with queue := [] } with net := { up.net with closedB := [(0, sb)] } }
    programAhead (taking 0x10 0 [] [ctx1]) 0 15 0 = false ∧ Ctx.reset.configured = false ∧ x.batch = none ∧ x.image ≠ none ∧
      x.placed ≠ [] ∧ x.ptr < 2 ∧ (ctxCores x).Nodup ∧ (∀ k ∈ ctxCores x, inService s k = true ∧ coreRuns s k = false) ∧
      s.host.dispatch = true ∧ closedOf s 0 = [] ∧ (∀ j < 16, goesFirst s 0 j (ctxCores x) = false) ∧ closedOf t 0 = [sb] ∧
      t.pw.phase = .active := by decide +kernel

/-- CONFIG_CONTEXT that fits the last 4 KiB of HBM and one that does not; UNLOAD_CONTEXT of an idle context and of a busy one. -/
theorem wit_contexts : let s := taking 0x20 0 [] [Ctx.reset, { ctx1 with
      hbmBase := 4096
      hbmBytes := 0xBF0000000 - 4096 }]
    allocShare s 4096 = some 0 ∧ allocShare s 4097 = none ∧ Ctx.reset.calico = none ∧ hasStreams s 1 = false ∧ ctxBusy ctx1 = false ∧
      ctxBusy { ctx1 with batch := some batch0 } = true ∧
      (let x := { ctx0 with image := some (tinyImage 1) }
       ctxPages (laned own x) 0 0 ≠ [] ∧ (0, 0) ∈ x.placed ∧ (ctxCores x).Nodup) := by decide +kernel

/-- A stream entry of two slots of 4 KiB in context 0; the same with a reserved flag (R433). -/
def streamEntry (flags : Nat) : Bytes :=
  toLe 1 flags ++ List.replicate 7 0 ++ toLe 8 0x100000 ++ toLe 4 4096 ++ toLe 2 2 ++ toLe 2 65535 ++ List.replicate 40 0

theorem wit_bind_stream : ∀ flags ∈ [1, 9], let s0 := taking 5 0 (toLe 2 0 ++ toLe 6 0 ++ toLe 8 0x10000) [{ ctx1 with image := some (tinyImage 1) }]
    let s := { s0 with hbm := { s0.hbm with cells := memOf 0x10000 (streamEntry flags) } }
    hbmRead s 0x10000 64 = streamEntry flags ∧ hbmBad s 0x10000 64 = false ∧
      badStream s (streamEntry flags) = (if flags = 9 then some 0 else none) ∧
      (let b := { batch0 with frames := [⟨0, 0, 7, 0, streamEntry 1, none⟩] }
       let t := { s with host := { s.host with ctxs := [{ ctx1 with image := some (tinyImage 1), batch := some b }] } }
       (ctxAt t 0).batch = some b ∧ badStream t (streamEntry flags) = (if flags = 9 then some 0 else none)) := by decide +kernel

/-- Parameter blocks of a queue pair: set up, with a bad port, and torn down (R472). -/
def qpBlock (act port : Nat) : Bytes :=
  toLe 1 act ++ toLe 1 port ++ toLe 2 0 ++ toLe 2 0 ++ toLe 1 1 ++ List.replicate 41 0 ++ toLe 2 0x0101 ++ List.replicate 206 0

/-- A queue pair set up. -/
def qp0 (n : Nat) : Qp where
  num := n
  params := qpBlock 1 0
  sqPsn := 0
  ackPsn := 0
  rqPsn := 0
  outstanding := []
  retries := 0
  rnrRetries := 0
  rnrWait := false
  got := []
  nakSent := false
  cnpAt := none
  rate := 80000
  error := false

theorem wit_config_qp : let s := taking 0x22 0 [] []
    badQp s 1023 (qpBlock 1 0) = none ∧ badQp s 1023 (qpBlock 1 9) = some 1 ∧ (qpBlock 1 0).length = 256 ∧
      badQp { s with net := { s.net with qps := [qp0 1023] } } 1023 (qpBlock 2 0) = none := by decide +kernel

/-- Parameter blocks of a link: set up at the last page of a range, with no page, reset and torn down (R473). -/
def linkBlock (act pages : Nat) : Bytes :=
  toLe 1 act ++ toLe 3 0 ++ toLe 2 0 ++ toLe 2 pages ++ toLe 2 7 ++ List.replicate 246 0

def link0 : Link := ⟨63, 0, 0, 0, 0, 1, 7, 0, [0], 0, [], false⟩

theorem wit_config_link : let s0 := taking 0x23 0 [] [{ ctx0 with image := some (tinyImage 1) }]
    let s := { s0 with
      cores := [own]
      net := { s0.net with qps := [qp0 0] } }
    let t := { s with net := { s.net with links := [link0] } }
    badLink s 63 (linkBlock 1 1) = none ∧ badLink s 63 (linkBlock 1 0) = some 6 ∧ (linkBlock 1 1).length = 256 ∧
      (∀ act ∈ [2, 3], badLink t 63 (linkBlock act 0) = none) ∧ t.net.links.find? (fun x => x.num == 63) = some link0 ∧
      coreOf (ctxAt t link0.ctx) link0.lane = some 0 ∧ (ctxAt s (lkCtx (linkBlock 1 1))).calico = none := by decide +kernel

/-- A context that Calico owns is named by a ring command, with and without a batch. -/
theorem wit_take_over : ∀ b ∈ [none, some { batch0 with ring := none }],
    let s := taking 0x20 0 [] [{ ctx0 with
      calico := some 0
      batch := b }]
    (ctxAt s 0).calico ≠ none ∧ (ctxAt s 0).batch = b := by decide +kernel

/-! ### Witnesses: the mailbox, updates and flash -/

/-- A mailbox that waits for a command, with these arguments. -/
def mailed (a b : W64) : State := { up with host := { up.host with
  mail := { up.host.mail with
    arg0 := a
    arg1 := b } } }

/-- Arguments at the last 4 KiB of flash, one byte further, and beyond; wait states at the minimum. -/
theorem wit_mail_reads : (∀ a ∈ [0x3FFFF000, 0x3FFFF001], let s := mailed (BitVec.ofNat 64 a) 4096
      s.host.mail.busy = false ∧ fwServes s = true ∧ min 4096 s.host.mail.arg1.toNat = 4096 ∧
        (1073741824 < s.host.mail.arg0.toNat + 4096 ↔ a = 0x3FFFF001)) ∧
    wornBad up.flash 0x3FFFF000 4096 = false ∧ (∀ w < 128, statusReason up.flash (32 * (0x3FFFF000 / 32 + w)) = none) ∧
    minWait up.flash ≤ up.flash.waitStates.toNat ∧ up.flash.incomplete = [] ∧ runningStep up.flash = none ∧ up.flash.scanDone = true ∧
    (let s := mailed 0 0
     let b := { s with host := { s.host with
        mail := { s.host.mail with
          busy := true
          running := some 0x23 }
        upd := { s.host.upd with handover := true } } }
     b.host.mail.busy = true ∧ fwServes b = true ∧ b.host.mail.running = some 0x23 ∧ s.host.mail.running ≠ some 0x23 ∧
      b.host.upd.handover = true ∧ b.pw.phase = .active) := by decide +kernel

/-- Channel 0 with an operation open, and with a step of channel 1's running. -/
def flashOp (opcode addr : Nat) : FlashOp := ⟨opcode, addr, List.replicate 512 0, 5, 15, true, false⟩

theorem wit_mail_flash : (1073741824 ≤ (mailed 0x40000000 0).host.mail.arg0.toNat ∧ (mailed 0x21FFFF 0).host.mail.arg0.toNat / 65536 < 34) ∧
    (let s := mailed 0x220000 0
     s.host.mail.busy = false ∧ fwServes s = true ∧ s.pw.phase = .active ∧ s.flash.ch0.op = none ∧ s.flash.step = none ∧
      flashLocked s.flash s.flash.ch0 34 = false ∧ underErase s.flash 34 = false ∧ s.flash.incomplete.contains 34 = false ∧
      s.flash.cells = [] ∧ memSorted s.flash.ch0.buf = true ∧
      let f := { s.flash with
        password := some 7
        ch0 := { s.flash.ch0 with op := some (flashOp 2 0x220000) }
        regions := [⟨true, 34, 34⟩] }
      f.ch0.op ≠ none ∧ flashLocked f f.ch0 34 = true) := by decide +kernel

/-- Every byte of an erased array reads 0xFF. -/
theorem wit_blank : ∀ a, flashByte up.flash a = 0xFF := fun a => rfl

/-- A boot image of 256 bytes whose fields pass, under the conditions on its key and signature, whose values are free. -/
def bootImage : Bytes := toLe 4 0x57464241 ++ toLe 2 1 ++ List.replicate 2 0 ++ toLe 8 256 ++ List.replicate 240 0

theorem wit_image_check : (imageCheck up [] [] = 2) ∧ (fwBytes bootImage = 256 → Config.sha512 (slice bootImage 0x40 32) = Config.keyDigest 0 →
    fwKeySlot bootImage = 0 → fwSecurity bootImage = 0 → Config.ed25519Verify (slice bootImage 0x40 32) (fwDigest bootImage) (slice bootImage 0x60 64) = true →
    fwRevoke bootImage = 0 → imageCheck up bootImage [] = 0) := by
  refine ⟨by decide +kernel, fun h1 h2 h3 h4 h5 h6 => ?_⟩
  unfold imageCheck
  rw [h1, h3, h4, h5, h6, h2, if_neg (by decide +kernel), if_neg (by decide +kernel), if_neg (by decide), if_neg (by decide +kernel),
    if_neg (fun h => h.elim (by decide) fun h => h rfl), if_neg (by decide +kernel), if_neg (by decide)]

/-- An erased flash holds no boot-select record. -/
theorem wit_no_record : activeRecord up.flash = none := by
  have h : ∀ p, bootRecord up.flash p = none := by
    intro p
    have e : flashBytes up.flash (0x200000 + 512 * p) 512 = (List.range 512).map fun _ => (0xFF : Byte) := rfl
    have m : (rdLe (slice ((List.range 512).map fun _ => (0xFF : Byte)) 0 32) 0 4 == 0x4C455342) = false := by decide +kernel
    unfold bootRecord
    rw [e]
    simp only [m, Bool.and_false, Bool.false_and, Bool.false_eq_true, if_false]
  unfold activeRecord
  rw [List.filterMap_eq_nil_iff.mpr fun p _ => h p]
  rfl

/-- An update with the inactive copy free; verified and not; a handover with nothing left to wait for; a trial. -/
theorem wit_update : (∀ c : Bool, let s := mailed 0xFF000 0
      let t := { s with host := { s.host with upd := { s.host.upd with bootCopy := c } } }
      t.host.mail.busy = false ∧ fwServes t = true ∧ t.flash.ch0.op = none ∧ t.flash.incomplete = [] ∧ t.flash.password = none ∧
        (0xFF000 : W64).toNat % 4096 = 0 ∧ (0xFF000 : W64).toNat < 1048576 ∧ memWf (fun _ => some 0xFF) t.flash.cells = true ∧
        ∀ i < 32, underErase t.flash i = false ∧ flashLocked t.flash t.flash.ch0 i = false) ∧
    (let u := { up.host.upd with
       verified := true
       handover := true
       trial := true }
     let s := { up with host := { up.host with upd := u } }
     s.host.upd.verified = true ∧ s.sc.firmware = false ∧ s.sc.silicon = false ∧ up.host.upd.verified = false ∧ s.host.upd.handover = true ∧
      s.flash.ch0.op = none ∧ loadsRunning s = false ∧ fwServes s = true ∧ s.host.ctxs.all (fun x => x.batch.isNone) = true ∧
      s.host.upd.bmeWait = false ∧ s.host.upd.flrWait = false ∧ { u with bmeWait := true }.bmeWait = true ∧ s.host.upd.trial = true ∧
      s.log.fatal = false ∧ fwRuns s = true ∧ up.host.upd.trial = false) := by decide +kernel

/-- A flash word of which a step runs in the bank, whose sector is ERASE_INCOMPLETE, being erased, and at rest. -/
theorem wit_flash_read : let f := up.flash
    let running := fun o => { f with
      step := some 1
      ch1 := { f.ch1 with op := some (flashOp o 0x3FFF0000) } }
    (State.reset.flash.scanDone = false) ∧
      (∀ o ∈ [1, 2], (chanOf (running o) 1).op = some (flashOp o 0x3FFF0000) ∧ (flashOp o 0x3FFF0000).addr / 67108864 = 0x3FFFFFE0 / 67108864) ∧
      ({ f with incomplete := [16383] }.incomplete.contains (0x3FFFFFE0 / 65536) = true) ∧
      underErase { f with
        ch0 := { f.ch0 with op := some (flashOp 2 0x3FFF0000) }
        openFlags := [16383] } 16383 = true ∧
      (∀ b : Bool, let g := { f with worn := [(0, false), (0x3FFFFFE0, b)] }
        (g.worn.find? fun x => x.1 == 0x3FFFFFE0).map (·.2) = some b) ∧ (f.worn.find? fun x => x.1 == 0x3FFFFFE0) = none ∧
      underErase f 16383 = false ∧ minWait f ≤ f.waitStates.toNat ∧ Ecc.clean ≠ .uncorrectable 0 [] ∧
      ({ State.reset with pw := up.pw }.pw.pllLocked = true) ∧ (up.pw.pllLocked = true ∧ State.reset.pw.pllLocked = false) := by
  decide +kernel

/-- Each condition that a flash command meets, on each channel, and an idle flash. -/
theorem wit_flash_commands : (∀ n < 2, let f := up.flash
      flashUp up = true ∧ f.scanDone = true ∧ (chanOf f n).op = none ∧ (chanOf f (1 - n)).op = none ∧ f.step = none ∧
        feltBegun up = false ∧ flashLocked f (chanOf f n) 0 = false ∧ underErase f 0 = false ∧ f.incomplete.contains 0 = false ∧
        f.password = none ∧ (chanOf f n).addr.toNat % 512 = 0) ∧
    (let s := { up with pw := { up.pw with phase := .entering true 1 } }
     feltBegun s = true ∧ flashUp s = true) ∧
    (let f := { up.flash with
       password := some 1
       regions := [⟨true, 0, 0⟩]
       ch0 := { up.flash.ch0 with op := some (flashOp 2 0) }
       openFlags := [0]
       incomplete := [0] }
     (chanOf f 0).op ≠ none ∧ flashLocked f f.ch1 0 = true ∧ f.ch1.unlocked = false ∧ underErase f 0 = true ∧ f.incomplete.contains 0 = true ∧
      (flashOp 2 0).addr / 65536 ∈ f.openFlags ∧ f.step ≠ some 0) ∧
    (BitVec.ofNat 30 511).toNat % 512 ≠ 0 ∧
    (let f := { up.flash with cells := [(0, 0)] }
     flashByte f 0 ≠ 0xFF) := by decide +kernel

/-- Steps that end: of each opcode, in the first step and the fortieth, aborted and not; unlocks with the password right and
wrong, before and at the eighth failure. -/
theorem wit_flash_steps : (∀ n < 2, ∀ o ∈ [1, 2, 6, 7], let f := modFlash { up with flash := { up.flash with step := some n } } n fun c => { c with
        op := some (flashOp o 0x3FFFFE00)
        steps := 39 }
      f.flash.step = some n ∧ (chanOf f.flash n).op = some (flashOp o 0x3FFFFE00) ∧ (chanOf f.flash n).steps.toNat = 39 ∧
        (flashOp o 0x3FFFFE00).addr % 512 = 0 ∧ (flashOp o 0x3FFFFE00).data.length = 512 ∧ memWf (fun _ => some 0xFF) f.flash.cells = true ∧
        (flashOp o 0x3FFFFE00).region < f.flash.regions.length) ∧
    (0 : Nat) < 39 ∧ { flashOp 2 0 with abort := true }.abort = true ∧
    (∀ k ∈ [7, 8], let f := { up.flash with
       attempts := k
       password := some 5
       ch0 := { up.flash.ch0 with op := some (flashOp 4 0) } }
     (chanOf f 0).op = some (flashOp 4 0) ∧ f.password = some (flashOp 4 0).arg ∧ { f with password := some 6 }.password ≠ some (flashOp 4 0).arg ∧
      (f.attempts < 8 ↔ k = 7)) := by decide +kernel

/-! ### Witnesses: the HBM controller and the network -/

/-- A bulk request of 32 bytes at an address. -/
def hreq (write : Bool) (a : Nat) : HbmReq := ⟨write, false, a, 32, if write then List.replicate 32 9 else [], 0xFFF, 0⟩

/-- A write entry of a unit with all its bytes, or one of them. -/
def wentry (unit : Nat) (whole : Bool) : WriteUnit := ⟨unit, if whole then List.replicate 32 (some 7) else some 7 :: List.replicate 31 none, [], false⟩

/-- Pseudo-channel 63, with the last unit of HBM in it. -/
def lastUnit : Nat := 0xC00000000 / 32 - 1

def chanState (ch : PseudoChan) : State := { up with hbm := { up.hbm with chans := [(63, ch)] } }

/-- Requests that end at the end of HBM and one byte further; HBM that accepts none; a unit that a write entry holds whole, in part
and not at all; an ingest entry that may move and one that waits. -/
theorem wit_hbm_requests : (∀ w : Bool, let r := hreq w 0xBFFFFFFE0
      r.realtime = false ∧ r.requester < 0x1000 ∧ up.hbm.opens = [] ∧ unitsOf r.addr 32 = [lastUnit] ∧ pcOf lastUnit = 63 ∧
        r.addr + 32 = 0xC00000000 ∧ hbmDown up r.addr 32 = false ∧ hbmRoom up w [lastUnit] = true ∧ up.net.ingest = []) ∧
    hbmDown State.reset 0 32 = true ∧ 0xC00000000 < 0xBFFFFFFE1 + 32 ∧
    (∀ whole : Bool, let s := chanState { PseudoChan.reset with writes := [wentry lastUnit whole] }
      (chanAt s 63).writes.find? (fun w => w.unit == lastUnit) = some (wentry lastUnit whole) ∧
        (wentry lastUnit whole).data.length = 32 ∧ (wentry lastUnit whole).data.all (·.isSome) = whole) ∧
    (let g : Ingest := ⟨0, 0, 0xC00000000 - 300, List.replicate 300 5, true⟩
     let s := { up with net := { up.net with ingest := [g] } }
     let t := { s with hbm := { s.hbm with srState := [2, 2] } }
     min g.bytes.length (256 - g.addr % 256) = 44 ∧ hbmDown s g.addr 44 = false ∧ s.hbm.srState.getD (pcOf (g.addr / 32) / 32 % 2) 0 = 0 ∧
      hbmRoom s true (unitsOf g.addr 44) = true ∧ t.hbm.srState.getD (pcOf (g.addr / 32) / 32 % 2) 0 ≠ 0) := by decide +kernel

/-- A read that serves as the last unit of its request, and one that waits; a write that may drain, whole and in part, of a unit
that is sound and of one that is not. -/
theorem wit_hbm_serves : (∀ waits : Bool, let r : ReadUnit := ⟨lastUnit, 1, 2, waits, List.replicate 32 3, 0⟩
      let s0 := chanState { PseudoChan.reset with reads := [r] }
      let o : HbmOpen := ⟨1, 2, false, 0xBFFFFFFE0, 32, [lastUnit], false, []⟩
      let s := { s0 with hbm := { s0.hbm with opens := [o] } }
      (chanAt s 63).reads[0]? = some r ∧ s.hbm.srState.getD (63 / 32 % 2) 0 = 0 ∧ (chanAt s 63).failed = false ∧ s.hbm.trained = 3 ∧
        s.hbm.opens.find? (fun x => x.requester == r.requester && x.tag == r.tag && x.left.contains r.unit) = some o ∧ o.left.Nodup ∧
        o.left = [r.unit] ∧ s.hbm.bad = []) ∧
    (∀ whole : Bool, let w := wentry lastUnit whole
      let s0 := chanState { PseudoChan.reset with writes := [w] }
      let s := { s0 with hbm := { s0.hbm with bad := [lastUnit] } }
      (chanAt s 63).writes[0]? = some w ∧ mayDrain s (chanAt s 63) w = true ∧ pcOf w.unit = 63 ∧ w.data.length = 32 ∧
        ((chanAt s 63).writes.map (·.unit)).Nodup ∧ memSorted s.hbm.cells = true ∧ w.unit ∈ s.hbm.bad ∧ w.unit ∉ s0.hbm.bad ∧
        (w.data.all (·.isSome) = false ↔ whole = false)) ∧
    (let r : ReadUnit := ⟨lastUnit, 1, 2, false, [], 0⟩
     let s := chanState { PseudoChan.reset with
       reads := [r]
       writes := [wentry lastUnit true] }
     mayDrain s (chanAt s 63) (wentry lastUnit true) = false) := by decide +kernel

/-- Refreshes postponed seven and eight times, of a wanted bank; each state of a stack; one and five parity alerts in a row, of a
bulk and of a real-time write; training with the smallest window at 12 and at 11. -/
theorem wit_hbm_refresh : let ch := { PseudoChan.reset with
      writes := [wentry lastUnit true]
      postponed := [(hbmBankOf lastUnit, 7)] }
    (bankWanted ch (hbmBankOf lastUnit) = true ∧ look ch.postponed (hbmBankOf lastUnit) 0 = 7 ∧ bankWanted PseudoChan.reset 0 = false) ∧
    (∀ v < 3, let s := { up with hbm := { up.hbm with
        srState := [v, v]
        srEnable := true } }
      s.hbm.srState.getD 1 0 = v ∧ s.hbm.srState.length = 2 ∧ s.hbm.srEnable = true ∧ stackWanted s 1 = false ∧ s.hbm.trained = 3) ∧
    stackWanted (chanState ch) 1 = true ∧
    (∀ alerts ∈ [0, 3, 4], ∀ rt : Bool, let c : RetryCmd := ⟨{ wentry lastUnit true with realtime := rt }, alerts, List.replicate 32 1, false⟩
      let d := { PseudoChan.reset with retry := [c] }
      let s := chanState d
      (chanAt s 63).retry.drop ((chanAt s 63).retry.length - 1) = [c] ∧ (chanAt s 63).failed = false ∧ s.hbm.trained = 3 ∧
        c.old.length = 32 ∧ c.entry.data.length = 32 ∧ memSorted s.hbm.cells = true ∧ (4 ≤ c.alerts ↔ alerts = 4)) ∧
    (let s := { State.reset with pw := up.pw }
     s.hbm.trainDone = false ∧ s.pw.pllLocked = true ∧ (∀ w ∈ List.replicate 256 12, 12 ≤ w) ∧ ¬ (∀ w ∈ [12, 11], 12 ≤ w) ∧
      up.hbm.trainDone = true) := by decide +kernel

/-- A network that hears packets on port 7, with these streams. -/
def heardNet (ss : List Stream) : State := { up with net := { up.net with
  ports := List.replicate 8 { Port.reset with linkUp := true }
  stEnable := true
  streams := ss } }

/-- A data packet: the one fragment of a frame of 64 bytes. -/
def packet (q : W32) : SspPacket where
  port := 7
  prio := 7
  occ := 100
  srcAddr := 1
  srcPort := 2
  srcMac := 3
  vlan := 0
  udpPort := up.net.udpPort.toNat
  udpBytes := 104
  version := 1
  ptype := 0
  last := true
  reservedBits := false
  stream := 1023
  seq := q
  timestamp := 0
  format := 0
  frag := 0
  creditRequest := 0
  payloadBytes := 64
  frameBytes := 64
  payload := List.replicate 64 4
  arrival := 0

/-- A stream of two slots that has admitted sequence 2^32 - 1, or has no base. -/
def stream0 (based : Bool) (gaps : List W32) (frames : List HeldFrame) : Stream :=
  ⟨1023, streamEntry 1, based, 0xFFFFFFFF, gaps, frames, 0, 0, 0, 0, 7, 0, false⟩

/-- A frame with its second fragment missing. -/
def held0 (q : W32) : HeldFrame := ⟨q, [(1, 64)], some 1, 128, 0, false, false, false⟩

/-- Packets of each outcome: unheard, malformed, unbound, bad data, beyond the limit, behind a taken slot, stale, without room, a
second copy, the last fragment, one of two, and control packets. -/
theorem wit_packets : let s := heardNet [stream0 true [] []]
    (receives s 7 = true ∧ s.net.stEnable = true ∧ bufferFull s 7 7 100 = false ∧ receives up 7 = false ∧ s.net.dropping = false ∧
      (s.net.streams.map (·.sid)).Nodup) ∧
    malformed { packet 0 with version := 2 } = true ∧ malformed (packet 0) = false ∧ boundStream (heardNet []) (packet 0) = none ∧
    boundStream s (packet 0) = some (stream0 true [] []) ∧ badData (packet 0) (streamEntry 1) = false ∧
    badData { packet 0 with frameBytes := 63 } (streamEntry 1) = true ∧ seqAfter (limitOf (stream0 true [] [])) 1 = true ∧
    seqAfter (limitOf (stream0 true [] [])) 2 = false ∧ seqAfter 0 (stream0 true [] []).last = true ∧
    seqAfter 0xFFFFFFFF (stream0 true [] []).last = false ∧ slotTaken (stream0 true [] []) 0 = false ∧
    slotTaken (stream0 true [] [held0 0]) 2 = true ∧ (stream0 true [0] []).gaps.contains 0 = true ∧
    4194304 < { s with hbm := { s.hbm with rtLevel := 4194241 } }.hbm.rtLevel + (packet 0).payload.length ∧
    ¬ 4194304 < { s with hbm := { s.hbm with rtLevel := 4194240 } }.hbm.rtLevel + (packet 0).payload.length ∧
    frameComplete ⟨0, [(0, 64)], some 0, 64, 0, false, false, false⟩ = true ∧ frameComplete (held0 0) = false ∧
    (stream0 true [] [held0 0]).frames.find? (fun f => f.seq == 0) = some (held0 0) ∧ (∀ g ∈ (held0 0).frags, g.1 ≠ 0) ∧
    (∀ f : Nat, f < 3 → f ≠ 0 → malformed { packet 0 with
      ptype := 3
      format := BitVec.ofNat 16 f } = false) ∧ (stream0 false [] []).based = false ∧
    (∀ f ∈ (stream0 true [] [{ held0 7 with admitted := true }]).frames, f.seq ≠ 9 ∧ seqAfter f.seq 9 = false) := by decide +kernel

/-- A frame not yet whole and an accepted one; open batches behind seven and eight closed ones; packets dropped in a Felt entry and
after a device-fatal error. -/
theorem wit_frames : let s := heardNet [stream0 true [] [held0 0]]
    let b := fun n => { s with net := { s.net with
      openB := [(0, ⟨[⟨0, 1023, 0, 0, [], none⟩], false⟩)]
      closedB := List.replicate n (0, ⟨[⟨0, 1023, 0, 0, [], none⟩], false⟩) } }
    (streamOf s 1023 = some (stream0 true [] [held0 0]) ∧ (stream0 true [] [held0 0]).frames.any (fun f => f.seq == 0 && !f.accepted) = true ∧
      (held0 0).admitted = false ∧ seqAfter 0 (stream0 true [] [held0 0]).last = true ∧ streamOf up 1023 = none) ∧
    (openOf (b 7) 0).frames ≠ [] ∧ (closedOf (b 7) 0).length = 7 ∧ (closedOf (b 8) 0).length = 8 ∧ (openOf s 0).frames = [] ∧
    (let d := { s with net := { s.net with dropping := true } }
     let e := { d with pw := { d.pw with phase := .entering true 3 } }
     d.net.dropping = true ∧ d.pw.phase = .active ∧ receives e 7 = true ∧ (packet 0).ptype ≠ 3) := by decide +kernel

/-- PFC frames that pause and resume priority 7; occupancies at and around the thresholds; each kind of other frame. -/
theorem wit_priorities : let s0 := heardNet []
    let s := { s0 with net := { s0.net with
      lossless := 0x80
      ports := List.replicate 8 { Port.reset with
        linkUp := true
        paused := 0x80
        xoffSent := 0x80
        held := [(7, .cnp 0), (6, .cnp 1)] } } }
    receives s 7 = true ∧ ([(7, 0)].map (·.1) : List Nat).Nodup ∧ s.net.lossless.getLsbD 7 = true ∧ s.net.lossless.getLsbD 6 = false ∧
      (portAt s 7).paused.getLsbD 7 = true ∧ (portAt s 7).paused.getLsbD 6 = false ∧ 7 < s.net.ports.length ∧
      (portAt s 7).occupancy.length = 8 ∧ (portAt s 7).xoffSent.getLsbD 7 = true ∧ bufferFull s0 7 6 524289 = true ∧
      bufferFull s0 7 6 524288 = false ∧ receives up 7 = false := by decide +kernel

/-- A queue pair with a region of 4 KiB at 0x10000 that peers may read and write. -/
def qpR (n : Nat) (access : Nat) : Qp := { qp0 n with
  params := splice (qpBlock 1 0) 0x34 (toLe 4 5 ++ toLe 8 0x10000 ++ toLe 8 4096 ++ toLe 1 access)
  sqPsn := 3 }

def roce (kind : RoceKind) (psn : Nat) : RocePacket := ⟨0, 0, 0, 1023, kind, psn, true, false, 5, 0x10000, 64, List.replicate 64 6⟩

def roceNet (p : Qp) : State :=
  let s := heardNet []
  { s with net := { s.net with qps := [p] } }

/-- Packets in order, ahead of order, and duplicates; accesses allowed, refused and failing; acknowledgements in the window. -/
theorem wit_roce : let p := qpR 1023 3
    let s := roceNet p
    (receives s 0 = true ∧ bufferFull s 0 0 0 = false ∧ qpOf s 1023 = some p ∧ p.error = false ∧ qpOf s 1022 = none ∧
      linkOfQp s 1023 = none) ∧
    BitVec.ofNat 24 p.rqPsn = BitVec.ofNat 24 0 ∧ (BitVec.ofNat 24 8388607 - BitVec.ofNat 24 p.rqPsn).toNat < 8388608 ∧
    8388608 ≤ (BitVec.ofNat 24 16777215 - BitVec.ofNat 24 p.rqPsn).toNat ∧ p.nakSent = false ∧ { p with nakSent := true }.nakSent = true ∧
    (∀ right < 2, peerMay p 5 right 0x10FC0 64 = true ∧ peerMay p 5 right 0x10FC1 64 = false ∧ peerMay (qpR 1023 0) 5 right 0x10000 64 = false) ∧
    hbmDown s 0x10000 64 = false ∧ hbmDown { s with hbm := State.reset.hbm } 0x10000 64 = true ∧ s.net.ingest = [] ∧ s.hbm.chans = [] ∧
    psnDist p.ackPsn 2 < psnDist p.ackPsn p.sqPsn ∧ (roce .rnrNak 0).ce = false ∧ { roce .rnrNak 0 with ce := true }.ce = true ∧
    p.cnpAt = none ∧ 0 + 50 ≤ { s with timeUs := 50 }.timeUs ∧ { s with timeUs := 49 }.timeUs < 0 + 50 := by decide +kernel

/-- Queue pairs with tries left and without, waiting after an RNR NAK, with a count of 7, and with nothing outstanding. -/
theorem wit_qp_retry : let m : QpMsg := ⟨0, none, none, [1]⟩
    let p := { qp0 0 with
      params := splice (qpBlock 1 0) 3 [1, 1]
      outstanding := [m]
      rnrWait := true }
    let q := { p with
      retries := 1
      rnrRetries := 1 }
    qpOf (roceNet p) 0 = some p ∧ p.outstanding ≠ [] ∧ p.error = false ∧ p.retries < qpRetry p.params ∧ qpRetry q.params ≤ q.retries ∧
      p.rnrWait = true ∧ p.rnrRetries < qpRnr p.params ∧ qpRnr q.params ≠ 7 ∧ qpRnr q.params ≤ q.rnrRetries ∧ (qp0 0).outstanding = [] ∧
      (qp0 0).rnrWait = false ∧ qpRnr (splice (qpBlock 1 0) 4 [7]) = 7 := by decide +kernel

/-- Both ends of a link, its page FULL or EMPTY, with and without its credit, stopped, and a page that arrives. -/
def linkState (l : Link) (tag : Byte) (p : Qp) : State :=
  let s := roceNet p
  { s with
    cores := [{ own with sp := { Sp.reset with tags := if tag = 0 then [] else [(7, tag)] } }]
    host := { s.host with ctxs := [{ ctx0 with image := some (tinyImage 1) }] }
    net := { s.net with links := [l] } }

theorem wit_links : let l := { link0 with qp := 1023 }
    let p := qpR 1023 3
    let read := fun (tag : Byte) => (outsideAccess (linkState l tag p) 0 l.ctx (7 * 4096) 4096 false []).map fun x => x.2.isSome
    (linkOf (linkState l 1 p) 63 = some l ∧ qpOf (linkState l 1 p) l.qp = some p ∧ linkPlace (linkState l 1 p) l l.next = some (0, 7) ∧
      l.role = 0 ∧ p.error = false ∧ p.rnrWait = false ∧ l.next ∈ l.credits) ∧
    (read 0 = none ∧ read 1 = some true ∧ read 3 = some false) ∧ { l with stopped := true }.stopped = true ∧
    (∀ tag ∈ [(1 : Byte).toNat, 3, 0], let a := { l with sent := [0] }
     let s := linkState a (BitVec.ofNat 8 tag) p
     a.sent = [0] ∧ p.outstanding = [] ∧ linkPlace s a 0 = some (0, 7) ∧ memWf zeroDflt (coreAt s 0).sp.tags = true ∧
      tagState (tagOf (coreAt s 0).sp 7) = tag) ∧ linkOf up 63 = none := by decide +kernel

/-- A page that arrives on a link: into an EMPTY page, into one that must wait, and into a POISON page. -/
theorem wit_link_arrives : let r := { link0 with qp := 1023, role := 1, sent := [0] }
    let p := { qpR 1023 3 with got := List.replicate 4032 0 }
    let page := p.got ++ (roce .send 0).payload
    let put := fun (tag : Byte) => (outsideAccess (setOccupancy (linkState r tag p) 0 0 0) 0 r.ctx (7 * 4096) 4096 true page).map fun x => x.2.isSome
    (r.role ≠ 0 ∧ 0 ∈ r.sent ∧ linkOfQp (linkState r 0 p) 1023 = some r ∧ tagState (tagOf (coreAt (linkState r 0 p) 0).sp 7) = 0) ∧
    (let v : W32 := 0x3F000000
     v.toNat / 2 ^ 24 = r.num ∧ v.toNat % 64 = 0 ∧ 0 < r.pages) ∧ page.length = 4096 ∧ put 1 = none ∧ put 3 = some false ∧
    ctxOwns (linkState r 0 p) r.ctx 0 7 = true ∧
    ((atFree 64 (coreAt (linkState r 0 p) 0) ((accRows (7 * 4096) 32).map (·.2))).any fun c =>
      c.reports.isEmpty && memWf zeroDflt c.sp.tags && memWf (spWDflt c.sp) c.sp.cells) = true := by decide +kernel

/-! ### Witnesses: ports and modules -/

/-- A network of one port mode with ports out of reset and these cages. -/
def netState (mode : Nat) (cages : List Cage) : State := { up with net := { up.net with
  mode := BitVec.ofNat 2 mode
  portReset := 0
  cages := cages } }

/-- A cage whose module is being brought up, and one whose module is active. -/
def rising : Cage := { Cage.reset with
  present := true
  bringUp := true
  rstReleased := true
  lpMode := true }

def shining : Cage := { Cage.reset with
  present := true
  active := true
  threshold := 100
  seconds := 3599
  serial := padAscii 16 [0x41] }

/-- Each mode's last port with modules active, absent, and kept in low-power mode, or held in reset, in the mode's and another port. -/
theorem wit_ports : (∀ x ∈ [(0, 7), (1, 6), (2, 4)], let p : Nat := x.2
      let s := netState x.1 [shining, Cage.reset, shining, Cage.reset]
      let t := netState x.1 (List.replicate 4 rising)
      p < s.net.ports.length ∧ (portAt s p).linkUp = false ∧ mayLink s p = true ∧ flashUp s = true ∧ mayLink t p = false ∧
        (s.net.qps.map (·.num)).Nodup ∧ (s.net.streams.map (·.sid)).Nodup) ∧
    mayLink (netState 1 []) 7 = false ∧ mayLink up 0 = false ∧ (0x40 : Byte).getLsbD (7 / 2 * 2) = true ∧
    (let s := { netState 0 [] with net := { (netState 0 []).net with streams := [{ stream0 true [] [] with port := 7 }] } }
     ∃ st ∈ s.net.streams, st.port = 7 ∧ streamValid st = true ∧ st.based = true ∧ s.net.dropping = false) := by decide +kernel

/-- Cages empty, in use and not; modules coming up, active and absent; a life record of 128 bytes, and none. -/
theorem wit_modules : (∀ wide : Bool, let s := netState 0 (List.replicate 4 Cage.reset)
      let t := { s with net := { s.net with cageWidth := wide } }
      let last := if wide then 1 else 3
      last < t.net.cages.length ∧ (cageAt t last).present = false ∧ cageOf t 7 = last) ∧
    (rising.present = true ∧ rising.bringUp = true ∧ rising.active = false ∧ Cage.reset.bringUp = false) ∧
    (let o := padAscii 16 [0x41] ++ List.replicate 112 0
     let s := { netState 0 [rising, shining] with flash := { up.flash with lives := [o] } }
     1 < s.net.cages.length ∧ lifeOf s (padAscii 16 [0x41]) = some o ∧ o.length = 128 ∧ lifeOf up (padAscii 16 [0x41]) = none ∧
      s.flash.lives.length ≤ 256 ∧ (cageAt s 1).active = true ∧ (cageAt s 1).serial = padAscii 16 [0x41] ∧
      (cageAt s 0).bringUp = true ∧ (cageAt s 1).present = true ∧
      (∃ j, j < 2 ^ (min 2 s.net.mode.toNat) ∧ cageOf s (2 + j) = 1) ∧ portInMode s.net.mode 2 = true) := by decide +kernel

/-- A lane's bias above 90 % of the threshold and at it, below 85 % and at it. -/
theorem wit_bias : let g := shining
    g.active = true ∧ 0 < g.threshold ∧ 90 * g.threshold < 100 * 91 ∧ ¬ 90 * g.threshold < 100 * 90 ∧ 100 * 84 < 85 * g.threshold ∧
      ¬ 100 * 85 < 85 * g.threshold ∧ g.wearRaised = false ∧ { g with wearRaised := true }.wearRaised = true ∧ Cage.reset.active = false := by
  decide +kernel

/-! ### Witnesses: management -/

/-- The management island at work with this argument, a flash operation, and a long command. -/
def managed (arg : W64) (l : LongCmd) (op : Option FlashOp) : State := { up with
  mg := { up.mg with
    arg := arg
    long := l }
  flash := { up.flash with ch1 := { up.flash.ch1 with op := op } } }

/-- A management port without answer and with; a command running; a dump with data ready; arguments at the end of flash and beyond. -/
theorem wit_short : let s := managed 0 .none none
    mgUp s = true ∧ s.mg.shortState ≠ 1 ∧ s.mg.longState ≠ 2 ∧ fwServes s = true ∧ fwServes State.reset = false ∧ mgUp State.reset = true ∧
      mgUp { s with pw := { s.pw with phase := .felt } } = false ∧ { s.mg with shortState := 1 }.shortState = 1 ∧
      { s.mg with longState := 2 }.longState = 2 ∧
      (let a : W64 := BitVec.ofNat 64 (511 * 2 ^ 32 + 0x3FFFFE00)
       fld a 41 32 + 1 = 512 ∧ fld a 29 0 + 512 = 1073741824) ∧
      (let a : W64 := BitVec.ofNat 64 (512 * 2 ^ 32)
       512 < fld a 41 32 + 1) ∧
      (let a : W64 := BitVec.ofNat 64 0x3FFFFFFF
       fld a 41 32 + 1 ≤ 512 ∧ ¬ 1073741824 < fld a 29 0 + 1) ∧
      minWait s.flash ≤ s.flash.waitStates.toNat ∧ wornBad s.flash 0x3FFFFE00 512 = false ∧ (∀ w < 16, statusReason s.flash (32 * w) = none) ∧ s.flash.ch1.op = none ∧
      feltBegun s = false ∧ flashUp s = true ∧ s.flash.scanDone = true ∧ s.flash.ch0.op = none ∧ s.flash.step = none ∧
      s.mg.long ≠ .program ∧ s.mg.long ≠ .erase ∧ 8 ≤ s.mg.buf.length := by decide +kernel

/-- Dumps with eight and nine entries left; operations to abort in their step and between two; a mailbox to time out; a Felt entry. -/
theorem wit_short_ends : (∀ left ∈ [8, 9], (managed 0 (.dump 120 left) none).mg.long = .dump 120 left) ∧
    (∀ l ∈ [LongCmd.program, .erase], let s := managed 0 l (some (flashOp 2 0))
      s.mg.long = l ∧ flashUp s = true ∧ s.flash.scanDone = true ∧ s.flash.ch1.op = some (flashOp 2 0) ∧ s.flash.step ≠ some 1 ∧
        { s.flash with step := some 1 }.step = some 1) ∧
    ({ up.mg with mailbox := some 0x80 }.mailbox ≠ none ∧ up.mg.mailbox = none) ∧
    feltBegun { up with pw := { up.pw with phase := .entering true 1 } } = true := by decide +kernel

/-- Long commands with each number of entries, on a page that starts a page and does not, locked, incomplete, written and erased. -/
theorem wit_long : (∀ p ∈ [(0, 0), (1, 1), (8, 8), (9, 9), (256, 256), (257, 257)], fld (BitVec.ofNat 64 (p.1 * 256 + 127)) 16 8 = p.2 ∧
      fld (BitVec.ofNat 64 (p.1 * 256 + 127)) 7 0 = 127) ∧
    (let s := managed 0x3FFFFE00 .none none
     mgUp s = true ∧ s.mg.longState ≠ 1 ∧ s.mg.longState ≠ 2 ∧ flashUp s = true ∧ s.flash.scanDone = true ∧ feltBegun s = false ∧
      s.flash.ch0.op = none ∧ s.flash.ch1.op = none ∧ s.flash.step = none ∧ s.mg.arg.toNat % 2 ^ 30 % 512 = 0 ∧
      flashLocked s.flash s.flash.ch1 16383 = false ∧ s.flash.incomplete.contains 16383 = false ∧ memSorted s.flash.ch1.buf = true ∧
      (let f := { s.flash with
        password := some 1
        regions := [⟨true, 16383, 16383⟩] }
       flashLocked f f.ch1 16383 = true) ∧
      { s.flash with incomplete := [16383] }.incomplete.contains 16383 = true) ∧
    (managed 0x3FFFFE01 .none none).mg.arg.toNat % 2 ^ 30 % 512 ≠ 0 ∧ flashByte { up.flash with cells := [(0, 0)] } 0 ≠ 0xFF ∧
    { up.mg with longState := 1 }.longState = 1 := by decide +kernel

/-- The window at a register of each width, at the upper half of a wide one, in the management block, and where it may not go;
a byte of a register of one byte, and the first and another byte of a wide one. -/
theorem wit_window : (regBlock 0x003000050014 = some (5, 0x14) ∧ winRefused up false 0x003000050014 = false ∧ isWide 5 0x14 = false ∧
      (4 ≤ 0x14 ∧ isWide 5 0x10 = false)) ∧
    (regBlock 0x003000020110 = some (2, 0x110) ∧ isWide 2 0x110 = true ∧ winRefused up true 0x003000020110 = false) ∧
    (regBlock 0x003000020114 = some (2, 0x114) ∧ isWide 2 0x114 = false ∧ isWide 2 (0x114 - 4) = true ∧
      ({ up.mg with winLow := some (0x003000020110, 5) }.winLow = some (0x003000020114 - 4, 5)) ∧ winRefused up true 0x003000020114 = false) ∧
    (regBlock 0x003000000000 = some (0, 0) ∧ winRefused up false 0x003000000000 = false) ∧
    (regBlock 0x003000070010 = some (7, 0x10) ∧ regBlock 0x00300000E000 = some (0, 0xE000)) ∧ regBlock 0x003003000000 = none ∧
    regBlock 0x002FFFFFFFFC = none ∧ up.mg.winBusy = false ∧
    (mgReg up 0x0A = (0x0A, 1, up.mg.alertEn.toNat)) ∧ (∃ v, mgReg up 0x10 = (0x10, 8, v)) ∧ ∃ v, mgReg up 0x17 = (0x10, 8, v) := by
  and_intros <;> first | exact ⟨_, rfl⟩ | decide +kernel

/-- A long command of each kind that a soft reset ends, and each state of power that TELEMETRY_SAMPLE meets. -/
theorem wit_management : (let s := managed 0 .program (some (flashOp 1 0))
     let t := { s with flash := { s.flash with step := some 1 } }
     t.mg.long = .program ∧ flashUp t = true ∧ t.flash.scanDone = true ∧ t.flash.ch1.op = some (flashOp 1 0) ∧ t.flash.step = some 1 ∧ mgUp t = true) ∧
    (∀ ph ∈ [PwPhase.off, .felt, .active], { up with pw := { up.pw with phase := ph } }.pw.phase = ph) ∧
    up.pw.phase ≠ .off ∧ up.pw.phase ≠ .felt ∧ mgUp { up with pw := { up.pw with phase := .off } } = false := by decide +kernel

/-! ### Witnesses: Calico -/

/-- A catalogue entry for streams `first` to 1023, of one lane and two slots of 4 KiB (R526). -/
def caEntry (flags first : Nat) : Bytes :=
  toLe 1 flags ++ toLe 1 0 ++ toLe 2 0 ++ toLe 2 first ++ toLe 2 1023 ++ toLe 1 1 ++ [0] ++ toLe 2 1 ++ toLe 4 1000 ++ toLe 8 0 ++ toLe 4 256 ++
    toLe 2 1 ++ toLe 2 2 ++ toLe 8 0 ++ toLe 4 4096 ++ toLe 4 0 ++ List.replicate 80 0

/-- A directory whose entry 0 is this one, without its header. -/
def caDir (e : Bytes) : Bytes := List.replicate 64 0 ++ e ++ List.replicate 1920 0

/-- A record (R525) with this mode, and the CRC that fits. -/
def caRecord (enable mode : Nat) : Bytes :=
  withSeq (toLe 4 0x434C4143 ++ toLe 2 1 ++ toLe 1 enable ++ toLe 1 mode ++ List.replicate 244 0) 1

/-- Records that pass and fail, entries that pass and fail, and entries whose ranges meet at one stream and do not. -/
theorem wit_calico_write : badRecord (caRecord 1 0) = false ∧ badRecord (caRecord 1 3) = true ∧ (caRecord 1 0).length = 256 ∧
    badCatalogue (caEntry 1 1000) = false ∧ badCatalogue (caEntry 1 1024) = true ∧ badCatalogue (caEntry 4 0) = true ∧
    (caEntry 1 0).length = 128 ∧ rangesMeet (caEntry 1 1000) (caEntry 1 1023) = true ∧ rangesMeet (caEntry 1 1000) (caEntry 0 1000) = false ∧
    memWf (fun _ => some 0xFF) up.flash.cells = true ∧ mgUp up = true ∧ up.mg.shortState ≠ 1 ∧ fwServes up = true := by decide +kernel

/-- An erased directory is not valid, so no entry of it stands in the way. -/
theorem wit_calico_dir : dirValid (List.replicate 2112 0xFF) = false ∧ catalogue (caDir (caEntry 1 1000)) 0 = caEntry 1 1000 ∧
    caOn (caEntry 1 1000) = true := by decide +kernel

/-- A device whose record enables Calico, and without one; a context that Calico owns. -/
theorem wit_calico_start : let s := { up with flash := { up.flash with record := caRecord 1 0 } }
    fwRuns s = true ∧ s.calico.state = 0 ∧ s.host.ctxs.length = 16 ∧ ¬ (s.flash.record = [] ∨ rdLe s.flash.record 6 1 % 2 = 0) ∧
      rdLe (caRecord 0 0) 6 1 % 2 = 0 ∧ { ctx0 with calico := some 0 }.calico ≠ none ∧
      { s.calico with state := 2 }.state ≠ 0 ∧ fwRuns State.reset = false ∧ Ctx.reset.batch = none ∧ Ctx.reset.calico = none := by
  decide +kernel

/-- Calico at work with entry 0 started in context 15, and streams as given. -/
def caState (streams : List Stream) (reported : List (Nat × Nat)) : State :=
  let s := heardNet streams
  { s with
    calico := { s.calico with
      state := 2
      dir := caDir (caEntry 1 1000)
      started := [(0, 15)]
      reported := reported }
    timeUs := 10000
    host := { s.host with ctxs := List.replicate 15 Ctx.reset ++ [{ Ctx.reset with
      configured := true
      hbmBytes := 8192
      calico := some 0 }] } }

/-- Reports of a stream of the entry's range, beyond it, in its first 10 ms and after; an idle stream that Calico bound. -/
theorem wit_calico_bind : let p := packet 0
    let s := caState [] []
    (entryFor s p.stream = some (0, 15) ∧ fwRuns s = true ∧ s.calico.state = 2 ∧ s.net.stEnable = true ∧ malformed p = false ∧
      boundStream s p = none ∧ freeRank s 15 = some 0 ∧ allocCtx s 15 8192 = some 0 ∧
      caSlots (caEntry 1 1000) * caSlotBytes (caEntry 1 1000) = 8192 ∧ catalogue s.calico.dir 0 = caEntry 1 1000 ∧
      streamOf s p.stream = none ∧ p.ptype = caType (caEntry 1 1000)) ∧
    entryFor s 999 = none ∧ entryFor s 1024 = none ∧
    (∃ r ∈ (caState [] [(1023, 1)]).calico.reported, r.1 = p.stream ∧ (caState [] []).timeUs < r.2 + 10000) ∧
    (∀ r ∈ (caState [] [(1023, 0)]).calico.reported, ¬ (r.1 = p.stream ∧ (caState [] []).timeUs < r.2 + 10000)) ∧
    (let y := { stream0 true [] [held0 0] with calico := true }
     streamOf (caState [y] []) 1023 = some y ∧ fwRuns s = true ∧ y.calico = true ∧ streamValid y = true ∧ streamOf s 1023 = none) := by
  decide +kernel

/-! ### Witnesses: power -/

/-- A device with this power controller. -/
def powered0 (f : Pw → Pw) : State := { up with pw := f up.pw }

/-- Samples just above the cap and at it, just below 90 % of it and at it, with each count and limit. -/
theorem wit_power_samples : let s := powered0 fun p => { p with
      above := 1
      below := 9
      capLimit := 2 }
    let cap := max 75 (min 240 s.pw.cap.toNat)
    (cap = 240 ∧ 8 * cap < 1921 ∧ ¬ 8 * cap < 1920 ∧ 10 * 1727 < 72 * cap ∧ ¬ 10 * 1728 < 72 * cap) ∧ s.pw.phase ≠ .off ∧ 1 ≤ s.pw.above ∧
      s.pw.capLimit.toNat < 3 ∧ 9 ≤ s.pw.below ∧ 0 < s.pw.capLimit.toNat ∧ up.pw.above = 0 ∧ up.pw.below < 9 ∧ up.pw.capLimit = 0 ∧
      { s.mg with powers := [1921, 0, 0] }.powers.getD 0 0 = (1921 : W16) ∧ { s.pw with pendingDiv := some 1 }.pendingDiv = some 1 ∧
      up.pw.pendingDiv = none := by decide +kernel

/-- An alarm set to a code below both grades' limits is the alarm. -/
theorem alarm_code (p : Pw) (h : p.alarm = 0x50) : alarmCode p = 0x50 := by
  unfold alarmCode
  rw [h]
  cases Config.gradeX <;> rfl

/-- A device with its alarm at 0x50, sensor 0 at `c` and a thermal limit. -/
def thermo (c : Byte) (n : BitVec 2) : State := { up with
  pw := { up.pw with
    alarm := 0x50
    thermalLimit := n }
  mg := { up.mg with temps := [c, 0, 0, 0, 0, 0, 0, 0] } }

theorem thermo_alarm (c : Byte) (n : BitVec 2) : alarmCode (thermo c n).pw = 0x50 := alarm_code _ rfl

/-- A sensor at the alarm, one below it that is not cool, and one below it by more than the hysteresis, with limits to move. -/
theorem wit_thermal : (alarmed (thermo 0x50 2) = true ∧ (thermo 0x50 2).pw.phase = .active ∧ (thermo 0x50 2).pw.thermalLimit.toNat < 3) ∧
    (alarmed (thermo 0x4B 2) = false ∧ cooled (thermo 0x4B 2) = false) ∧
    (cooled (thermo 0x4A 1) = true ∧ 0 < (thermo 0x4A 1).pw.thermalLimit.toNat) ∧
    ((thermo 0x50 0).mg.temps.getD 0 0 ≠ 0 ∧ alarmCode (thermo 0x50 0).pw ≤ ((thermo 0x50 0).mg.temps.getD 0 0).toNat) ∧
    (thermo 0x50 0).pw.phase ≠ .off ∧ (thermo 0x50 0).pw.phase ≠ .tripped := by
  simp only [alarmed, cooled, thermo_alarm]
  decide +kernel

/-- Requests that each refusal and acceptance meets: the states that wait, a debug session, no wake port, and the phases. -/
theorem wit_requests : let at1 := fun ph => (powered0 fun p => { p with phase := ph })
    (mgUp up = true ∧ up.pw.phase = .active ∧ up.host.upd.handover = false ∧ up.pw.inReset = false ∧ up.sc.firmware = false ∧
      up.sc.silicon = false) ∧
    (∀ f : Bool, mgUp (at1 (.entering f 0)) = true ∧ mgUp (at1 (.exiting f)) = true ∧ (at1 (.exiting f)).pw.phase = .exiting f) ∧
    (mgUp (at1 .voile) = true ∧ mgUp (at1 .tripped) = true) ∧ State.reset.pw.inReset = true ∧ mgUp State.reset = true ∧
    (let s := { up with sc := { up.sc with firmware := true } }
     s.sc.firmware = true) ∧
    (let s := netState 1 []
     let t := { s with net := { s.net with
       wakeEnable := true
       wakePort := 7 } }
     let u := { s with net := { s.net with
       wakeEnable := true
       wakePort := 6 } }
     (t.net.wakeEnable = true ∧ portInMode t.net.mode t.net.wakePort.toNat = false) ∧
      portInMode u.net.mode u.net.wakePort.toNat = true ∧ u.net.portReset.getLsbD u.net.wakePort.toNat = false ∧
      up.net.portReset.getLsbD up.net.wakePort.toNat = true) := by decide +kernel

/-- Each abort point, with a wake that has come and without, cores idle and not, flash idle and not. -/
theorem wit_entries : (∀ w : Bool, ∀ f : Bool, ∀ n < 5, let s := powered0 fun p => { p with
        phase := .entering f n
        wakePending := w }
      s.pw.phase = .entering f n ∧ (s.pw.wakePending = true ↔ w = true) ∧ coresIdle s = true ∧ s.flash.ch0.op = none ∧ s.flash.ch1.op = none) ∧
    coresIdle (one run0) = false ∧ (managed 0 .erase (some (flashOp 2 0))).flash.ch1.op ≠ none ∧
    (let s := netState 0 (List.replicate 4 rising)
     3 < s.net.cages.length ∧ cageOf s 7 = 3) := by decide +kernel

/-- Each source heard and not, in each state; the timer; the port's address; a wake frame at the last offset. -/
theorem wit_wakes : let at1 := fun ph => (powered0 fun p => { p with
        phase := ph
        timerArmed := true })
    ((at1 .felt).pw.phase = .felt ∧ (at1 .voile).pw.timerArmed = true ∧ up.pw.timerArmed = false) ∧
    ((4 : BitVec 7) &&& 0x7B = 0 ∧ (0x7F : BitVec 7) &&& 0x7B &&& 0x7F ≠ 0 ∧ (4 : BitVec 7) &&& 0x7F ≠ 0 ∧ (2 : BitVec 7) &&& 0x7F &&& 0x7D = 0) ∧
    ((at1 .felt).mg.dynAddr.getD (at1 .felt).mg.staticAddr ≠ 0x7E ∧ (at1 .felt).mg.dynAddr.getD (at1 .felt).mg.staticAddr < 128) ∧
    (let s := { at1 .felt with net := { up.net with
       macs := [1, 2, 3, 4, 5, 6, 7, 8]
       wakePort := 7
       wakeOffset := 127
       wakePattern := List.replicate 16 0xAA
       wakeMask := List.replicate 16 0xFF } }
     let f := List.replicate 112 (0 : Byte) ++ List.replicate 16 0xAA
     isWakeFrame s 7 8 f = true ∧ isWakeFrame s 7 8 (f.dropLast) = false ∧ isWakeFrame s 6 7 f = false ∧ s.pw.phase = .felt) ∧
    (∀ f : Bool, (at1 (.exiting f)).pw.phase = .exiting f) := by decide +kernel

/-! ### Witnesses: resets, boot, security and the machine as a whole -/

/-- Each phase that a warm reset meets, and writes that wait; clocks ready to start, and held by a trip that is still hot. -/
theorem wit_resets : (∀ ph ∈ [PwPhase.off, .active, .voile, .felt], (powered0 fun p => { p with phase := ph }).pw.phase = ph) ∧
    (∀ p ∈ (chanState { PseudoChan.reset with reads := [⟨lastUnit, 1, 2, false, [], 0⟩] }).hbm.chans, p.2.writes = []) ∧ State.reset.pw.phase = .active ∧
    State.reset.pw.inReset = true ∧ State.reset.pw.thermTripPin = false ∧ up.pw.inReset = false ∧ 31 < State.reset.cores.length := by
  decide +kernel

theorem wit_pll_waits : alarmed (thermo 0x50 0) = true := by
  simp only [alarmed, thermo_alarm]
  decide +kernel

/-- A device ready to boot: a copy whose sector is incomplete fails check 1, and a blank image fails check 2. -/
def unbooted (f : Sc → Sc) (bad : List Nat) : State := { up with
  sc := f up.sc
  flash := { up.flash with incomplete := bad } }

theorem wit_boot : let s := unbooted (fun c => c) []
    (s.pw.pllLocked = true ∧ s.flash.scanDone = true ∧ s.sc.booted = false ∧ s.sc.resultA = 0xF ∧ s.sc.resultB = 0xF) ∧
    ¬ (s.sc.lifecycle = 2 ∧ s.sc.decomDone = false) ∧ State.reset.flash.scanDone = false ∧ imageCheck s [] [] = 2 ∧
    (let h := unbooted (fun c => { c with
       lifecycle := 2
       decomDone := false }) []
     h.sc.lifecycle = 2 ∧ h.sc.decomDone = false) ∧
    (let r := { unbooted (fun c => { c with booted := true }) [] with
       hbm := up.hbm
       host := { up.host with fwReady := false } }
     r.sc.booted = true ∧ r.hbm.trainDone = true ∧ r.host.fwReady = false ∧ r.pw.wdtRunning = true) := by decide +kernel

/-- An image is checked in its copy's sectors first: with one of them incomplete the code is 1, in either copy. -/
theorem wit_boot_incomplete : ∀ c : Bool, ∀ b, let s := unbooted (fun c => c) [copyBase true / 65536, copyBase false / 65536]
    imageCheck s b (copySectors c) = 1 := by
  intro c b
  have h : ((copySectors c).any (unbooted (fun c => c) [copyBase true / 65536, copyBase false / 65536]).flash.incomplete.contains) = true := by
    cases c <;> decide +kernel
  show imageCheck _ _ _ = 1
  unfold imageCheck
  rw [if_pos h]

/-- A core with and without a batch, one that failed, one out of service, and the watchdog's time to the microsecond. -/
theorem wit_cores : let b := { batch0 with failing := true }
    let s := laned own { ctx0 with batch := some b }
    let t := { laned own Ctx.reset with log := { up.log with coreService := 1 } }
    (fwRuns s = true ∧ 0 < s.cores.length ∧ coreRuns s 0 = true ∧ (coreAt s 0).ctx = some 0 ∧ (ctxAt s 0).batch = some b ∧ b.failing = true) ∧
    (coreRuns (laned own { ctx0 with batch := some batch0 }) 0 = true ∧ batch0.failing = false) ∧
    (fwRuns t = true ∧ t.log.coreService.getLsbD 0 = true ∧ t.log.coreFailed.getLsbD 0 = false ∧ coreRuns t 0 = false ∧
      ∀ c, c < 16 → 0 ∉ ctxCores (ctxAt t c)) ∧ up.log.coreService.getLsbD 31 = false ∧
    (let w := fun n => { up with timeUs := n }
     (w 0).pw.wdtRunning = true ∧ (w 0).pw.wdtSuspended = false ∧ (w 0).sc.fwHalted = false ∧
      (w 0).pw.wdtSince + 1000 * max 10 (w 0).pw.wdtPeriod.toNat ≤ (w 100000).timeUs ∧
      ¬ (w 0).pw.wdtSince + 1000 * max 10 (w 0).pw.wdtPeriod.toNat ≤ (w 99999).timeUs) ∧ State.reset.pw.wdtRunning = false := by
  decide +kernel

/-- A part in each lifecycle state, with the first key given and without; sessions open, challenges to answer, and the last try. -/
theorem wit_security : let sec := fun (f : Sc → Sc) => { up with sc := f up.sc }
    (up.sc.lifecycle ≠ 2 ∧ up.sc.decomKey = false ∧ (sec fun c => { c with decomKey := true }).sc.decomKey = true ∧
      (sec fun c => { c with lifecycle := 2 }).sc.lifecycle = 2) ∧
    (∀ l ∈ [0, 1, 2], (sec fun c => { c with lifecycle := BitVec.ofNat 2 l }).sc.lifecycle = BitVec.ofNat 2 l) ∧ up.sc.challenge = none ∧
    (∀ n ∈ [3, 4], let s := sec fun c => { c with
        challenge := some (2, List.replicate 96 0)
        unlockFailures := BitVec.ofNat 3 n }
      s.sc.challenge = some (2, List.replicate 96 0) ∧ (s.sc.unlockFailures.toNat < 4 ↔ n = 3)) ∧
    (let s := sec fun c => { c with
       firmware := true
       silicon := true
       fwHalted := true }
     s.sc.firmware = true ∧ s.sc.silicon = true ∧ s.sc.fwHalted = true ∧ s.pw.phase = .active) ∧ up.sc.firmware = false ∧
    up.sc.silicon = false := by decide +kernel

/-- Offsets of the direct map next to each other that differ in what a write does, with in-band interrupts enabled and not. -/
theorem wit_direct : mgUp up = true ∧ 0x08 < 0x09 ∧ 0x16 < 0x17 ∧ { up.mg with ibiEnabled := true }.ibiEnabled = true ∧
    { up.mg with ibiEnabled := false }.ibiEnabled = false ∧
    (let g := { up.mg with
       alert := 0x10
       alertEn := 0 }
     (g.alert &&& 0x10) &&& ~~~ (g.alert &&& g.alertEn) ≠ 0) ∧ RegPath.firmware ≠ RegPath.pf0 ∧
    { up.pw with phase := PwPhase.off }.phase = .off ∧ ¬ (0x003000000000 : Nat) < 0x003000000000 ∧
    (0x003000060000 ≤ 0x00300006FFFC ∧ 0x00300006FFFC < 0x003001000000) ∧ 31 < State.reset.cores.length ∧ State.reset.pw.phase = .active := by
  decide +kernel

/-- An empty queue with nothing for firmware to do, with power and without. -/
theorem wit_idle : (State.reset.pending = [] ∧ State.reset.mg.mailbox = none ∧ State.reset.calico.state ≠ 3 ∧
      ∀ x ∈ State.reset.flash.incomplete, areaOf x < 2 ∨ 4 < areaOf x) ∧
    (powered0 fun p => { p with phase := .off }).pw.phase = .off ∧ up.pending = [] := by decide +kernel

/-! ### The state after reset meets every invariant -/

theorem reset_numbered : Numbered State.reset := by constructor <;> decide +kernel

theorem reset_settled : Settled State.reset := by
  unfold Settled
  decide +kernel

theorem reset_sized : ∀ c ∈ State.reset.cores, FilesSized c := by
  have h : ∀ c ∈ State.reset.cores, c = Core.reset := by
    intro c hc
    exact (List.mem_replicate.mp hc).2
  intro c hc
  rw [h c hc]
  constructor <;> decide +kernel

theorem reset_memories : MemoriesOk State.reset := by constructor <;> decide +kernel

theorem reset_distinct : Distinct State.reset := by constructor <;> decide +kernel

theorem reset_sessions : SessionsLegal State.reset := by
  refine ⟨by decide +kernel, fun level c h => ?_, by decide +kernel, by decide +kernel⟩
  have : State.reset.sc.challenge = none := by decide +kernel
  rw [this] at h
  cases h

/-! ### Ill-formed commands are refused, each beside the last well-formed one -/

theorem smoke_core : wellFormed (.nop 31) = true ∧ wellFormed (.nop 32) = false := by decide

theorem smoke_ring : wellFormed (.runBatch 63) = true ∧ wellFormed (.runBatch 64) = false := by decide

theorem smoke_context : wellFormed (.batchFail 15) = true ∧ wellFormed (.batchFail 16) = false := by decide

theorem smoke_slot : wellFormed (.slotRetire 15 1) = true ∧ wellFormed (.slotRetire 15 2) = false ∧ wellFormed (.slotRetire 16 0) = false := by
  decide

theorem smoke_stack : wellFormed (.selfRefreshEntry 1) = true ∧ wellFormed (.selfRefreshEntry 2) = false := by decide

theorem smoke_pseudo_channel : wellFormed (.refresh 63 15) = true ∧ wellFormed (.refresh 64 15) = false ∧ wellFormed (.refresh 63 16) = false := by
  decide

theorem smoke_flash_channel : wellFormed (.unlock 1) = true ∧ wellFormed (.unlock 2) = false ∧ wellFormed (.setRegion 1 15 true) = true ∧
    wellFormed (.setRegion 1 16 true) = false ∧ wellFormed (.flashRead 0x3FFFFFFF .clean) = true ∧
    wellFormed (.flashRead 0x40000000 .clean) = false := by decide

theorem smoke_port : wellFormed (.linkUp 7) = true ∧ wellFormed (.linkUp 8) = false ∧ wellFormed (.linkDown 8) = false ∧
    wellFormed (.pfcPauseEnd 7 7) = true ∧ wellFormed (.pfcPauseEnd 7 8) = false ∧ wellFormed (.xoffRefresh 8 0 0) = false ∧
    wellFormed (.receivedFrame 8 0 0 .badFcs) = false ∧ wellFormed (.wake 1 8) = false ∧ wellFormed (.pfcFrame 7 [(7, 65535)]) = true ∧
    wellFormed (.pfcFrame 7 [(8, 0)]) = false ∧ wellFormed (.pfcFrame 7 [(7, 65536)]) = false ∧
    wellFormed (.wakeFrame 7 (2 ^ 48) []) = false ∧ wellFormed (.wakeFrame 8 0 []) = false := by decide

theorem smoke_cage : wellFormed (.moduleInsert 7) = true ∧ wellFormed (.moduleInsert 8) = false ∧
    wellFormed (.moduleReady 7 [] [] [] 0 true 8 []) = false := by decide

theorem smoke_pair_and_link : wellFormed (.cnpReceive 1023) = true ∧ wellFormed (.cnpReceive 1024) = false ∧ wellFormed (.linkPageSend 63) = true ∧
    wellFormed (.linkPageSend 64) = false ∧ wellFormed (.linkCreditReturn 63 63) = true ∧ wellFormed (.linkCreditReturn 63 64) = false := by
  decide

theorem smoke_stream : wellFormed (.calicoIdleUnbind 4095) = true ∧ wellFormed (.calicoIdleUnbind 4096) = false := by decide

theorem smoke_check : wellFormed (.drain 0 [(131071, 1071), (5, 0)]) = true ∧ wellFormed (.drain 0 [(131072, 0)]) = false ∧
    wellFormed (.drain 0 [(131071, 1071), (5, 1072)]) = false := by decide

theorem smoke_cores : wellFormed (.hostBatchStart 0 [31, 0]) = true ∧ wellFormed (.hostBatchStart 0 [31, 31]) = false ∧
    wellFormed (.streamBatchStart 0 [32]) = false := by decide

theorem smoke_packet : wellFormed (.streamPacket (packet 0)) = true ∧ wellFormed (.streamPacket { packet 0 with stream := 65536 }) = false ∧
    wellFormed (.creditProbe { packet 0 with frameBytes := 2 ^ 32 }) = false ∧
    wellFormed (.unboundReport { packet 0 with srcAddr := 2 ^ 128 }) = false := by decide +kernel

theorem smoke_roce : wellFormed (.rocePacket (roce .send 16777215)) = true ∧ wellFormed (.rocePacket (roce .send 16777216)) = false ∧
    wellFormed (.rocePacket { roce .send 0 with qp := 1024 }) = false := by decide +kernel

theorem smoke_hbm : wellFormed (.hbmRequest ⟨false, false, 0, 1, [], 0, 0⟩) = true ∧ wellFormed (.hbmRequest ⟨false, false, 0, 0, [], 0, 0⟩) = false ∧
    wellFormed (.hbmRequest ⟨true, false, 0, 1, [], 0, 0⟩) = false ∧ wellFormed (.hbmTraining true (List.replicate 256 255)) = true ∧
    wellFormed (.hbmTraining true (List.replicate 255 255)) = false ∧ wellFormed (.hbmTraining true (List.replicate 256 256)) = false := by
  decide +kernel

theorem smoke_core_parts : wellFormed (.tokenDelivery 0 7) = true ∧ wellFormed (.tokenDelivery 0 8) = false ∧
    wellFormed (.unscheduledAccess 0 32 []) = true ∧ wellFormed (.unscheduledAccess 0 33 []) = false ∧
    wellFormed (.correctionWriteBack 0 31) = true ∧ wellFormed (.correctionWriteBack 0 32) = false ∧ wellFormed (.scrubStep 31 31 []) = true ∧
    wellFormed (.scrubStep 31 32 []) = false ∧ wellFormed (.pageZero 0 4095) = true ∧ wellFormed (.pageZero 0 4096) = false := by decide

theorem smoke_host : wellFormed (.bar2Access false (2 ^ 28 - 4) 4 []) = true ∧ wellFormed (.bar2Access false (2 ^ 28 - 3) 4 []) = false ∧
    wellFormed (.bar2Access true 0 4 []) = false ∧ wellFormed (.registerWrite .pf0 (2 ^ 48 - 1) 0) = true ∧
    wellFormed (.registerWrite .pf0 (2 ^ 48) 0) = false := by decide

theorem smoke_management : wellFormed (.multibyteLatchRead 255) = true ∧ wellFormed (.multibyteLatchRead 256) = false ∧
    wellFormed (.entdaa 127) = true ∧ wellFormed (.entdaa 128) = false ∧ wellFormed (.setdasa 128 0) = false ∧ wellFormed (.setdasa 0 128) = false ∧
    wellFormed (.setnewda 128) = false ∧ wellFormed (.mgAddressMatch 128) = false ∧
    wellFormed (.telemetrySample (List.replicate 8 0) 0 0 0) = true ∧ wellFormed (.telemetrySample [] 0 0 0) = false ∧
    wellFormed (.thermalAlarm 7) = true ∧ wellFormed (.thermalAlarm 8) = false := by decide

theorem smoke_reset_and_debug : wellFormed (.coldReset 3) = true ∧ wellFormed (.coldReset 4) = false ∧
    wellFormed (.dbgChallenge 2 (List.replicate 32 0)) = true ∧ wellFormed (.dbgChallenge 2 (List.replicate 31 0)) = false ∧
    wellFormed (.dbgResponse (List.replicate 32 0) (List.replicate 64 0) true) = true ∧
    wellFormed (.dbgResponse (List.replicate 31 0) (List.replicate 64 0) true) = false ∧
    wellFormed (.dbgResponse (List.replicate 32 0) (List.replicate 63 0) true) = false := by decide

/-- No row of the table gives bits, so no word spells a command, and the queue is as it was. -/
theorem test_no_word : decodeTableWord 32 0 = none ∧ State.reset.withFetchWord 32 0 = State.reset := ⟨rfl, rfl⟩

/-! ### One step, with results from the manual's rules -/

/-- What `f` reads of the state after a command. -/
def shows {α : Type} (i : Instr) (s : State) (f : State → α) : Option α :=
  match step { s with pending := [i] } with
  | .next t => some (f t)
  | _ => none

/-- A core at the bundle `b` with these address, increment and scalar registers. -/
def withFiles (b : BitVec 256) (f : Ctl → Ctl) : State := one { atBundle b with ctl := f (atBundle b).ctl }

/-- SETA keeps its 24-bit immediate (R239). -/
theorem test_seta : shows (.seta 0) (one (atBundle (op0 0x01 (15 * 2 ^ 42 + 0xFFFFFF)))) (fun t => (coreAt t 0).ctl.a.getD 15 0) =
    some 0xFFFFFF := by decide +kernel

/-- SETI's immediate goes to the increment register and leaves the address register (R239). -/
theorem test_seti : shows (.seti 0) (one (atBundle (op0 0x02 (3 * 2 ^ 42 + 0xFFFFFF))))
    (fun t => ((coreAt t 0).ctl.inc.getD 3 0, (coreAt t 0).ctl.a.getD 3 0)) = some (0xFFFFFF, 0) := by decide +kernel

/-- ADDA wraps modulo 2^24 (R239). -/
theorem test_adda_wraps : shows (.adda 0) (withFiles (op0 0x05 (2 ^ 38 + 2)) fun c => { c with a := c.a.set 1 0xFFFFFF })
    (fun t => (coreAt t 0).ctl.a.take 2) = some [1, 0xFFFFFF] := by decide +kernel

/-- STEPA adds each named register's own increment, all at once, and leaves the others (R239). -/
theorem test_stepa : shows (.stepa 0) (withFiles (op0 0x06 5) fun c => { c with
      a := [1, 2, 3] ++ List.replicate 13 0
      inc := [0xFFFFFF, 7, 4] ++ List.replicate 13 0 }) (fun t => (coreAt t 0).ctl.a.take 3) = some [0, 2, 7] := by decide +kernel

/-- An arithmetic shift right by 31 of the most negative word copies its sign; a logical one gives 1 (R239). -/
theorem test_alu_shifts : ∀ p ∈ [(7, 0xFFFFFFFF), (6, 1)], shows (.alu 0)
    (withFiles (op0 0x07 (2 ^ 45 + 2 ^ 36 + p.1 * 2 ^ 28 + 2 ^ 27 + 31)) fun c => { c with s := c.s.set 1 0x80000000 })
    (fun t => ((coreAt t 0).ctl.s.getD 0 0).toNat) = some p.2 := by decide +kernel

/-- The immediate is sign-extended: 1 - (-1) is 2 (R239). -/
theorem test_alu_immediate : shows (.alu 0) (withFiles (op0 0x07 (2 ^ 45 + 2 ^ 36 + 2 ^ 28 + 2 ^ 27 + 0xFFFF)) fun c => { c with s := c.s.set 1 1 })
    (fun t => (coreAt t 0).ctl.s.getD 0 0) = some 2 := by decide +kernel

/-- MOVX reads an increment register sign-extended from bit 23 and an address register zero-extended (R239). -/
theorem test_movx : ∀ p ∈ [(3, 0xFF800000), (0, 0x800000)], shows (.movx 0)
    (withFiles (op0 0x08 (2 * 2 ^ 44 + p.1 * 2 ^ 38 + 2 * 2 ^ 34)) fun c => { c with
      a := c.a.set 2 0x800000
      inc := c.inc.set 2 0x800000 }) (fun t => ((coreAt t 0).ctl.s.getD 0 0).toNat) = some p.2 := by decide +kernel

/-- FLAG sets the last flag and no other (R239). -/
theorem test_flag : shows (.flagOp 0) (one (atBundle (op0 0x13 (63 * 2 ^ 40 + 2 ^ 39)))) (fun t => (coreAt t 0).ctl.flags) =
    some 0x8000000000000000 := by decide +kernel

/-- The static address is 0x58 with the strap's level, sampled at cold reset (R506). -/
theorem test_static_address : shows (.coldReset 3) up (fun t => (t.mg.staticAddr, t.pw.inReset, t.host.fwReady)) = some (0x5B, true, false) := by
  decide +kernel

/-- MG_ALERT's bits are cleared by the ones written, and the next transfer starts at the next offset (R507, R510). -/
theorem test_alert_clears : shows (.registerWrite .direct 0x09 0x03) { up with mg := { up.mg with alert := 0x07 } }
    (fun t => (t.mg.alert, t.mg.regOffset)) = some (0x04, 0x0A) := by decide +kernel

/-- The second sample above the cap moves the cap limit one step slower, and the divider with it (R534, R536). -/
theorem test_cap : shows .powerSample { powered0 (fun p => { p with above := 1 }) with mg := { up.mg with powers := [2000, 0, 0] } }
    (fun t => (t.pw.capLimit, t.pw.curDiv)) = some (1, 1) := by decide +kernel

/-- A retained byte, its tag, and a byte of a block that is not retained after Felt (R553). -/
theorem test_felt_exit : shows .feltExit { one { own with sp := { Sp.reset with
      cells := [(5, 9), (2097152, 9)]
      tags := [(0, 1), (512, 1)] } } with pw := { up.pw with
        phase := .exiting true
        rb := 1 } }
    (fun t => (spRead (coreAt t 0).sp 5 1, spRead (coreAt t 0).sp 2097152 1, tagOf (coreAt t 0).sp 0, tagOf (coreAt t 0).sp 512)) =
      some ([9], [0], 1, 0) := by decide +kernel

/-- Without power nothing answers on the management port; in the TAP, BYPASS shifts out a 0 (R578). -/
theorem test_bypass : shows .bypass up (fun t => (t.sc.jtagIr, t.sc.tdo)) = some (0xFF, [0]) := by decide +kernel

/-- A step with nothing to do is a microsecond of the log's clock, and 1,000 ns of the PTP clock while it runs (assumption 38). -/
theorem test_idle : (match step { up with net := { up.net with ptpRuns := true } } with
    | .next t => (t.timeUs, t.net.ptp)
    | _ => (0, 0)) = (1, 1000) := by decide +kernel

/-- The command in front runs first, and the one behind it stays in the queue. -/
theorem test_queue : (match step { up with pending := [.bypass, .highz] } with
    | .next t => (t.sc.jtagIr, t.pending)
    | _ => (0, [])) = (0xFF, [.highz]) := by decide +kernel

end Sys2Proof.Tests
end

section
/-!
SUPPORT. Rows of the matrix engine: what the association lists of the accumulators and turnarounds answer after a write, when
a row's issue and its commit take place, and what each makes of the core (R70 to R72, R83, R97, R213).
-/

namespace Sys2Proof.Machine

/-! ### Association lists -/

theorem find_put_same {β : Type} (l : List (Nat × β)) (k : Nat) (v : β) :
    (put l k v).find? (fun p => p.1 == k) = some (k, v) := by
  have gone : (l.filter fun p => p.1 != k).find? (fun p => p.1 == k) = none := by simp [List.find?_eq_none]
  simp [put, List.find?_append, gone]

theorem find_put_ne {β : Type} (l : List (Nat × β)) {k j : Nat} (v : β) (h : j ≠ k) :
    (put l k v).find? (fun p => p.1 == j) = l.find? (fun p => p.1 == j) := by
  have kept : (l.filter fun p => p.1 != k).find? (fun p => p.1 == j) = l.find? (fun p => p.1 == j) := by
    rw [List.find?_filter]
    congr 1
    funext p
    by_cases e : p.1 = j <;> simp [e, h]
  simp [put, List.find?_append, kept, h.symm]

/-- Entry `e` written: its lanes are those written, whatever a reset left. -/
theorem accLanes_put_same {m x : Mx} {e : Nat} {v : List Int} (acc : x.acc = put m.acc e v) : accLanes x e = v := by
  simp [accLanes, acc, find_put_same]

theorem accLanes_put_ne {m x : Mx} {e j : Nat} {v : List Int} (acc : x.acc = put m.acc e v) (free : x.accFree = m.accFree)
    (h : j ≠ e) : accLanes x j = accLanes m j := by
  simp only [accLanes, acc, free, find_put_ne _ _ h]

/-! ### A row's issue -/

/-- The scheduled read of the running word's next row (R83, R97); its marker is set in the last pass only (R244). -/
def rowAcc (r : RunState) (byteMode : Bool) : Acc :=
  let a := rowAddress r byteMode r.idx
  let next := if r.row + 1 < r.m then some [pageOf (rowAddress r byteMode (walkNext r.desc r.idx))] else none
  ⟨⟨0, r.word.cycle, r.word.bundle, r.pass, r.acc⟩, [(pageOf a, bankOf a)],
    if r.pass + 1 = r.npass then markPages r.release [pageOf a] next else [], 0⟩

/-- The row as it enters the pipeline under tile `t`, from the bytes at `a` (R71, R72, R83). -/
def enteringRow (c : Core) (r : RunState) (t : Tile) (a : Nat) : FlightRow :=
  let hi := passActHi (t.width == 3) r.split r.pass
  { commit := c.ctl.cycle + 9, entry := r.acc + r.row
    sums := (columnSums t (rowInputs (vecBytes c a 128) (r.split && !hi) (r.kFirst, r.kCount))).map fun s =>
      if hi then s * 256 else s
    writes := r.clear && r.pass == 0, mBit := mBitOf r.desc r.mLimit r.idx, nFirst := r.nFirst, nCount := r.nCount }

/-- The running word once its next row has issued: at its next row, at its next pass, or done (R81, R83). -/
def runAfterRow (r : RunState) (byteMode : Bool) : Option RunState :=
  if r.row + 1 < r.m then some { r with row := r.row + 1, idx := walkNext r.desc r.idx }
  else if r.pass + 1 < r.npass then
    some { r with pass := r.pass + 1, opened := false, row := 0, idx := walkStart
                  opens := r.opens + if byteMode then max r.m 64 else r.m }
  else none

theorem enterRow_of_active {c : Core} {t : Tile} (r : RunState) (a : Nat) (active : c.mx.active = some t) :
    enterRow r a c = { c with mx := { c.mx with
      flight := c.mx.flight ++ [enteringRow c r t a]
      run := runAfterRow r (t.width == 3)
      rowCount := c.mx.rowCount + 1
      idleMark := c.ctl.cycle + 1 } } := by
  simp only [enterRow, active]
  rfl

/-- A row whose read is permitted enters the pipeline. -/
theorem tryRow_of_permitted {d : Core} {r : RunState} {t : Tile} (run : d.mx.run = some r) (opened : r.opened = true)
    (active : d.mx.active = some t) (p : Permitted d false false [rowAcc r (t.width == 3)]) :
    tryRow d = .go (enterRow r (rowAddress r (t.width == 3) r.idx) (accessed d false [rowAcc r (t.width == 3)])) := by
  have byte : activeByte d = (t.width == 3) := by simp [activeByte, active]
  rw [← schedAccess_permitted _ p]
  simp [tryRow, run, opened, byte, rowAcc]

/-- The next row of a running word issues when its event is due. -/
theorem passEvent_row {c d x : Core} {r : RunState} (run : c.mx.run = some r) (opened : r.opened = true)
    (due : Due c (runKey r) d) (go : tryRow d = .go x) : passEvent true c = After d x := by
  rw [After, ← coreEvent_go due.may due.arrives due.arrived go]
  simp [passEvent, run, opened]

theorem exec_rowIssue_of_event {s : State} {k : Nat} {flips : Flips} {x : Core}
    (h : passEvent true (flipCore flips (coreAt s k)) = x) : exec (.rowIssue k flips) s = .next (becomes s k x) :=
  congrArg Host.Outcome.next (onCore_eq h)

/-! ### A row's sums -/

theorem rowInputs_getD (bs : Bytes) (low : Bool) (km : Nat × Nat) (i : Nat) :
    (rowInputs bs low km).getD i 0 =
      if maskBit km i then (if low then ((bs.getD i 0).toNat : Int) else (bs.getD i 0).toInt) else 0 := by
  by_cases h : i < bs.length
  · simp [rowInputs, h, sByte]
  · simp [rowInputs, h]

theorem columnSums_getD (t : Tile) (xs : List Int) {n : Nat} (h : n < 128) :
    (columnSums t xs).getD n 0 = ((List.range 128).map fun i => xs.getD i 0 * tileLevel t i n).sum := by
  simp [columnSums, h]

/-- Lane `n` of an entering row is the exact column sum of its row inputs and the tile's scaled levels (R70, R71, R83, R87). -/
theorem enteringRow_sums (c : Core) (r : RunState) (t : Tile) (a : Nat) {n : Nat} (h : n < 128) :
    let hi := passActHi (t.width == 3) r.split r.pass
    (enteringRow c r t a).sums.getD n 0 = ((List.range 128).map fun i =>
      (if r.kFirst ≤ i ∧ i < r.kFirst + r.kCount then
        (if r.split = true ∧ hi = false then (((vecBytes c a 128).getD i 0).toNat : Int)
          else ((vecBytes c a 128).getD i 0).toInt)
        else 0) * tileLevel t i n).sum * if hi then 256 else 1 := by
  intro hi
  have shift : ∀ l : List Int, (l.map fun s => if hi then s * 256 else s).getD n 0 = l.getD n 0 * if hi then 256 else 1 := by
    intro l
    cases hi
    · simp
    · simpa using List.getD_map (f := (· * (256 : Int))) (l := l) (d := 0) (n := n)
  have sums := columnSums_getD t (rowInputs (vecBytes c a 128) (r.split && !hi) (r.kFirst, r.kCount)) h
  simp only [rowInputs_getD, maskBit, Bool.and_eq_true, decide_eq_true_eq, Bool.not_eq_true'] at sums
  rw [← sums]
  exact shift _

/-! ### A row's commit -/

/-- The value one lane of a commit comes to before it is held within 48 bits (R53). -/
def exactLane (m : Mx) (f : FlightRow) (n : Nat) : Int :=
  if f.writes then f.sums.getD n 0 else (accLanes m f.entry).getD n 0 + f.sums.getD n 0

/-- Lane `n` of a commit, with whether it was held at a limit (R53, R85 to R87). -/
def commitLane (m : Mx) (f : FlightRow) (n : Nat) : Int × Bool :=
  if f.mBit && maskBit (f.nFirst, f.nCount) n then
    accSum f.writes ((accLanes m f.entry).getD n 0) (f.sums.getD n 0)
  else ((accLanes m f.entry).getD n 0, false)

/-- The M and N masks of a row pass lane `n` (R85, R86). -/
def lanePassed (f : FlightRow) (n : Nat) : Prop := f.mBit = true ∧ f.nFirst ≤ n ∧ n < f.nFirst + f.nCount

theorem commitLane_of_passed {m : Mx} {f : FlightRow} {n : Nat} (h : lanePassed f n) :
    commitLane m f n = accSum f.writes ((accLanes m f.entry).getD n 0) (f.sums.getD n 0) := by
  obtain ⟨hm, hlo, hhi⟩ := h
  simp [commitLane, maskBit, hm, hlo, hhi]

theorem commitLane_of_not_passed {m : Mx} {f : FlightRow} {n : Nat} (h : ¬ lanePassed f n) :
    commitLane m f n = ((accLanes m f.entry).getD n 0, false) := by
  refine if_neg fun pass => h ?_
  simpa [lanePassed, maskBit] using pass

theorem accSum_eq (m : Mx) (f : FlightRow) (n : Nat) :
    accSum f.writes ((accLanes m f.entry).getD n 0) (f.sums.getD n 0) =
      (max (-2 ^ 47) (min (2 ^ 47 - 1) (exactLane m f n)),
        decide (¬ (-2 ^ 47 ≤ exactLane m f n ∧ exactLane m f n ≤ 2 ^ 47 - 1))) := by
  have outside : ∀ v : Int, clampInt (-140737488355328) 140737488355327 v ≠ v ↔ ¬ (-2 ^ 47 ≤ v ∧ v ≤ 2 ^ 47 - 1) := by
    intro v
    unfold clampInt
    omega
  exact Prod.ext rfl (decide_eq_decide.mpr (outside _))

/-- A lane of a commit is held at a limit when it passes the masks and its sum is outside 48 bits. -/
theorem commitLane_held_iff (m : Mx) (f : FlightRow) (n : Nat) : (commitLane m f n).2 = true ↔
    lanePassed f n ∧ ¬ (-2 ^ 47 ≤ exactLane m f n ∧ exactLane m f n ≤ 2 ^ 47 - 1) := by
  by_cases h : lanePassed f n
  · rw [commitLane_of_passed h, accSum_eq]
    simp only [h, decide_eq_true_eq, true_and]
  · rw [commitLane_of_not_passed h]
    simp [h]

theorem commitRow_lanes (d : Core) (f : FlightRow) (rest : List FlightRow) {n : Nat} (h : n < 128) :
    (accLanes (commitRow d f rest).mx f.entry).getD n 0 = (commitLane d.mx f n).1 := by
  rw [accLanes_put_same (m := d.mx) rfl]
  simp [h, commitLane]

theorem commitRow_others (d : Core) (f : FlightRow) (rest : List FlightRow) {e : Nat} (h : e ≠ f.entry) :
    accLanes (commitRow d f rest).mx e = accLanes d.mx e := accLanes_put_ne rfl rfl h

/-- A bank's overflow flag is sticky, and set by a lane of the row that is held at a limit (R53, R213). -/
theorem commitRow_ovf (d : Core) (f : FlightRow) (rest : List FlightRow) {b : Nat} (h : b < 4) :
    (commitRow d f rest).mx.ovf.getLsbD b = true ↔ d.mx.ovf.getLsbD b = true ∨
      b = f.entry / 512 ∧ ∃ n, n < 128 ∧ (commitLane d.mx f n).2 = true := by
  have ovf : (commitRow d f rest).mx.ovf = if ((List.range 128).map (commitLane d.mx f)).any (·.2) then
      d.mx.ovf ||| (1#4 <<< accBank f.entry) else d.mx.ovf := rfl
  have held : ((List.range 128).map (commitLane d.mx f)).any (·.2) = true ↔
      ∃ n, n < 128 ∧ (commitLane d.mx f n).2 = true := by simp
  have bank : (1#4 <<< accBank f.entry).getLsbD b = true ↔ b = f.entry / 512 := by
    simp only [accBank, BitVec.getLsbD_shiftLeft, BitVec.getLsbD_one, h, Bool.and_eq_true, Bool.not_eq_true',
      decide_eq_true_eq, decide_eq_false_iff_not, decide_true, true_and, Nat.zero_lt_succ]
    omega
  rw [ovf, ← held]
  split
  · rename_i clipped
    simp only [BitVec.getLsbD_or, Bool.or_eq_true, bank, clipped, and_true]
  · rename_i within
    simp only [within, Bool.false_eq_true, and_false, or_false]

/-- With no further row of its bank in flight, a row's commit is the bank's last before its turnaround (R213). -/
theorem commitRow_turn {d : Core} {f : FlightRow} {rest : List FlightRow}
    (h : ∀ g ∈ rest, g.entry / 512 ≠ f.entry / 512) :
    turnCycle (commitRow d f rest).mx (f.entry / 512) = some (f.commit + 1) := by
  have no : rest.any (fun g => accBank g.entry == accBank f.entry) = false := by
    simpa [accBank] using h
  have turn : (commitRow d f rest).mx.turn = put d.mx.turn (f.entry / 512) (f.commit + 1) := by
    simp only [commitRow, no]
    rfl
  simp [turnCycle, turn, find_put_same]

/-- The oldest row in flight commits when its event lands, in a running core or a stopped one (R97, R211). -/
theorem commitEvent_of_lands {c d : Core} {f : FlightRow} {rest : List FlightRow} {fin : Core → Core}
    (head : c.mx.flight.head? = some f) (lands : Lands c (atEnd f.commit) d fin) (flight : d.mx.flight = f :: rest) :
    commitEvent c = fin (commitRow d f rest) := by
  have event : commitEvent c = landEvent c (atEnd f.commit) (fun x => .go (runCommit x)) runCommit := by
    obtain ⟨more, row⟩ := List.head?_eq_some_iff.mp head
    simp [commitEvent, row]
  have commit : runCommit d = commitRow d f rest := by simp [runCommit, flight]
  rw [event, ← commit]
  rcases lands with ⟨runs, due, rfl⟩ | ⟨stopped, next, rfl, rfl⟩
  · rw [After, ← coreEvent_go (f := fun x => .go (runCommit x)) due.may due.arrives due.arrived rfl]
    simp [landEvent, runs]
  · simp [landEvent, stopped, next]

theorem exec_rowCommit_of_event {s : State} {k : Nat} {x : Core} (h : commitEvent (coreAt s k) = x) :
    exec (.rowCommit k) s = .next (becomes s k x) :=
  congrArg Host.Outcome.next (onCore_eq h)

/-! ### The statement -/

/-- Settles O9: the issue is the row entering under the active tile, and the commit writes the lanes of that row. -/
theorem rowsEnterAndCommit : Obligations.RowsEnterAndCommit := by
  unfold Obligations.RowsEnterAndCommit
  refine ⟨?issue, ?commit⟩
  case issue =>
    intro s k flips r t d _ c bm hi a next acc run opened due runs active permitted
    have key : runKey r = 2 * (r.opens + 1 + r.row) := by simp [runKey, opened, atCycle]
    have row := tryRow_of_permitted runs opened active permitted
    rw [enterRow_of_active (c := accessed d false [rowAcc r (t.width == 3)]) r _ active] at row
    refine ⟨_, enteringRow d r t a, exec_rowIssue_of_event (passEvent_row run opened (key ▸ due) row),
      rfl, rfl, rfl, rfl, rfl, rfl, rfl, rfl, fun n hn => enteringRow_sums d r t a hn, rfl, rfl, rfl, ?_, ?_, ?_⟩
    · exact fun more => if_pos more
    · intro last pass
      refine ⟨_, (if_neg (by omega)).trans (if_pos pass), rfl, rfl, rfl, ?_⟩
      simp
    · exact fun last done => (if_neg (by omega)).trans (if_neg (by omega))
  case commit =>
    intro s k f rest d fin _ c head lands flight _ exact passed out
    refine ⟨commitRow d f rest, exec_rowCommit_of_event (commitEvent_of_lands head lands flight), rfl, rfl,
      fun n hn => ⟨fun pass => ?_, fun block => ?_⟩, fun e he => commitRow_others d f rest he, fun _ => rfl,
      fun b hb => ?_, commitRow_turn, rfl, rfl⟩
    · rw [commitRow_lanes d f rest hn, commitLane_of_passed pass, accSum_eq]
      rfl
    · rw [commitRow_lanes d f rest hn, commitLane_of_not_passed block]
    · rw [commitRow_ovf d f rest hb]
      simp only [commitLane_held_iff]
      rfl

end Sys2Proof.Machine
end

section
/-!
SUPPORT. Low-power entries of the power controller: what an alert, a result and the end of the abandoned loads change, what
undoing an entry's steps keeps, and where each step of an entry ends (R331, R547 to R549).
-/

namespace Sys2Proof.Machine

/-! ### Alerts and results -/

theorem raiseAlert_power (s : State) : (raiseAlert s 0x20).mg.alert.getLsbD 5 = true := by
  show (s.mg.alert ||| 0x20).getLsbD 5 = true
  simp

theorem powerDone_pw (s : State) :
    (powerDone s).pw = { s.pw with result := if s.pw.result = 1 then 2 else s.pw.result } := by
  unfold powerDone
  split
  · rfl
  · rfl

theorem powerDone_powerOnly (s : State) : PowerOnly s (powerDone s) := by
  unfold powerDone
  split
  · rfl
  · rfl

@[simp] theorem powerDone_cores (s : State) : (powerDone s).cores = s.cores := by rw [powerDone_powerOnly s]
@[simp] theorem powerDone_hbm (s : State) : (powerDone s).hbm = s.hbm := by rw [powerDone_powerOnly s]
@[simp] theorem powerDone_flash (s : State) : (powerDone s).flash = s.flash := by rw [powerDone_powerOnly s]
@[simp] theorem powerDone_net (s : State) : (powerDone s).net = s.net := by rw [powerDone_powerOnly s]
@[simp] theorem powerDone_host (s : State) : (powerDone s).host = s.host := by rw [powerDone_powerOnly s]

theorem PowerOnly.trans {s t u : State} (h : PowerOnly s t) (k : PowerOnly t u) : PowerOnly s u := by
  rw [PowerOnly, k, h]

/-! ### Loads that a Felt entry abandoned (R331) -/

/-- The two states differ in nothing but the rings' entries. -/
def RingsOnly (s t : State) : Prop := ∃ rings, t = { s with host := { s.host with rings := rings } }

theorem RingsOnly.finishEntry {s t : State} (h : RingsOnly s t) (q idx status value : Nat) :
    RingsOnly s (finishEntry t q idx status value) := by
  obtain ⟨rings, rfl⟩ := h
  exact ⟨_, rfl⟩

/-- The abandoned loads end in their rings, and are noted no longer. -/
theorem endAborted_ringsOnly (s : State) : RingsOnly { s with pw := { s.pw with abortLoads := [] } } (endAborted s) := by
  have fold : RingsOnly s _ := List.foldlRecOn s.pw.abortLoads (fun t q =>
      match (ringAt t q).entries.find? fun e => e.stage == .running && enOp e.bytes == 0x02 with
      | some e => finishEntry t q e.index 0x25 0
      | none => t) ⟨s.host.rings, rfl⟩ fun t h q _ => by
    split
    · exact h.finishEntry ..
    · exact h
  obtain ⟨rings, ended⟩ := fold
  exact ⟨rings, congrArg (fun t : State => { t with pw := { t.pw with abortLoads := [] } }) ended⟩

@[simp] theorem endAborted_hbm (s : State) : (endAborted s).hbm = s.hbm := by
  obtain ⟨rings, h⟩ := endAborted_ringsOnly s
  rw [h]

@[simp] theorem endAborted_net (s : State) : (endAborted s).net = s.net := by
  obtain ⟨rings, h⟩ := endAborted_ringsOnly s
  rw [h]

/-! ### The steps of an entry undone (R548) -/

/-- What holds dispatch stands in `t` as in `s`: firmware, an update, a fatal error and the training of HBM. -/
structure SameHolds (s t : State) : Prop where
  fwReady : t.host.fwReady = s.host.fwReady
  upd : t.host.upd = s.host.upd
  log : t.log = s.log
  trained : t.hbm.trained = s.hbm.trained

/-- What an abandoned entry answers for stands in `t` as in `s`: what holds dispatch, the cores and the result. -/
structure EntryFrame (s t : State) : Prop extends SameHolds s t where
  cores : t.cores = s.cores
  result : t.pw.result = s.pw.result

/-- Steps undone touch neither what `EntryFrame` names, nor the flash, the contexts and the abort point. -/
structure Undone (s t : State) : Prop extends EntryFrame s t where
  flash : t.flash = s.flash
  contexts : t.host.ctxs = s.host.ctxs
  lastAp : t.pw.lastAp = s.pw.lastAp

theorem SameHolds.trans {s t u : State} (h : SameHolds s t) (k : SameHolds t u) : SameHolds s u :=
  ⟨k.fwReady.trans h.fwReady, k.upd.trans h.upd, k.log.trans h.log, k.trained.trans h.trained⟩

theorem EntryFrame.trans {s t u : State} (h : EntryFrame s t) (k : EntryFrame t u) : EntryFrame s u :=
  ⟨h.toSameHolds.trans k.toSameHolds, k.cores.trans h.cores, k.result.trans h.result⟩

theorem Undone.trans {s t u : State} (h : Undone s t) (k : Undone t u) : Undone s u :=
  ⟨h.toEntryFrame.trans k.toEntryFrame, k.flash.trans h.flash, k.contexts.trans h.contexts, k.lastAp.trans h.lastAp⟩

theorem Undone.refl (s : State) : Undone s s := ⟨⟨⟨rfl, rfl, rfl, rfl⟩, rfl, rfl⟩, rfl, rfl, rfl⟩

/-- Dispatch resumes exactly when none of the holds of `s` is there (R358, R548, R588). -/
theorem SameHolds.resumes {s u : State} (h : SameHolds s u) : DispatchResumed s (resumeDispatch u) := by
  simp [DispatchResumed, resumeDispatch, h.fwReady, h.upd, h.log, h.trained, and_assoc]

/-- Step 5 undone: the PTP clock runs, the timer stops and the modules leave low-power mode. -/
def undoGates (s : State) (felt : Bool) (ap : Nat) : State :=
  if felt && decide (5 ≤ ap) then
    setLpModes { s with
      net := { s.net with ptpRuns := true }
      pw := { s.pw with timerArmed := false } } false
  else s

/-- Step 4 undone: the stacks leave self-refresh. -/
def undoRefresh (s : State) (felt : Bool) (ap : Nat) : State :=
  if felt && decide (4 ≤ ap) then { s with hbm := { s.hbm with srState := [0, 0] } } else s

/-- Step 3 undone: the firmware watchdog counts, and the abandoned loads end. -/
def undoSave (s : State) (felt : Bool) (ap : Nat) : State :=
  if felt && decide (3 ≤ ap) then
    endAborted { s with pw := { s.pw with
      wdtSuspended := false
      wdtSince := s.timeUs } }
  else s

/-- The end of step 2 undone: the stream engine accepts frames. -/
def undoDrop (s : State) (felt : Bool) (ap : Nat) : State := if felt && decide (2 ≤ ap) then acceptFrames s else s

/-- The steps up to abort point `ap` undone, the last first. -/
def undoSteps (s : State) (felt : Bool) (ap : Nat) : State :=
  undoDrop (undoSave (undoRefresh (undoGates s felt ap) felt ap) felt ap) felt ap

/-- Active again once the steps are undone: the abort is noted, and dispatch resumes (R548, R549). -/
def returnActive (s : State) : State :=
  raiseAlert (resumeDispatch { s with pw := { s.pw with
    phase := .active
    wakePending := false
    aborted := true
    wakeSrc := s.pw.wakeSrc ||| 0x80 } }) 0x20

theorem abandonEntry_eq (s : State) (felt : Bool) (ap : Nat) :
    abandonEntry s felt ap = returnActive (undoSteps s felt ap) := rfl

theorem undoGates_undone (s : State) (felt : Bool) (ap : Nat) : Undone s (undoGates s felt ap) := by
  unfold undoGates
  split
  · exact ⟨⟨⟨rfl, rfl, rfl, rfl⟩, rfl, rfl⟩, rfl, rfl, rfl⟩
  · exact .refl s

theorem undoRefresh_undone (s : State) (felt : Bool) (ap : Nat) : Undone s (undoRefresh s felt ap) := by
  unfold undoRefresh
  split
  · exact ⟨⟨⟨rfl, rfl, rfl, rfl⟩, rfl, rfl⟩, rfl, rfl, rfl⟩
  · exact .refl s

theorem endAborted_undone (s : State) : Undone s (endAborted s) := by
  obtain ⟨rings, ended⟩ := endAborted_ringsOnly s
  rw [ended]
  exact ⟨⟨⟨rfl, rfl, rfl, rfl⟩, rfl, rfl⟩, rfl, rfl, rfl⟩

theorem undoSave_undone (s : State) (felt : Bool) (ap : Nat) : Undone s (undoSave s felt ap) := by
  unfold undoSave
  split
  · refine Undone.trans ?_ (endAborted_undone _)
    exact ⟨⟨⟨rfl, rfl, rfl, rfl⟩, rfl, rfl⟩, rfl, rfl, rfl⟩
  · exact .refl s

theorem undoDrop_undone (s : State) (felt : Bool) (ap : Nat) : Undone s (undoDrop s felt ap) := by
  unfold undoDrop
  split
  · exact ⟨⟨⟨rfl, rfl, rfl, rfl⟩, rfl, rfl⟩, rfl, rfl, rfl⟩
  · exact .refl s

theorem undoSteps_undone (s : State) (felt : Bool) (ap : Nat) : Undone s (undoSteps s felt ap) :=
  (undoGates_undone s felt ap).trans <| (undoRefresh_undone _ felt ap).trans <|
    (undoSave_undone _ felt ap).trans (undoDrop_undone _ felt ap)

theorem returnActive_undone (s : State) : Undone s (returnActive s) := ⟨⟨⟨rfl, rfl, rfl, rfl⟩, rfl, rfl⟩, rfl, rfl, rfl⟩

theorem abandonEntry_undone (s : State) (felt : Bool) (ap : Nat) : Undone s (abandonEntry s felt ap) :=
  (undoSteps_undone s felt ap).trans (returnActive_undone _)

theorem SameHolds.returnActive {s u : State} (h : SameHolds s u) : DispatchResumed s (returnActive u) :=
  SameHolds.resumes (u := { u with pw := _ }) ⟨h.fwReady, h.upd, h.log, h.trained⟩

theorem returnActive_hbm (s : State) : (returnActive s).hbm = s.hbm := rfl

theorem returnActive_net (s : State) : (returnActive s).net = s.net := rfl

theorem returnActive_aborted (s : State) :
    (returnActive s).pw.wakeSrc.getLsbD 7 = true ∧ (returnActive s).mg.alert.getLsbD 5 = true := by
  refine ⟨?_, raiseAlert_power _⟩
  show (s.pw.wakeSrc ||| 0x80).getLsbD 7 = true
  simp

theorem undoSave_hbm (s : State) (felt : Bool) (ap : Nat) : (undoSave s felt ap).hbm = s.hbm := by
  unfold undoSave
  split
  · exact endAborted_hbm _
  · rfl

theorem undoSave_net (s : State) (felt : Bool) (ap : Nat) : (undoSave s felt ap).net = s.net := by
  unfold undoSave
  split
  · exact endAborted_net _
  · rfl

theorem undoDrop_hbm (s : State) (felt : Bool) (ap : Nat) : (undoDrop s felt ap).hbm = s.hbm := by
  unfold undoDrop
  split
  · rfl
  · rfl

theorem undoDrop_ptpRuns (s : State) (felt : Bool) (ap : Nat) : (undoDrop s felt ap).net.ptpRuns = s.net.ptpRuns := by
  unfold undoDrop
  split
  · rfl
  · rfl

theorem undoRefresh_net (s : State) (felt : Bool) (ap : Nat) : (undoRefresh s felt ap).net = s.net := by
  unfold undoRefresh
  split
  · rfl
  · rfl

/-- From AP_4 on, undoing takes both stacks out of self-refresh. -/
theorem abandonEntry_srState (s : State) {ap : Nat} (h : 4 ≤ ap) : (abandonEntry s true ap).hbm.srState = [0, 0] := by
  rw [abandonEntry_eq, returnActive_hbm, undoSteps, undoDrop_hbm, undoSave_hbm, undoRefresh, if_pos (by simp [h])]

/-- From AP_2 on, undoing accepts frames again, unless a fatal error holds them. -/
theorem abandonEntry_dropping (s : State) {ap : Nat} (h : 2 ≤ ap) : (abandonEntry s true ap).net.dropping = s.log.fatal := by
  have log := (undoSteps_undone s true ap).log
  rw [abandonEntry_eq, returnActive_net]
  rw [undoSteps, undoDrop, if_pos (by simp [h])] at log ⊢
  exact congrArg ErrLog.fatal log

/-- At AP_5, undoing starts the PTP clock. -/
theorem abandonEntry_ptpRuns (s : State) {ap : Nat} (h : 5 ≤ ap) : (abandonEntry s true ap).net.ptpRuns = true := by
  rw [abandonEntry_eq, returnActive_net, undoSteps, undoDrop_ptpRuns, undoSave_net, undoRefresh_net, undoGates,
    if_pos (by simp [h])]
  rfl

/-! ### Abort points (R547) -/

/-- An entry that stands at abort point `ap`. -/
def atAp (s : State) (felt : Bool) (ap : Nat) : State :=
  { s with pw := { s.pw with
    lastAp := BitVec.ofNat 3 ap
    phase := .entering felt ap } }

theorem atAp_frame (s : State) (felt : Bool) (ap : Nat) : EntryFrame s (atAp s felt ap) := ⟨⟨rfl, rfl, rfl, rfl⟩, rfl, rfl⟩

theorem reachAp_of_wake {s : State} (felt : Bool) (ap : Nat) (wake : s.pw.wakePending = true) :
    reachAp s felt ap = abandonEntry (atAp s felt ap) felt ap := if_pos wake

theorem reachAp_of_no_wake {s : State} (felt : Bool) (ap : Nat) (wake : ¬ s.pw.wakePending = true) :
    reachAp s felt ap = atAp s felt ap := if_neg wake

/-- A wake that has come by the abort point abandons the entry (R548, R549). -/
theorem abandoned_reachAp {s u : State} (felt : Bool) {ap : Nat} (keeps : EntryFrame s u) (named : ap < 8)
    (wake : u.pw.wakePending = true) : Abandoned s (reachAp u felt ap) felt ap := by
  rw [reachAp_of_wake felt ap wake]
  have reached : EntryFrame s (atAp u felt ap) := keeps.trans (atAp_frame u felt ap)
  have undone := abandonEntry_undone (atAp u felt ap) felt ap
  have all := reached.trans undone.toEntryFrame
  exact {
    phase := rfl
    pending := rfl
    lastAp := by
      rw [undone.lastAp, atAp, BitVec.toNat_ofNat, Nat.mod_eq_of_lt named]
    bits := ⟨rfl, returnActive_aborted _⟩
    result := all.result
    dispatch := (reached.toSameHolds.trans (undoSteps_undone _ felt ap).toSameHolds).returnActive
    hbmOut := by
      rintro rfl h
      exact abandonEntry_srState _ h
    frames := by
      rintro rfl h
      rw [abandonEntry_dropping _ h, reached.log]
    clock := by
      rintro rfl h
      exact abandonEntry_ptpRuns _ h
    cores := all.cores }

/-- Without a wake the entry goes on from the abort point. -/
theorem entryAt_atAp (s : State) (felt : Bool) {ap : Nat} (named : ap < 8) : EntryAt (atAp s felt ap) felt ap :=
  ⟨rfl, by simp [atAp, Nat.mod_eq_of_lt named]⟩

/-- Reaching an abort point changes no flash, context or core, whether the entry goes on or is abandoned. -/
theorem reachAp_undone (s : State) (felt : Bool) (ap : Nat) :
    (reachAp s felt ap).flash = s.flash ∧ (reachAp s felt ap).host.ctxs = s.host.ctxs ∧
      (reachAp s felt ap).cores = s.cores := by
  by_cases wake : s.pw.wakePending = true
  · rw [reachAp_of_wake felt ap wake]
    have undone := abandonEntry_undone (atAp s felt ap) felt ap
    exact ⟨undone.flash, undone.contexts, undone.cores⟩
  · rw [reachAp_of_no_wake felt ap wake]
    exact ⟨rfl, rfl, rfl⟩

/-! ### The steps of an entry (R547) -/

theorem armTimer_armed (s : State) : (armTimer s).pw.timerArmed = true ↔ s.pw.wakeTimer ≠ 0 := by simp [armTimer]

/-- Step 1 stops dispatch, and the cores and HBM stay. -/
theorem stopDispatch_reaches (s : State) (felt : Bool) :
    (s.pw.wakePending = true → Abandoned s (stopDispatch s felt) felt 1) ∧
      (¬ s.pw.wakePending = true → EntryAt (stopDispatch s felt) felt 1 ∧ (stopDispatch s felt).host.dispatch = false ∧
        (stopDispatch s felt).cores = s.cores ∧ (stopDispatch s felt).hbm = s.hbm) := by
  refine ⟨fun wake => abandoned_reachAp felt ⟨⟨rfl, rfl, rfl, rfl⟩, rfl, rfl⟩ (by decide) wake, fun wake => ?_⟩
  have reached : stopDispatch s felt = atAp { s with host := { s.host with dispatch := false } } felt 1 :=
    reachAp_of_no_wake felt 1 wake
  rw [reached]
  exact ⟨entryAt_atAp _ felt (by decide), rfl, rfl, rfl⟩

/-- A module's life record written changes the records and the cages alone (R444). -/
def LivesOnly (s t : State) : Prop := ∃ lives cages, t = { s with
  flash := { s.flash with lives := lives }
  net := { s.net with cages := cages } }

theorem LivesOnly.writeLife {s t : State} (h : LivesOnly s t) (c : Nat) (day : Bool) : LivesOnly s (writeLife t c day) := by
  obtain ⟨lives, cages, rfl⟩ := h
  unfold Machine.writeLife
  dsimp only
  split
  · exact ⟨lives, cages, rfl⟩
  · exact ⟨_, _, rfl⟩

/-- The life records of all modules written. -/
def writeLives (s : State) : State := (List.range 8).foldl (fun t c => writeLife t c false) s

theorem writeLives_livesOnly (s : State) : LivesOnly s (writeLives s) :=
  List.foldlRecOn (List.range 8) (fun t c => Machine.writeLife t c false) ⟨s.flash.lives, s.net.cages, rfl⟩
    fun _ h c _ => h.writeLife c false

/-- What step 3 leaves once the life records are written: unlocks ended, loading sets abandoned (R331, R393), and the
firmware watchdog suspended. -/
def saveState (s : State) : State :=
  { s with
    flash := { s.flash with
      ch0 := { s.flash.ch0 with unlocked := false }
      ch1 := { s.flash.ch1 with unlocked := false } }
    host := { s.host with ctxs := s.host.ctxs.map fun x => { x with slotA := feltSlot x.slotA, slotB := feltSlot x.slotB } }
    pw := { s.pw with
      abortLoads := s.host.ctxs.flatMap fun x => [x.slotA, x.slotB].filterMap fun sl =>
        if sl.state = .loading then sl.loadRing else none
      wdtSuspended := true } }

theorem saveState_frame (s : State) : EntryFrame s (saveState (writeLives s)) ∧
    (saveState (writeLives s)).pw.wakePending = s.pw.wakePending := by
  obtain ⟨lives, cages, written⟩ := writeLives_livesOnly s
  rw [written]
  exact ⟨⟨⟨rfl, rfl, rfl, rfl⟩, rfl, rfl⟩, rfl⟩

theorem saveState_ctxs (s : State) : (saveState (writeLives s)).host.ctxs =
    s.host.ctxs.map fun x => { x with slotA := feltSlot x.slotA, slotB := feltSlot x.slotB } := by
  obtain ⟨lives, cages, written⟩ := writeLives_livesOnly s
  rw [written]
  rfl

theorem saveState_cells (s : State) : (saveState (writeLives s)).flash.cells = s.flash.cells := by
  obtain ⟨lives, cages, written⟩ := writeLives_livesOnly s
  rw [written]
  rfl

theorem ap3StateSaved_eq {s : State} (at2 : s.pw.phase = .entering true 2) (idle0 : s.flash.ch0.op = none)
    (idle1 : s.flash.ch1.op = none) : exec .ap3StateSaved s = .next (reachAp (saveState (writeLives s)) true 3) := by
  show execAp3StateSaved s = _
  rw [execAp3StateSaved, if_neg (by simp [at2, idle0, idle1]), writeLives]
  generalize List.foldl _ s (List.range 8) = u
  rfl

/-- MOD_LPMODE of a cage: asserted in Felt unless the cage carries the wake port, else as its bring-up left it. -/
theorem setLpModes_lpMode (s : State) (felt : Bool) {c : Nat} (h : c < s.net.cages.length) :
    (cageAt (setLpModes s felt) c).lpMode =
      (if felt = true ∧ ¬ (s.net.wakeEnable = true ∧ c = cageOf s s.net.wakePort.toNat) then true
        else (cageAt s c).present && !(cageAt s c).active) := by
  cases felt <;> cases on : s.net.wakeEnable <;> simp [cageAt, setLpModes, h, on]

/-- Voile reached: the timer starts (R559). -/
def enterVoile (s : State) : State := armTimer { s with pw := { s.pw with phase := .voile } }

/-- Step 2 in Voile: with no wake the core clocks are gated, and the request is done (R523, R559). -/
theorem ap2_voile {s : State} (idle : coresIdle s = true) (at1 : s.pw.phase = .entering false 1) :
    exec .ap2CoresQuiesced s = .next (if s.pw.wakePending then reachAp s false 2
      else powerDone (enterVoile (reachAp s false 2))) := by
  show execAp2CoresQuiesced s = _
  simp [execAp2CoresQuiesced, idle, at1, enterVoile]

/-- Step 2 in a Felt entry: with no wake the stream engine drops data frames from here on. -/
theorem ap2_felt {s : State} (idle : coresIdle s = true) (at1 : s.pw.phase = .entering true 1) :
    exec .ap2CoresQuiesced s = .next (if s.pw.wakePending then reachAp s true 2
      else { reachAp s true 2 with net := { (reachAp s true 2).net with dropping := true } }) := by
  show execAp2CoresQuiesced s = _
  simp [execAp2CoresQuiesced, idle, at1]

theorem ap2_waits {s : State} (h : coresIdle s = false ∨ ∀ f, s.pw.phase ≠ .entering f 1) :
    exec .ap2CoresQuiesced s = .next s := by
  show execAp2CoresQuiesced s = _
  rcases h with busy | elsewhere
  · simp [execAp2CoresQuiesced, busy]
  · unfold execAp2CoresQuiesced
    split
    · rfl
    · split
      · exact absurd ‹_› (elsewhere false)
      · exact absurd ‹_› (elsewhere true)
      · rfl

/-- The state in which step 5 ends: the PTP clock stopped, the timer armed and the modules in low-power mode. -/
def gatesCommanded (s : State) : State := setLpModes (armTimer { s with net := { s.net with ptpRuns := false } }) true

theorem ap5_eq {s : State} (at4 : s.pw.phase = .entering true 4) : exec .ap5GatesCommanded s =
    .next (if s.pw.wakePending then reachAp (gatesCommanded s) true 5
      else powerDone (enterFelt (reachAp (gatesCommanded s) true 5))) := by
  show execAp5GatesCommanded s = _
  rw [execAp5GatesCommanded, if_neg (by simp [at4])]
  rfl

/-- The state in which Felt is reached (R523, R547). -/
def feltReached (s : State) : State := powerDone (enterFelt (atAp (gatesCommanded s) true 5))

theorem feltReached_linkUp (s : State) : ∀ p ∈ (feltReached s).net.ports, p.linkUp = false := by
  rw [feltReached, powerDone_net]
  intro p hp
  obtain ⟨q, -, rfl⟩ := List.mem_map.mp hp
  rfl

theorem feltReached_lpMode (s : State) {c : Nat} (h : c < s.net.cages.length) : (cageAt (feltReached s) c).lpMode =
    if s.net.wakeEnable = true ∧ c = cageOf s s.net.wakePort.toNat then (cageAt s c).present && !(cageAt s c).active
    else true := by
  have cage : cageAt (feltReached s) c = cageAt (gatesCommanded s) c := by
    rw [cageAt, feltReached, powerDone_net]
    rfl
  rw [cage, gatesCommanded, setLpModes_lpMode (armTimer { s with net := { s.net with ptpRuns := false } }) true h]
  by_cases carries : s.net.wakeEnable = true ∧ c = cageOf s s.net.wakePort.toNat
  · rw [if_neg (fun h => h.2 carries), if_pos carries]
    rfl
  · rw [if_pos ⟨rfl, carries⟩, if_neg carries]

theorem feltReached_hbm (s : State) : (feltReached s).hbm = s.hbm := by
  rw [feltReached, powerDone_hbm]
  dsimp only [enterFelt, atAp, gatesCommanded, setLpModes, armTimer]

theorem feltReached_cores (s : State) : (feltReached s).cores = s.cores := by
  rw [feltReached, powerDone_cores]
  dsimp only [enterFelt, atAp, gatesCommanded, setLpModes, armTimer]

/-! ### The statement -/

/-- Settles O49: each step ends in `reachAp`, which abandons the entry when a wake has come, and else stands at its point. -/
theorem entriesReachTheirAbortPoints : Obligations.EntriesReachTheirAbortPoints := by
  unfold Obligations.EntriesReachTheirAbortPoints
  intro s ph wakes timer done
  refine ⟨?step1, fun h => ap2_waits h, ?step2Voile, ?step2Felt, ?step3Waits, ?step3, ?step4Waits, ?step4,
    ?step5Waits, ?step5⟩
  case step1 =>
    intro p hp
    rcases List.mem_pair.mp hp with rfl | rfl
    · exact ⟨fun h => congrArg Host.Outcome.next (if_neg h),
        fun h => ⟨_, congrArg Host.Outcome.next (if_pos h), stopDispatch_reaches s false⟩⟩
    · exact ⟨fun h => congrArg Host.Outcome.next (if_neg h),
        fun h => ⟨_, congrArg Host.Outcome.next (if_pos h), stopDispatch_reaches s true⟩⟩
  case step2Voile =>
    intro idle at1
    refine ⟨_, ap2_voile idle at1, fun wake => ?_, fun wake => ?_⟩
    · rw [if_pos wake]
      exact abandoned_reachAp false ⟨⟨rfl, rfl, rfl, rfl⟩, rfl, rfl⟩ (by decide) wake
    · rw [if_neg wake, reachAp_of_no_wake false 2 wake]
      have pw := powerDone_pw (enterVoile (atAp s false 2))
      refine ⟨congrArg Pw.phase pw, congrArg Pw.lastAp pw, ?_, congrArg Pw.result pw,
        PowerOnly.trans (t := enterVoile (atAp s false 2)) rfl (powerDone_powerOnly _)⟩
      exact (congrArg (·.timerArmed = true) pw).to_iff.trans (armTimer_armed _)
  case step2Felt =>
    intro idle at1
    refine ⟨_, ap2_felt idle at1, fun wake => ?_, fun wake => ?_⟩
    · rw [if_pos wake]
      exact abandoned_reachAp true ⟨⟨rfl, rfl, rfl, rfl⟩, rfl, rfl⟩ (by decide) wake
    · rw [if_neg wake, reachAp_of_no_wake true 2 wake]
      exact ⟨entryAt_atAp s true (by decide), rfl, rfl⟩
  case step3Waits =>
    intro h
    exact congrArg Host.Outcome.next (if_pos (by simpa [Option.isSome_iff_ne_none] using h))
  case step3 =>
    intro at2 idle0 idle1
    obtain ⟨frame, pending⟩ := saveState_frame s
    obtain ⟨flash, ctxs, cores⟩ := reachAp_undone (saveState (writeLives s)) true 3
    refine ⟨_, ap3StateSaved_eq at2 idle0 idle1, fun wake => ?_, fun wake => ?_, ?_, ?_,
      (congrArg Flash.cells flash).trans (saveState_cells s), ctxs.trans (saveState_ctxs s), cores.trans frame.cores⟩
    · exact abandoned_reachAp true frame (by decide) (pending.trans wake)
    · rw [reachAp_of_no_wake true 3 (by rwa [pending])]
      exact ⟨entryAt_atAp _ true (by decide), rfl⟩
    · rw [flash, saveState]
    · rw [flash, saveState]
  case step4Waits => exact fun h => congrArg Host.Outcome.next (if_neg h)
  case step4 =>
    intro at3
    refine ⟨_, congrArg Host.Outcome.next (if_pos at3), fun wake => ?_, fun wake => ?_⟩
    · exact abandoned_reachAp true ⟨⟨rfl, rfl, rfl, rfl⟩, rfl, rfl⟩ (by decide) wake
    · rw [reachAp_of_no_wake]
      · exact ⟨entryAt_atAp _ true (by decide), rfl, rfl⟩
      · exact wake
  case step5Waits => exact fun h => congrArg Host.Outcome.next (if_pos h)
  case step5 =>
    intro at4
    refine ⟨_, ap5_eq at4, fun wake => ?_, fun wake => ?_⟩
    · rw [if_pos wake]
      exact abandoned_reachAp true ⟨⟨rfl, rfl, rfl, rfl⟩, rfl, rfl⟩ (by decide) wake
    · have reached : powerDone (enterFelt (reachAp (gatesCommanded s) true 5)) = feltReached s :=
        congrArg (fun t => powerDone (enterFelt t)) (reachAp_of_no_wake true 5 wake)
      have pw := powerDone_pw (enterFelt (atAp (gatesCommanded s) true 5))
      have net := powerDone_net (enterFelt (atAp (gatesCommanded s) true 5))
      have flash := powerDone_flash (enterFelt (atAp (gatesCommanded s) true 5))
      rw [if_neg wake, reached]
      exact ⟨congrArg Pw.phase pw, congrArg Pw.vddCore pw, congrArg Pw.vddSram pw, congrArg Pw.lastAp pw,
        (congrArg (·.timerArmed = true) pw).to_iff.trans (armTimer_armed _), congrArg Pw.result pw, congrArg Net.ptpRuns net,
        congrArg Pw.pllLocked pw, feltReached_linkUp s, congrArg Flash.scanDone flash, congrArg Flash.clkDiv flash,
        congrArg Flash.waitStates flash, congrArg Flash.supplyLow flash, congrArg Flash.supplyInForce flash,
        (congrArg Flash.cells flash).trans rfl, feltReached_hbm s, feltReached_cores s, fun c hc => feltReached_lpMode s hc⟩

end Sys2Proof.Machine
end

section
/-!
SUPPORT. Power requests, wakes and exits: how a request is decided, which sources a wake is heard from, and what a core holds
after Felt (R440, R522, R544 to R546, R550 to R553).
-/

namespace Sys2Proof.Machine

/-! ### What a wake is heard from (R440, R524, R550) -/

/-- The device is in Felt, or enters it. -/
def feltBound (p : PwPhase) : Bool :=
  match p with
  | .entering f _ => f
  | .felt => true
  | _ => false

/-- The sources heard, as `wakeBy` takes them out of a number of sources. -/
def heardBits (felt enabled : Bool) (sources : Nat) : Nat :=
  let s4 := if felt then sources % 128 else sources % 128 - (if sources.testBit 2 then 4 else 0)
  if felt && !enabled && s4.testBit 1 then s4 - 2 else s4

/-- The sources heard: the management address only in Felt, the network there only when enabled. -/
def heardOf (s : State) (src : BitVec 7) : BitVec 7 :=
  src &&& (if feltBound s.pw.phase then 0x7F else 0x7B) &&&
    (if feltBound s.pw.phase && !s.net.wakeEnable then 0x7D else 0x7F)

theorem heardBits_toNat (felt enabled : Bool) (src : BitVec 7) : heardBits felt enabled src.toNat =
    (src &&& (if felt then 0x7F else 0x7B) &&& (if felt && !enabled then 0x7D else 0x7F)).toNat := by
  revert src
  cases felt <;> cases enabled <;> decide

/-- What a first wake by these sources writes to PW_WAKE_SRC: the sources, and the port of a network wake. -/
def wakeValue (heard : BitVec 7) (port : Nat) : Nat := heard.toNat + if heard.getLsbD 1 = true then port % 8 * 256 else 0

theorem wakeValue_lt (heard : BitVec 7) (port : Nat) : wakeValue heard port < 4096 := by
  unfold wakeValue
  split <;> omega

theorem wakeSrc_toNat (heard : BitVec 7) (port : Nat) :
    (BitVec.ofNat 13 (wakeValue heard port)).toNat = wakeValue heard port := by
  have := wakeValue_lt heard port
  rw [BitVec.toNat_ofNat]
  omega

theorem wakeSrc_felt_toNat (heard : BitVec 7) (port : Nat) :
    (BitVec.ofNat 13 (4096 + wakeValue heard port)).toNat = 4096 + wakeValue heard port := by
  have := wakeValue_lt heard port
  rw [BitVec.toNat_ofNat]
  omega

/-- A wake heard with value `value` for PW_WAKE_SRC, in each phase (R548 to R551). -/
def woken (s : State) (value : Nat) : State :=
  match s.pw.phase with
  | .entering _ _ =>
    if s.pw.wakePending then s else { s with pw := { s.pw with
      wakePending := true
      wakeSrc := BitVec.ofNat 13 value } }
  | .voile => raiseAlert { s with pw := { s.pw with
      phase := .exiting false
      timerArmed := false
      wakeSrc := BitVec.ofNat 13 value } } 0x20
  | .felt => raiseAlert { s with pw := { s.pw with
      phase := .exiting true
      timerArmed := false
      wakeSrc := BitVec.ofNat 13 (4096 + value) } } 0x20
  | _ => s

theorem wakeBy_unheard {s : State} {src : BitVec 7} (port : Nat) (h : heardOf s src = 0) : wakeBy s src.toNat port = s := by
  have bits : heardBits (feltBound s.pw.phase) s.net.wakeEnable src.toNat = 0 := by
    rw [heardBits_toNat]
    exact congrArg BitVec.toNat h
  exact if_pos bits

theorem wakeBy_heard {s : State} {src : BitVec 7} (port : Nat) (h : heardOf s src ≠ 0) :
    wakeBy s src.toNat port = woken s (wakeValue (heardOf s src) port) := by
  have bits : heardBits (feltBound s.pw.phase) s.net.wakeEnable src.toNat = (heardOf s src).toNat := heardBits_toNat ..
  have some : (heardOf s src).toNat ≠ 0 := fun h0 => h (BitVec.eq_of_toNat_eq h0)
  have step : wakeBy s src.toNat port =
      if heardBits (feltBound s.pw.phase) s.net.wakeEnable src.toNat = 0 then s
      else woken s (heardBits (feltBound s.pw.phase) s.net.wakeEnable src.toNat +
        if (heardBits (feltBound s.pw.phase) s.net.wakeEnable src.toNat).testBit 1 then port % 8 * 256 else 0) := rfl
  rw [step, bits, if_neg some]
  rfl

/-! ### The first wake in each phase -/

theorem wakeBy_awake {s : State} (src : BitVec 7) (port : Nat)
    (h : s.pw.phase = .active ∨ s.pw.phase = .off ∨ s.pw.phase = .tripped ∨ ∃ f, s.pw.phase = .exiting f) :
    wakeBy s src.toNat port = s := by
  by_cases heard : heardOf s src = 0
  · exact wakeBy_unheard port heard
  · rw [wakeBy_heard port heard]
    obtain ph | ph | ph | ⟨f, ph⟩ := h <;> simp [woken, ph]

/-- During an entry a wake is noted, and waits for the abort point. -/
theorem wakeBy_entering {s : State} {src : BitVec 7} {f : Bool} {n : Nat} (port : Nat) (ph : s.pw.phase = .entering f n)
    (heard : heardOf s src ≠ 0) : wakeBy s src.toNat port =
      if s.pw.wakePending then s else { s with pw := { s.pw with
        wakePending := true
        wakeSrc := BitVec.ofNat 13 (wakeValue (heardOf s src) port) } } := by
  rw [wakeBy_heard port heard]
  simp [woken, ph]

/-- An exit begun in `t` by the first wake, which writes `value` to PW_WAKE_SRC. -/
structure ExitBegun (s t : State) (felt : Bool) (value : Nat) : Prop where
  powerOnly : PowerOnly s t
  phase : t.pw.phase = .exiting felt
  sources : t.pw.wakeSrc.toNat = value
  timer : t.pw.timerArmed = false
  alert : t.mg.alert.getLsbD 5 = true

theorem exitBegun_voile {s : State} {src : BitVec 7} (port : Nat) (ph : s.pw.phase = .voile) (heard : heardOf s src ≠ 0) :
    ExitBegun s (wakeBy s src.toNat port) false (wakeValue (heardOf s src) port) := by
  rw [wakeBy_heard port heard]
  simp only [woken, ph]
  exact ⟨rfl, rfl, wakeSrc_toNat .., rfl, raiseAlert_power _⟩

theorem exitBegun_felt {s : State} {src : BitVec 7} (port : Nat) (ph : s.pw.phase = .felt) (heard : heardOf s src ≠ 0) :
    ExitBegun s (wakeBy s src.toNat port) true (4096 + wakeValue (heardOf s src) port) := by
  rw [wakeBy_heard port heard]
  simp only [woken, ph]
  exact ⟨rfl, rfl, wakeSrc_felt_toNat .., rfl, raiseAlert_power _⟩

/-- The timer and a request for Active are heard in every phase. -/
theorem heardOf_timer (s : State) : heardOf s 8 = 8 := by
  unfold heardOf
  cases feltBound s.pw.phase <;> cases s.net.wakeEnable <;> rfl

theorem heardOf_request (s : State) : heardOf s 32 = 32 := by
  unfold heardOf
  cases feltBound s.pw.phase <;> cases s.net.wakeEnable <;> rfl

theorem heardOf_address {s : State} (ph : s.pw.phase = .felt) : heardOf s 4 = 4 := by
  simp only [heardOf, feltBound, ph]
  cases s.net.wakeEnable <;> rfl

theorem heardOf_network {s : State} (on : s.net.wakeEnable = true) : heardOf s 2 = 2 := by
  unfold heardOf
  rw [on]
  cases feltBound s.pw.phase <;> rfl

/-- A wake frame matches the wake port, its address and the pattern under the mask (R440). -/
theorem isWakeFrame_iff (s : State) (port mac : Nat) (frame : Bytes) : isWakeFrame s port mac frame = true ↔
    s.net.wakeEnable = true ∧ port = s.net.wakePort.toNat ∧ mac = portMac s port ∧
      (let o := min 112 s.net.wakeOffset.toNat
       o + 16 ≤ frame.length ∧
        ∀ j, j < 16 → (frame.getD (o + j) 0 ^^^ s.net.wakePattern.getD j 0) &&& s.net.wakeMask.getD j 0 = 0) := by
  simp only [isWakeFrame, Bool.and_eq_true, beq_iff_eq, decide_eq_true_eq, List.all_eq_true, List.mem_range, and_assoc]

/-! ### The decision on a request (R522, R544, R545) -/

/-- The phases in which a request for Active is a wake. -/
def LowPhase (p : PwPhase) : Prop := p = .voile ∨ (∃ f n, p = .entering f n) ∨ ∃ f, p = .exiting f

/-- What makes every other request be refused for now: a transition, a live update, a reset. -/
def InTransition (s : State) : Prop :=
  ((∃ f n, s.pw.phase = .entering f n) ∨ ∃ f, s.pw.phase = .exiting f) ∨ s.host.upd.handover = true ∨ s.pw.inReset = true

/-- A debug session that keeps the device out of Felt is open. -/
def DebugOpen (s : State) : Prop := s.sc.firmware = true ∨ s.sc.silicon = true

/-- Waking on the network is enabled, and the wake port is no port of the mode or in reset (R440). -/
def NoWakePort (s : State) : Prop := s.net.wakeEnable = true ∧
  (portInMode s.net.mode s.net.wakePort.toNat = false ∨ s.net.portReset.getLsbD s.net.wakePort.toNat = true)

/-- The state with the management port noted as the requester. -/
def askedByPort (s : State) : State := { s with pw := { s.pw with requester := 2 } }

theorem mgUp_iff (s : State) : mgUp s = true ↔ s.pw.phase ≠ .off ∧ s.pw.phase ≠ .felt := by simp [mgUp, powered]

theorem wakePortOk_iff (s : State) : wakePortOk s = true ↔ ¬ NoWakePort s := by
  simp only [wakePortOk, NoWakePort, BitVec.getLsbD]
  cases s.net.wakeEnable <;> cases portInMode s.net.mode s.net.wakePort.toNat <;> simp

/-- With the port up and nothing in transition, the device is Active, in Voile or stopped by a thermal trip. -/
theorem phase_of_still {s : State} (up : mgUp s = true) (still : ¬ InTransition s) :
    s.pw.phase = .active ∨ s.pw.phase = .voile ∨ s.pw.phase = .tripped := by
  obtain ⟨on, awake⟩ := (mgUp_iff s).mp up
  cases ph : s.pw.phase with
  | active => exact .inl rfl
  | voile => exact .inr (.inl rfl)
  | tripped => exact .inr (.inr rfl)
  | felt => exact absurd ph awake
  | off => exact absurd ph on
  | entering f n => exact absurd (.inl (.inl ⟨f, n, ph⟩)) still
  | exiting f => exact absurd (.inl (.inr ⟨f, ph⟩)) still

theorem powerAsk_ignored (s : State) (mask : Nat) {target : Nat} (h : 2 < target) : powerAsk s 2 target mask = s :=
  if_pos (.inr h)

theorem powerAsk_wake {s : State} (mask : Nat) (low : LowPhase s.pw.phase) :
    powerAsk s 2 0 mask = wakeBy { s with pw := { s.pw with requester := 2, result := 1 } } 32 0 := by
  obtain ph | ⟨f, n, ph⟩ | ⟨f, ph⟩ := low <;> simp [powerAsk, powered, ph]

theorem powerAsk_inTransition {s : State} (mask : Nat) {target : Nat} (up : mgUp s = true) (named : target ≤ 2)
    (other : ¬ (target = 0 ∧ LowPhase s.pw.phase)) (busy : InTransition s) :
    powerAsk s 2 target mask = powerResult (askedByPort s) 3 := by
  obtain ⟨on, awake⟩ := (mgUp_iff s).mp up
  have known : ¬ 2 < target := by omega
  have notActive : LowPhase s.pw.phase → target ≠ 0 := fun low h => other ⟨h, low⟩
  cases ph : s.pw.phase with
  | felt => exact absurd ph awake
  | off => exact absurd ph on
  | active =>
    have held := busy.resolve_left (by simp [ph])
    simp [powerAsk, powered, askedByPort, ph, known, held]
  | tripped =>
    have held := busy.resolve_left (by simp [ph])
    simp [powerAsk, powered, askedByPort, ph, known, held]
  | voile =>
    have held := busy.resolve_left (by simp [ph])
    simp [powerAsk, powered, askedByPort, ph, known, held, notActive (.inl ph)]
  | entering f n => simp [powerAsk, powered, askedByPort, ph, known, notActive (.inr (.inl ⟨f, n, ph⟩))]
  | exiting f => simp [powerAsk, powered, askedByPort, ph, known, notActive (.inr (.inr ⟨f, ph⟩))]

section
variable {s : State} (mask : Nat) (still : ¬ InTransition s)
include still

theorem powerAsk_debug (up : mgUp s = true) (debug : DebugOpen s) : powerAsk s 2 2 mask = powerResult (askedByPort s) 4 := by
  obtain ⟨noUpd, noReset⟩ := not_or.mp fun h => still (.inr h)
  have session : s.sc.firmware = true ∨ s.sc.silicon = true := debug
  obtain ph | ph | ph := phase_of_still up still <;> simp [powerAsk, powered, askedByPort, ph, noUpd, noReset, session]

theorem powerAsk_refused {target : Nat} (named : target ≤ 2) (other : ¬ (target = 0 ∧ LowPhase s.pw.phase))
    (noDebug : ¬ (target = 2 ∧ DebugOpen s)) (h : s.pw.phase = .tripped ∨ target = 1 ∧ s.pw.phase = .voile) :
    powerAsk s 2 target mask = powerResult (askedByPort s) 5 := by
  obtain ⟨noUpd, noReset⟩ := not_or.mp fun h => still (.inr h)
  have noSession : ¬ (target = 2 ∧ (s.sc.firmware = true ∨ s.sc.silicon = true)) := noDebug
  have known : ¬ 2 < target := by omega
  obtain ph | ⟨rfl, ph⟩ := h
  · simp [powerAsk, powered, askedByPort, ph, noUpd, noReset, noSession, known]
  · simp [powerAsk, powered, askedByPort, ph, noUpd, noReset]

theorem powerAsk_noPort (up : mgUp s = true) (noDebug : ¬ DebugOpen s) (cold : s.pw.phase ≠ .tripped)
    (noPort : NoWakePort s) : powerAsk s 2 2 mask = powerResult (askedByPort s) 6 := by
  obtain ⟨noUpd, noReset⟩ := not_or.mp fun h => still (.inr h)
  have noSession : ¬ (s.sc.firmware = true ∨ s.sc.silicon = true) := noDebug
  have port : wakePortOk s = false := by
    rw [← Bool.not_eq_true, wakePortOk_iff, not_not]
    exact noPort
  obtain ph | ph | ph := phase_of_still up still
  · simp [powerAsk, powered, askedByPort, ph, noUpd, noReset, noSession, port]
  · simp [powerAsk, powered, askedByPort, ph, noUpd, noReset, noSession, port]
  · exact absurd ph cold

theorem powerAsk_active (ph : s.pw.phase = .active) : powerAsk s 2 0 mask = powerResult (askedByPort s) 2 := by
  obtain ⟨noUpd, noReset⟩ := not_or.mp fun h => still (.inr h)
  simp [powerAsk, powered, askedByPort, ph, noUpd, noReset]

theorem powerAsk_voile (ph : s.pw.phase = .active) : powerAsk s 2 1 mask = { s with pw := { s.pw with
    phase := .entering false 0
    wakePending := false
    lastAp := 0
    aborted := false
    result := 1
    requester := 2
    wakeSrc := 0 } } := by
  obtain ⟨noUpd, noReset⟩ := not_or.mp fun h => still (.inr h)
  simp [powerAsk, powered, ph, noUpd, noReset]

theorem powerAsk_felt (noDebug : ¬ DebugOpen s) (port : ¬ NoWakePort s) (ph : s.pw.phase = .active ∨ s.pw.phase = .voile) :
    powerAsk s 2 2 mask = { s with pw := { s.pw with
      phase := .entering true 0
      wakePending := false
      lastAp := 0
      aborted := false
      result := 1
      requester := 2
      rb := BitVec.ofNat 8 mask
      wakeSrc := 0 } } := by
  obtain ⟨noUpd, noReset⟩ := not_or.mp fun h => still (.inr h)
  have noSession : ¬ (s.sc.firmware = true ∨ s.sc.silicon = true) := noDebug
  have good := (wakePortOk_iff s).mpr port
  obtain ph | ph := ph <;> simp [powerAsk, powered, ph, noUpd, noReset, noSession, good]

end

/-- A request answered with result `r` (R513, R523). -/
theorem powerResult_answers (s : State) (r : Nat) : PowerOnly s (powerResult (askedByPort s) r) ∧
    (powerResult (askedByPort s) r).mg.alert.getLsbD 5 = true ∧ (powerResult (askedByPort s) r).pw = { s.pw with
      requester := 2
      result := BitVec.ofNat 4 r } := ⟨rfl, raiseAlert_power _, rfl⟩

/-! ### A core after Felt (R176, R553) -/

/-- Looking a place up in an association list from which the places outside `q` are gone. -/
theorem find_filter_place {β : Type} (l : List (Nat × β)) (q : Nat → Bool) (a : Nat) :
    (l.filter fun p => q p.1).find? (fun p => p.1 == a) = if q a then l.find? (fun p => p.1 == a) else none := by
  rw [List.find?_filter]
  split
  · rename_i h
    congr 1
    funext p
    by_cases e : p.1 = a <;> simp [e, h]
  · rename_i h
    rw [List.find?_eq_none]
    intro p _
    by_cases e : p.1 = a <;> simp [e, h]

theorem memByte_filter (m : Mem) (q : Nat → Bool) (d : Nat → Byte) (a : Nat) :
    memByte (m.filter fun p => q p.1) d a = if q a then memByte m d a else d a := by
  rw [memByte, find_filter_place]
  by_cases h : q a = true
  · rw [if_pos h, if_pos h]
    rfl
  · rw [if_neg h, if_neg h]

/-- A page is in a retained block as the bit of its block says. -/
theorem retained_eq (rb : Byte) (page : Nat) : retained rb page = rb.getLsbD (page / 512) := rfl

theorem feltCore_tag (rb : Byte) (epoch : Nat) (c : Core) (g : Nat) :
    tagOf (feltCore rb epoch c).sp g = if rb.getLsbD (g / 512) = true then tagOf c.sp g else 0 :=
  memByte_filter c.sp.tags (retained rb) (fun _ => 0) g

theorem feltCore_undefEpoch (rb : Byte) (epoch : Nat) (c : Core) (g : Nat) :
    undefEpoch (feltCore rb epoch c).sp g = if rb.getLsbD (g / 512) = true then undefEpoch c.sp g else none := by
  have found := find_filter_place c.sp.undef (retained rb) g
  rw [undefEpoch]
  show Option.map _ (List.find? _ (c.sp.undef.filter fun p => retained rb p.1)) = _
  rw [found, retained_eq]
  split <;> rfl

theorem feltCore_spDflt (rb : Byte) (epoch : Nat) (c : Core) (a : Nat) :
    spDflt (feltCore rb epoch c).sp a = if rb.getLsbD (pageOf a / 512) = true then spDflt c.sp a else 0 := by
  rw [spDflt, feltCore_undefEpoch]
  by_cases h : rb.getLsbD (pageOf a / 512) = true
  · rw [if_pos h, if_pos h]
    rfl
  · rw [if_neg h, if_neg h]

theorem feltCore_byte (rb : Byte) (epoch : Nat) (c : Core) (a : Nat) :
    memByte (feltCore rb epoch c).sp.cells (spDflt (feltCore rb epoch c).sp) a =
      if rb.getLsbD (pageOf a / 512) = true then memByte c.sp.cells (spDflt c.sp) a else 0 := by
  have cell : memByte (feltCore rb epoch c).sp.cells (spDflt (feltCore rb epoch c).sp) a = _ :=
    memByte_filter c.sp.cells (fun x => retained rb (pageOf x)) _ a
  rw [cell, retained_eq, feltCore_spDflt]
  split
  · rename_i kept
    simp only [memByte, feltCore_spDflt, if_pos kept]
  · rfl

theorem spRead_one (sp : Sp) {a : Nat} (h : a < 16777216) : spRead sp a 1 = [memByte sp.cells (spDflt sp) a] := by
  simp [spRead, Nat.mod_eq_of_lt h]

theorem feltCore_read (rb : Byte) (epoch : Nat) (c : Core) {a : Nat} (h : a < 16777216) :
    spRead (feltCore rb epoch c).sp a 1 = if rb.getLsbD (a / 4096 / 512) = true then spRead c.sp a 1 else [0] := by
  have page : pageOf a = a / 4096 := Nat.mod_eq_of_lt (by omega)
  rw [spRead_one _ h, spRead_one _ h, feltCore_byte, page]
  split
  · rfl
  · rfl

/-! ### Exits (R552, R553) -/

theorem voileExit_eq {s : State} (ph : s.pw.phase = .exiting false) :
    exec .voileExit s = .next (powerDone (resumeDispatch { s with pw := { s.pw with phase := .active } })) :=
  congrArg Host.Outcome.next (if_pos ph)

/-- Steps 1 to 7 of Felt exit, before the modules and dispatch: what was powered down is as after a reset, but the blocks
retained and the program banks. -/
def feltAwake (s : State) : State :=
  { nextEpoch s with
    cores := s.cores.map (feltCore s.pw.rb s.freeCtr)
    hbm := { s.hbm with srState := [0, 0] }
    net := { s.net with ptpRuns := true }
    pw := { s.pw with
      phase := .active
      curDiv := effectiveDiv s.pw
      pendingDiv := none
      vddCore := coreVolts (effectiveDiv s.pw)
      vddSram := 750
      pllLocked := true
      wdtSuspended := false
      wdtSince := s.timeUs } }

theorem DispatchResumed.powerDone {s t : State} (h : DispatchResumed s t) : DispatchResumed s (powerDone t) := by
  rw [DispatchResumed, powerDone_host]
  exact h

/-- The state Felt exit leaves: modules and frames as before, dispatch resumed, and the request done. -/
def feltDone (s : State) : State :=
  powerDone (resumeDispatch (acceptFrames (endAborted (setLpModes (feltAwake s) false))))

theorem feltExit_eq {s : State} (ph : s.pw.phase = .exiting true) : exec .feltExit s = .next (feltDone s) := by
  show execFeltExit s = _
  rw [execFeltExit, if_neg (not_not.mpr ph)]
  rfl

theorem feltDone_pw (s : State) : (feltDone s).pw = { (feltAwake s).pw with
    abortLoads := []
    result := if s.pw.result = 1 then 2 else s.pw.result } := by
  obtain ⟨rings, ended⟩ := endAborted_ringsOnly (setLpModes (feltAwake s) false)
  rw [feltDone, ended, powerDone_pw]
  rfl

theorem feltDone_hbm (s : State) : (feltDone s).hbm = { s.hbm with srState := [0, 0] } := by
  rw [feltDone, powerDone_hbm]
  dsimp only [resumeDispatch, acceptFrames]
  rw [endAborted_hbm]
  rfl

theorem feltDone_flash (s : State) : (feltDone s).flash = s.flash := by
  rw [feltDone, powerDone_flash]
  dsimp only [resumeDispatch, acceptFrames]
  rw [(endAborted_undone _).flash]
  rfl

theorem feltDone_net (s : State) :
    (feltDone s).net = { (setLpModes (feltAwake s) false).net with dropping := s.log.fatal } := by
  obtain ⟨rings, ended⟩ := endAborted_ringsOnly (setLpModes (feltAwake s) false)
  rw [feltDone, ended, powerDone_net]
  rfl

theorem feltDone_resumed (s : State) : DispatchResumed s (feltDone s) := by
  obtain ⟨rings, ended⟩ := endAborted_ringsOnly (setLpModes (feltAwake s) false)
  rw [feltDone, ended]
  exact DispatchResumed.powerDone (SameHolds.resumes ⟨rfl, rfl, rfl, rfl⟩)

theorem feltDone_core (s : State) {k : Nat} (h : k < s.cores.length) :
    coreAt (feltDone s) k = feltCore s.pw.rb s.freeCtr (coreAt s k) := by
  have cores : (feltDone s).cores = s.cores.map (feltCore s.pw.rb s.freeCtr) := by
    rw [feltDone, powerDone_cores]
    dsimp only [resumeDispatch, acceptFrames]
    rw [(endAborted_undone _).cores]
    rfl
  simp [coreAt, cores, h]

/-! ### The statement -/

theorem exec_mgPwrReq {s : State} (v : Byte) (up : mgUp s = true) :
    exec (.mgPwrReq v) s = .next (powerAsk s 2 v.toNat s.mg.pwrRb.toNat) := congrArg Host.Outcome.next (if_pos up)

/-- A request for Active in Voile begins the exit. -/
theorem powerAsk_wake_voile {s : State} (mask : Nat) (ph : s.pw.phase = .voile) :
    ExitBegun s (powerAsk s 2 0 mask) false 32 := by
  have noted := exitBegun_voile (s := { s with pw := { s.pw with requester := 2, result := 1 } }) (src := 32) 0 ph
    (by rw [heardOf_request]; decide)
  rw [heardOf_request] at noted
  rw [powerAsk_wake mask (.inl ph)]
  exact { noted with
    powerOnly := PowerOnly.trans (t := { s with pw := { s.pw with requester := 2, result := 1 } }) rfl noted.powerOnly }

/-- A request for Active during an entry is noted as a wake. -/
theorem powerAsk_wake_entering {s : State} (mask : Nat) {f : Bool} {n : Nat} (ph : s.pw.phase = .entering f n)
    (first : s.pw.wakePending = false) : powerAsk s 2 0 mask = { s with pw := { s.pw with
      requester := 2
      result := 1
      wakePending := true
      wakeSrc := 32 } } := by
  have noted := wakeBy_entering (s := { s with pw := { s.pw with requester := 2, result := 1 } }) (src := 32) 0 ph
    (by rw [heardOf_request]; decide)
  rw [heardOf_request] at noted
  rw [powerAsk_wake mask (.inr (.inl ⟨f, n, ph⟩))]
  exact noted.trans (if_neg (by simp [first]))

theorem exec_wake (s : State) (src : BitVec 7) (port : Nat) : exec (.wake src port) s =
    .next (wakeBy s src.toNat (if s.pw.phase = .felt then s.net.wakePort.toNat else port)) := by
  show execWake src port s = _
  cases ph : s.pw.phase <;> simp [execWake, ph]

theorem exec_wakeTimer_waits {s : State}
    (h : s.pw.timerArmed = false ∨ s.pw.phase ≠ .voile ∧ s.pw.phase ≠ .felt) : exec .wakeTimer s = .next s := by
  refine congrArg Host.Outcome.next (if_neg ?_)
  obtain stopped | ⟨notVoile, notFelt⟩ := h
  · simp [stopped]
  · simp [notVoile, notFelt]

theorem exec_wakeTimer {s : State} (armed : s.pw.timerArmed = true) (low : s.pw.phase = .voile ∨ s.pw.phase = .felt) :
    exec .wakeTimer s = .next (wakeBy s 8 0) := congrArg Host.Outcome.next (if_pos (by simp [armed, low]))

theorem exec_wakeFrame_ignored {s : State} {port mac : Nat} {frame : Bytes}
    (h : (s.pw.phase ≠ .felt ∧ ∀ n, s.pw.phase ≠ .entering true n) ∨ isWakeFrame s port mac frame = false) :
    exec (.wakeFrame port mac frame) s = .next s := by
  refine congrArg Host.Outcome.next (if_neg ?_)
  obtain ⟨notFelt, notEntering⟩ | other := h
  · split
    · exact absurd ‹_› notFelt
    · exact absurd ‹_› (notEntering _)
    · simp
  · simp [other]

theorem exec_wakeFrame {s : State} {port mac : Nat} {frame : Bytes} (ph : s.pw.phase = .felt)
    (wakes : isWakeFrame s port mac frame = true) : exec (.wakeFrame port mac frame) s = .next (wakeBy s 2 port) :=
  congrArg Host.Outcome.next (if_pos (by simp [ph, wakes]))

/-- Settles O48: a request is decided by the first of its causes that holds, a wake is heard as its phase allows, and an
exit gives back what its state kept. -/
theorem powerRequestsAndWakes : Obligations.PowerRequestsAndWakes := by
  unfold Obligations.PowerRequestsAndWakes
  refine ⟨?requests, ?wakes, ?sources, ?exits⟩
  case requests =>
    intro s v up p i low moving waits debug port gets
    have run := exec_mgPwrReq v up
    have answered {r : Nat} (h : powerAsk s 2 v.toNat s.mg.pwrRb.toNat = powerResult (askedByPort s) r) :
        gets (BitVec.ofNat 4 r) := ⟨_, run.trans (congrArg Host.Outcome.next h), powerResult_answers s r⟩
    refine ⟨fun big => ?_, fun named other => ?_, ?_, ?_⟩
    · rw [run, powerAsk_ignored s _ big]
    · have other' : ¬ (v.toNat = 0 ∧ LowPhase s.pw.phase) := fun h => other ⟨BitVec.eq_of_toNat_eq h.1, h.2⟩
      refine ⟨fun busy => answered (powerAsk_inTransition _ up named other' busy), ?_, ?_, ?_, ?_, ?_, ?_⟩
      · rintro still rfl session
        exact answered (powerAsk_debug _ still up session)
      · intro still noDebug wrong
        exact answered (powerAsk_refused _ still named other' (fun h => noDebug ⟨BitVec.eq_of_toNat_eq h.1, h.2⟩)
          (wrong.imp_right fun h => ⟨congrArg BitVec.toNat h.1, h.2⟩))
      · rintro still rfl noDebug cold noPort
        exact answered (powerAsk_noPort _ still up noDebug cold noPort)
      · rintro still rfl ph
        exact answered (powerAsk_active _ still ph)
      · rintro still rfl ph
        exact run.trans (congrArg Host.Outcome.next (powerAsk_voile _ still ph))
      · rintro still rfl noDebug good ph
        have accepted := powerAsk_felt s.mg.pwrRb.toNat still noDebug good ph
        rw [BitVec.ofNat_toNat, BitVec.setWidth_eq] at accepted
        exact run.trans (congrArg Host.Outcome.next accepted)
    · rintro rfl ph
      have woke := powerAsk_wake_voile s.mg.pwrRb.toNat ph
      exact ⟨_, run, woke.powerOnly, woke.phase, BitVec.eq_of_toNat_eq woke.sources⟩
    · rintro rfl f n ph first
      exact ⟨_, run.trans (congrArg Host.Outcome.next (powerAsk_wake_entering _ ph first)), rfl, rfl, rfl, rfl⟩
  case wakes =>
    intro s src port p felt heard from1 value
    have bound : felt = feltBound s.pw.phase := by
      show (match s.pw.phase with | .felt => true | .entering f _ => f | _ => false) = _
      cases s.pw.phase <;> rfl
    have same : heard = heardOf s src := by simp only [heard, bound, heardOf]
    have sum : value = wakeValue (heardOf s src) from1 := by simp only [value, same, wakeValue]
    have run : exec (.wake src port) s = .next (wakeBy s src.toNat from1) := exec_wake s src port
    rw [sum, same, run]
    refine ⟨fun none => congrArg _ (wakeBy_unheard _ none), fun awake => congrArg _ (wakeBy_awake _ _ awake),
      fun some => ⟨?_, ?_, ?_, ?_⟩⟩
    · intro f n ph noted
      rw [wakeBy_entering _ ph some, if_pos noted]
    · intro f n ph first
      rw [wakeBy_entering _ ph some, if_neg (Bool.eq_false_iff.mp first)]
      exact ⟨_, rfl, rfl, wakeSrc_toNat ..⟩
    · intro ph
      obtain ⟨only, phase, sources, timer, alert⟩ := exitBegun_voile from1 ph some
      exact ⟨_, rfl, only, phase, sources, timer, alert⟩
    · intro ph
      obtain ⟨only, phase, sources, timer, alert⟩ := exitBegun_felt from1 ph some
      exact ⟨_, rfl, only, phase, sources, timer, alert⟩
  case sources =>
    intro s p out
    have begins {i : Instr} {t : State} {f : Bool} {v : Nat} (run : exec i s = .next t) (exit : ExitBegun s t f v) :
        ∃ t, exec i s = .next t ∧ out f v t := ⟨t, run, exit.powerOnly, exit.phase, exit.sources⟩
    refine ⟨exec_wakeTimer_waits, ?_, ?_, ?_, ?_, fun _ _ _ => exec_wakeFrame_ignored, ?_, isWakeFrame_iff s⟩
    · intro armed ph
      have exit := exitBegun_voile (src := 8) 0 ph (by rw [heardOf_timer]; decide)
      rw [heardOf_timer] at exit
      exact begins (exec_wakeTimer armed (.inl ph)) exit
    · intro armed ph
      have exit := exitBegun_felt (src := 8) 0 ph (by rw [heardOf_timer]; decide)
      rw [heardOf_timer] at exit
      exact begins (exec_wakeTimer armed (.inr ph)) exit
    · intro a other
      refine congrArg Host.Outcome.next (if_neg ?_)
      rintro ⟨ph, own, named⟩
      obtain notFelt | foreign | broadcast := other
      · exact notFelt ph
      · exact foreign own
      · exact named broadcast
    · intro a ph own named
      have exit := exitBegun_felt (src := 4) 0 ph (by rw [heardOf_address ph]; decide)
      rw [heardOf_address ph] at exit
      exact begins (congrArg Host.Outcome.next (if_pos ⟨ph, own, named⟩)) exit
    · intro port mac frame ph wakes
      obtain ⟨on, rfl, -⟩ := (isWakeFrame_iff ..).mp wakes
      have exit := exitBegun_felt (src := 2) s.net.wakePort.toNat ph (by rw [heardOf_network on]; decide)
      have value : 4096 + wakeValue 2 s.net.wakePort.toNat = 4098 + s.net.wakePort.toNat * 256 := by
        rw [wakeValue, if_pos (by decide), Nat.mod_eq_of_lt s.net.wakePort.isLt, ← Nat.add_assoc]
        rfl
      rw [heardOf_network on, value] at exit
      exact begins (exec_wakeFrame ph wakes) exit
  case exits =>
    intro s p done
    refine ⟨fun h => congrArg Host.Outcome.next (if_neg h), fun h => congrArg Host.Outcome.next (if_pos h),
      ?voileExit, ?feltExit⟩
    case voileExit =>
      intro ph
      refine ⟨_, voileExit_eq ph, ?_, DispatchResumed.powerDone (SameHolds.resumes ⟨rfl, rfl, rfl, rfl⟩), ?_, powerDone_cores _,
        powerDone_hbm _⟩
      · rw [powerDone_pw]
        rfl
      · simp only [done, powerDone_pw]
        rfl
    case feltExit =>
      intro ph
      have pw := feltDone_pw s
      refine ⟨_, feltExit_eq ph, congrArg Pw.phase pw, feltDone_resumed s, congrArg Pw.result pw, congrArg Pw.vddCore pw,
        congrArg Pw.vddSram pw, congrArg Pw.pllLocked pw, congrArg Pw.wdtSuspended pw, congrArg Pw.wdtSince pw,
        feltDone_hbm s, congrArg Net.ptpRuns (feltDone_net s), congrArg Net.dropping (feltDone_net s), feltDone_flash s,
        fun k hk => ?_⟩
      rw [feltDone_core s hk]
      exact ⟨rfl, rfl, rfl, rfl, rfl, rfl, feltCore_tag _ _ _, fun a ha => feltCore_read _ _ _ ha⟩

end Sys2Proof.Machine
end

section
/-!
SUPPORT. Cold and warm resets and a fall of a rail: what the parts of the state are after each, how a warm reset started in a
low-power state is noted as a wake, and what survives it (R171, R538 to R542, R566, R615).
-/

namespace Sys2Proof.Machine

/-! ### The parts after a reset (R542) -/

/-- A reset keeps the flash array with its tables and records; all else in the flash, but the cells and undefined pages of a
page being programmed, is as after reset. -/
theorem flashAfterReset_eq (f : Flash) (epoch : Nat) : ∃ cells free, flashAfterReset f epoch = { Flash.reset with
    cells := cells
    freePages := free
    eraseCount := f.eraseCount
    openFlags := f.openFlags
    password := f.password
    regions := f.regions
    worn := f.worn
    lives := f.lives
    record := f.record
    ch0 := FlashChan.reset epoch
    ch1 := FlashChan.reset epoch } := by
  unfold flashAfterReset
  split
  · split
    · exact ⟨_, _, rfl⟩
    · exact ⟨_, _, rfl⟩
  · exact ⟨_, _, rfl⟩

theorem flashAfterReset_channels (f : Flash) (epoch : Nat) :
    (flashAfterReset f epoch).ch0 = FlashChan.reset epoch ∧ (flashAfterReset f epoch).ch1 = FlashChan.reset epoch ∧
      (flashAfterReset f epoch).step = none ∧ (flashAfterReset f epoch).scanDone = false := by
  obtain ⟨cells, free, after⟩ := flashAfterReset_eq f epoch
  rw [after]
  exact ⟨rfl, rfl, rfl, rfl⟩

theorem flashAfterReset_survives (f : Flash) (epoch : Nat) :
    (flashAfterReset f epoch).password = f.password ∧ (flashAfterReset f epoch).regions = f.regions ∧
      (flashAfterReset f epoch).lives = f.lives ∧ (flashAfterReset f epoch).record = f.record := by
  obtain ⟨cells, free, after⟩ := flashAfterReset_eq f epoch
  rw [after]
  exact ⟨rfl, rfl, rfl, rfl⟩

theorem flashAfterReset_worn (f : Flash) (epoch : Nat) : (flashAfterReset f epoch).worn = f.worn := by
  obtain ⟨cells, free, after⟩ := flashAfterReset_eq f epoch
  rw [after]

theorem flashAfterReset_attempts (f : Flash) (epoch : Nat) : (flashAfterReset f epoch).attempts = 0 := by
  obtain ⟨cells, free, after⟩ := flashAfterReset_eq f epoch
  rw [after]
  rfl

/-- Every context, ring and flag is as after reset. -/
theorem hostAfterReset_contexts (h : HostIf) : (∀ x ∈ (hostAfterReset h).ctxs, x = Ctx.reset) ∧
    (∀ r ∈ (hostAfterReset h).rings, r = Ring.reset) ∧ ∀ f ∈ (hostAfterReset h).flags, f = 0 :=
  ⟨fun _ => List.eq_of_mem_map_const, fun _ => List.eq_of_mem_map_const, fun _ => List.eq_of_mem_map_const⟩

theorem coreAt_of_map {s t : State} {f : Core → Core} (mapped : t.cores = s.cores.map f) {k : Nat} (h : k < s.cores.length) :
    coreAt t k = f (coreAt s k) := by simp [coreAt, mapped, h]

/-- Cores that a reset has mapped by `f`, each to a core after reset but for a scratchpad `sp` holding nothing. -/
theorem mappedCores_reset {s t : State} {f : Core → Core} (mapped : t.cores = s.cores.map f) {sp : Core → Sp}
    (reset : ∀ c, f c = { Core.reset with mx := Mx.reset s.freeCtr, sp := sp c })
    (empty : ∀ c, (sp c).cells = [] ∧ (sp c).tags = [] ∧ (sp c).undef = []) :
    t.cores.length = s.cores.length ∧ ∀ k, k < s.cores.length →
      ∃ sp, coreAt t k = { Core.reset with mx := Mx.reset s.freeCtr, sp := sp } ∧ sp.cells = [] ∧ sp.tags = [] ∧ sp.undef = [] := by
  refine ⟨by rw [mapped, List.length_map], fun k hk => ⟨sp (coreAt s k), ?_, empty _⟩⟩
  rw [← reset, coreAt_of_map mapped hk]

/-! ### A cold reset and a fall of a rail (R538, R542, R566, R615) -/

theorem powerLost_resetDone (s : State) : ResetDone s (powerLost s) where
  queue := rfl
  cores := mappedCores_reset (sp := fun _ => Sp.reset) rfl (fun _ => rfl) fun _ => ⟨rfl, rfl, rfl⟩
  mesh := rfl
  calico := rfl
  contexts := hostAfterReset_contexts s.host
  host := ⟨rfl, rfl, rfl, rfl⟩
  network := ⟨rfl, rfl, rfl, rfl, rfl, rfl, fun _ => List.eq_of_mem_map_const⟩
  hbm := ⟨rfl, rfl, rfl⟩
  channels := flashAfterReset_channels s.flash s.freeCtr
  flash := flashAfterReset_survives s.flash s.freeCtr
  fuses := ⟨rfl, rfl, rfl⟩
  boot := ⟨rfl, rfl, rfl⟩
  sessions := ⟨rfl, rfl, rfl, rfl, rfl⟩
  fatal := ⟨rfl, rfl, rfl, rfl⟩
  soft := ⟨rfl, rfl, rfl, rfl, rfl, rfl⟩
  clocks := ⟨rfl, rfl, rfl, rfl, rfl, rfl, rfl, rfl⟩

theorem powerLost_cages (s : State) : ∀ c ∈ (powerLost s).net.cages, c = Cage.reset := fun _ => List.eq_of_mem_map_const

/-! ### A reset noted as a wake (R551) -/

/-- In `u` the power controller has noted a wake of `s`: its limits and its timer's value stay, and nothing else but an alert
differs. -/
structure WakeNoted (s u : State) : Prop where
  powerOnly : PowerOnly s u
  alarm : u.pw.alarm = s.pw.alarm
  wakeTimer : u.pw.wakeTimer = s.pw.wakeTimer
  capExceeded : u.pw.capExceeded = s.pw.capExceeded

theorem WakeNoted.refl (s : State) : WakeNoted s s := ⟨rfl, rfl, rfl, rfl⟩

theorem woken_noted (s : State) (value : Nat) : WakeNoted s (woken s value) := by
  unfold woken
  split
  · split
    · exact .refl s
    · exact ⟨rfl, rfl, rfl, rfl⟩
  · exact ⟨rfl, rfl, rfl, rfl⟩
  · exact ⟨rfl, rfl, rfl, rfl⟩
  · exact .refl s

theorem wakeBy_noted (s : State) (src : BitVec 7) (port : Nat) : WakeNoted s (wakeBy s src.toNat port) := by
  by_cases heard : heardOf s src = 0
  · rw [wakeBy_unheard port heard]
    exact .refl s
  · rw [wakeBy_heard port heard]
    exact woken_noted s _

/-- The phases in which a reset is a wake, whoever asked for it. -/
def lowPower (p : PwPhase) : Bool :=
  match p with
  | .voile => true
  | .felt => true
  | .entering _ _ => true
  | .exiting _ => true
  | _ => false

/-- The state with the reset noted as a wake: by a pin always, else in a low-power state or a transition. -/
def resetNoted (s : State) (pin : Bool) : State :=
  if pin || lowPower s.pw.phase then wakeBy s (64 : BitVec 7).toNat 0 else s

theorem resetNoted_noted (s : State) (pin : Bool) : WakeNoted s (resetNoted s pin) := by
  unfold resetNoted
  split
  · exact wakeBy_noted s 64 0
  · exact .refl s

/-- A reset is heard in every phase. -/
theorem heardOf_reset (s : State) : heardOf s 64 = 64 := by
  unfold heardOf
  cases feltBound s.pw.phase <;> cases s.net.wakeEnable <;> rfl

theorem resetNoted_low {s : State} (pin : Bool) (low : lowPower s.pw.phase = true) :
    resetNoted s pin = wakeBy s (64 : BitVec 7).toNat 0 := if_pos (by rw [low, Bool.or_true])

theorem resetNoted_wakeSrc_voile {s : State} (pin : Bool) (ph : s.pw.phase = .voile) :
    (resetNoted s pin).pw.wakeSrc = 64 := by
  have exit := exitBegun_voile (src := 64) 0 ph (by rw [heardOf_reset]; decide)
  rw [heardOf_reset] at exit
  rw [resetNoted_low pin (by rw [ph]; rfl)]
  exact BitVec.eq_of_toNat_eq exit.sources

theorem resetNoted_wakeSrc_felt {s : State} (pin : Bool) (ph : s.pw.phase = .felt) :
    (resetNoted s pin).pw.wakeSrc = 4160 := by
  have exit := exitBegun_felt (src := 64) 0 ph (by rw [heardOf_reset]; decide)
  rw [heardOf_reset] at exit
  rw [resetNoted_low pin (by rw [ph]; rfl)]
  exact BitVec.eq_of_toNat_eq exit.sources

/-- In Active there is nothing to wake. -/
theorem resetNoted_active {s : State} (pin : Bool) (ph : s.pw.phase = .active) : resetNoted s pin = s := by
  unfold resetNoted
  split
  · exact wakeBy_awake 64 0 (.inl ph)
  · rfl

/-! ### A warm reset (R539, R540, R542) -/

/-- A warm reset of `u` with nothing more to note: by PW_CTRL, as if in Active. -/
def warmed (u : State) : State := warmReset { u with pw := { u.pw with phase := .active } } false

/-- A warm reset first notes a wake; the phase has no other part in it. -/
theorem warmReset_eq (s : State) (pin : Bool) : warmReset s pin = warmed (resetNoted s pin) := by
  have epoch : (resetNoted s pin).freeCtr = s.freeCtr := by rw [(resetNoted_noted s pin).powerOnly]
  calc warmReset s pin
      = { warmed { resetNoted s pin with freeCtr := s.freeCtr } with freeCtr := (resetNoted s pin).freeCtr + 1 } := rfl
    _ = warmed (resetNoted s pin) := by
      rw [← epoch]
      rfl

/-- With no write waiting in a channel, HBM's cells stay. -/
theorem hbmAfterWarm_cells {h : Hbm} (quiet : ∀ p ∈ h.chans, p.2.writes = []) : (hbmAfterWarm h).cells = h.cells := by
  have pend : h.chans.flatMap (fun p => p.2.writes) = [] := List.flatMap_eq_nil_iff.mpr quiet
  simp [hbmAfterWarm, pend]

/-- Whatever the power controller and the management port of `s` held, a warm reset leaves the state of R542. -/
theorem warmed_resetDone (s : State) (p : Pw) (g : Mg) : ResetDone s (warmed { s with pw := p, mg := g }) where
  queue := rfl
  cores := mappedCores_reset (sp := fun c => (coreAfterWarm s.freeCtr c).sp) rfl (fun _ => rfl) fun _ => ⟨rfl, rfl, rfl⟩
  mesh := rfl
  calico := rfl
  contexts := hostAfterReset_contexts s.host
  host := ⟨rfl, rfl, rfl, rfl⟩
  network := ⟨rfl, rfl, rfl, rfl, rfl, rfl, fun _ => List.eq_of_mem_map_const⟩
  hbm := ⟨rfl, rfl, rfl⟩
  channels := flashAfterReset_channels s.flash s.freeCtr
  flash := flashAfterReset_survives s.flash s.freeCtr
  fuses := ⟨rfl, rfl, rfl⟩
  boot := ⟨rfl, rfl, rfl⟩
  sessions := ⟨rfl, rfl, rfl, rfl, rfl⟩
  fatal := ⟨rfl, rfl, rfl, rfl⟩
  soft := ⟨rfl, rfl, rfl, rfl, rfl, rfl⟩
  clocks := ⟨rfl, rfl, rfl, rfl, rfl, rfl, rfl, rfl⟩

/-- The error counts of a core's scratchpad survive a warm reset. -/
theorem warmed_eccCounts (u : State) {k : Nat} (h : k < u.cores.length) :
    (coreAt (warmed u) k).sp.eccCorrected = (coreAt u k).sp.eccCorrected ∧
      (coreAt (warmed u) k).sp.eccLast = (coreAt u k).sp.eccLast := by
  rw [coreAt_of_map (s := u) (f := coreAfterWarm u.freeCtr) rfl h]
  exact ⟨rfl, rfl⟩

/-! ### The statement -/

theorem exec_warmReset {s : State} (pin : Bool) (on : s.pw.phase ≠ .off) :
    exec (.warmReset pin) s = .next (warmed (resetNoted s pin)) := by
  rw [← warmReset_eq]
  exact congrArg Host.Outcome.next (if_pos (by simp [powered, on]))

/-- Settles O50: a cold reset and a fall of a rail are `powerLost` with one field set; a warm reset is that of an Active device
in which the wake has been noted. -/
theorem resetsLeaveTheSurvivingState : Obligations.ResetsLeaveTheSurvivingState := by
  unfold Obligations.ResetsLeaveTheSurvivingState
  refine ⟨?cold, ?rail, ?warm, ?lock⟩
  case cold =>
    intro s maddr
    exact ⟨_, rfl, { powerLost_resetDone s with }, rfl, rfl, rfl, rfl, rfl, flashAfterReset_attempts _ _, rfl,
      powerLost_cages s, rfl⟩
  case rail =>
    intro s
    exact ⟨_, rfl, { powerLost_resetDone s with }, rfl, rfl, rfl⟩
  case warm =>
    intro s pin
    refine ⟨fun off => congrArg Host.Outcome.next (if_neg (by simp [powered, off])), fun on => ?_⟩
    have noted := resetNoted_noted s pin
    have only : resetNoted s pin = _ := noted.powerOnly
    refine ⟨_, exec_warmReset pin on, ?done, rfl, ?kept⟩
    case done =>
      rw [only]
      exact warmed_resetDone s _ _
    case kept =>
      have voile := resetNoted_wakeSrc_voile (s := s) pin
      have felt := resetNoted_wakeSrc_felt (s := s) pin
      have active (ph : s.pw.phase = .active) := congrArg (·.pw.wakeSrc) (resetNoted_active pin ph)
      generalize resetNoted s pin = u at *
      rw [only]
      exact ⟨hbmAfterWarm_cells, rfl, rfl, rfl, rfl, rfl, rfl, rfl, rfl, rfl, rfl, rfl, rfl, rfl, rfl,
        noted.alarm, noted.wakeTimer, noted.capExceeded, flashAfterReset_worn _ _, rfl, voile, felt, active,
        fun k hk => warmed_eccCounts { s with pw := _, mg := _ } hk⟩
  case lock =>
    intro s ready
    refine ⟨fun waits => congrArg Host.Outcome.next (if_pos ?_), fun due => congrArg Host.Outcome.next (if_neg ?_)⟩
    · by_contra h
      exact waits (by simpa [ready] using h)
    · simpa [ready] using due

end Sys2Proof.Machine
end
